-- ==== Sys2Proof/Word.lean ====
section
/-! DEFINITION. Words, bytes, addresses and lane rows of the W64, and the plainest types shared by every file. -/

namespace Sys2Proof

/-- One byte of memory, scratch or a record. -/
abbrev Byte := BitVec 8

/-- A lane word or an S register (R6, R32). -/
abbrev Word := BitVec 32

/-- A 64-bit address, key, time or register pair (R7). -/
abbrev Addr := BitVec 64

/-- A register number field of an instruction word (R65). -/
abbrev Reg := BitVec 7

/-- One V register of a swell: its 32 lanes (R30). -/
abbrev Row := Vector Word 32

/-- A sorted list of key and value pairs. Its operations are in Machine/Ops.lean. -/
abbrev KV (α : Type) := List (Nat × α)

end Sys2Proof
end

