-- ==== Sys2Proof/Syntax.lean ====
section
/-! DEFINITION. The instructions of the W64 as syntax: operand forms of R65 to R85, and one constructor of Instr for every row of the opcode table. The rows without an encoding are events: steps of an agent of the device or inputs from outside. -/

namespace Sys2Proof

/-- HOLD, bits 3:2 of an HP word (R69). -/
inductive Hold where | none | a | b | c
deriving DecidableEq, Repr

/-- PM, the lane selection of a word (R68): the active mask, or the mask ANDed with S1, S2 or S3. -/
inductive Pm where | all | s1 | s2 | s3
deriving DecidableEq, Repr

/-- Rounding modes (R16). -/
inductive Rm where | rne | rtz | rup | rdn
deriving DecidableEq, Repr

/-- Cache policies of a modifiers HINT (R76). -/
inductive CachePol where | normal | stream | noAllocate | memorySide
deriving DecidableEq, Repr

/-- SZ codes of the MEM format (R84). -/
inductive MemSize where | s8 | z8 | s16 | z16 | w32 | w64 | w128
deriving DecidableEq, Repr

/-- CVT source codes (R85). -/
inductive CvtSrc where | fp32 | fp16 | bf16 | e4m3 | e5m2 | s32 | n32
deriving DecidableEq, Repr

/-- CVT destination codes 0 to 10 (R85). -/
inductive CvtDst where | fp32 | fp16 | bf16 | e4m3 | e5m2 | s32 | n32 | s16 | n16 | s8 | n8
deriving DecidableEq, Repr

/-- Scopes of FENCE (R82). -/
inductive FenceScope where | core | cluster | die
deriving DecidableEq, Repr

/-- REG format, X in the HP role (R65, R68). -/
structure RegHP where
  d : Reg
  a : Reg
  b : Reg
  hold : Hold
  pm : Pm
deriving DecidableEq, Repr

/-- REG group form and REGF: three register fields. -/
structure Reg3 where
  d : Reg
  a : Reg
  b : Reg
deriving DecidableEq, Repr

/-- FUN format, X in the HP role. -/
structure FunHP where
  d : Reg
  a : Reg
  hold : Hold
  pm : Pm
deriving DecidableEq, Repr

/-- FUN group form: two register fields. -/
structure Reg2 where
  d : Reg
  a : Reg
deriving DecidableEq, Repr

/-- IMM format with PM. -/
structure ImmPM where
  d : Reg
  a : Reg
  imm : BitVec 9
  pm : Pm
deriving DecidableEq, Repr

/-- IMM group form. -/
structure ImmG where
  d : Reg
  a : Reg
  imm : BitVec 9
deriving DecidableEq, Repr

/-- SHI with PM: a shift amount of five bits (R83). -/
structure ShiftPM where
  d : Reg
  a : Reg
  amount : BitVec 5
  pm : Pm
deriving DecidableEq, Repr

/-- SHI group form. -/
structure ShiftG where
  d : Reg
  a : Reg
  amount : BitVec 5
deriving DecidableEq, Repr

/-- MOVI with PM (IMM16). -/
structure MoviPM where
  d : Reg
  imm : BitVec 16
  pm : Pm
deriving DecidableEq, Repr

/-- MOVI group form. -/
structure MoviG where
  d : Reg
  imm : BitVec 16
deriving DecidableEq, Repr

/-- CMPI with PM: a six-bit immediate (R83). -/
structure CmpPM where
  d : Reg
  a : Reg
  imm : BitVec 6
  pm : Pm
deriving DecidableEq, Repr

/-- CMPI group form. -/
structure CmpG where
  d : Reg
  a : Reg
  imm : BitVec 6
deriving DecidableEq, Repr

/-- CVT with a destination code of 0 to 10 (R128). -/
structure CvtPM where
  d : Reg
  a : Reg
  src : CvtSrc
  dst : CvtDst
  hold : Hold
  pm : Pm
deriving DecidableEq, Repr

/-- CVT to BS8 or BS4 (R131). -/
structure CvtBlkPM where
  d : Reg
  a : Reg
  src : CvtSrc
  hold : Hold
  pm : Pm
deriving DecidableEq, Repr

/-- CVT group form. -/
structure CvtG where
  d : Reg
  a : Reg
  src : CvtSrc
  dst : CvtDst
deriving DecidableEq, Repr

/-- SHFL.UP and SHFL.DN: KEEP and a constant (R134). -/
structure ShflKeep where
  d : Reg
  a : Reg
  keep : Bool
  c : BitVec 5
deriving DecidableEq, Repr

/-- SHFL.XOR: a constant (R134). -/
structure ShflXor where
  d : Reg
  a : Reg
  c : BitVec 5
deriving DecidableEq, Repr

/-- NBRGET (R142). -/
structure NbrGetOp where
  d : Reg
  pm : Pm
deriving DecidableEq, Repr

/-- NBRSET (R142). -/
structure NbrSetOp where
  a : Reg
  hold : Hold
  pm : Pm
deriving DecidableEq, Repr

/-- MEM format (R65). -/
structure MemOp where
  d : Reg
  a : Reg
  sz : MemSize
  off : BitVec 4
  la : BitVec 4
deriving DecidableEq, Repr

/-- TAG members with a D field (R227). `bs` is BS. -/
structure TagOp where
  d : Reg
  a : Reg
  bs : Bool
  la : BitVec 4
deriving DecidableEq, Repr

/-- SETE (R227). -/
structure TagAddrOp where
  a : Reg
  bs : Bool
  la : BitVec 4
deriving DecidableEq, Repr

/-- RED (R205): address and operand. -/
structure RedOp where
  a : Reg
  b : Reg
deriving DecidableEq, Repr

/-- REG format with LA: MMA, MMAZ and TEX. -/
structure Reg3LA where
  d : Reg
  a : Reg
  b : Reg
  la : BitVec 4
deriving DecidableEq, Repr

/-- REORDER (R219). -/
structure ReorderOp where
  d : Reg
  a : Reg
  id : BitVec 7
  la : BitVec 4
deriving DecidableEq, Repr

/-- FUN format with LA: two register fields. -/
structure Reg2LA where
  d : Reg
  a : Reg
  la : BitVec 4
deriving DecidableEq, Repr

/-- PF (R200). -/
structure PrefetchOp where
  a : Reg
  off : BitVec 4
  la : BitVec 4
deriving DecidableEq, Repr

/-- BRZ, BRNZ, CALL and SPLIT (R147, R152). -/
structure BranchOp where
  c : Reg
  off : BitVec 18
deriving DecidableEq, Repr

/-- SRD (R155): destination and system register number. -/
structure SrdOp where
  d : Reg
  n : Reg
deriving DecidableEq, Repr

/-- SWR (R155): system register number and source. -/
structure SwrOp where
  n : Reg
  a : Reg
deriving DecidableEq, Repr

/-- LEAVE, LEAVE.END and ABANDON (R302). -/
structure SectOp where
  a : Reg
  la : BitVec 4
deriving DecidableEq, Repr

/-- The payload of a modifiers HINT (R76). -/
structure ModHint where
  pmx : Pm
  acq : Bool
  rel : Bool
  cp : CachePol
  rse : Bool
  rm : Rm
  sat : Bool
  te : Bool
  ts : Reg
deriving DecidableEq, Repr

/-- The payload of a scheduling HINT (R78). -/
structure SchedHint where
  ya : Bool
  tpe : Bool
  tp : BitVec 3
  lae : Bool
  lav : BitVec 4
deriving DecidableEq, Repr

/-- A resident swell: `key` is 32 times the core number plus the slot, and `uid` tells one swell of a slot from the next. Core numbers are 256 · die + 64 · cluster + core index (R2). -/
structure SwellId where
  key : Nat
  uid : Nat
deriving DecidableEq, Repr

/-- A fragment: a swell and a split-table entry (R41). -/
structure FragId where
  key : Nat
  uid : Nat
  ent : Nat
deriving DecidableEq, Repr

/-- What a page request is for (the KIND byte of a fault-queue entry, R417). -/
structure ReqKind where
  write : Bool
  fetch : Bool
  engine : Bool
  tex : Bool
deriving DecidableEq, Repr

/-- A request to a key's home: the requesting fragment, its context, the key, the sequence number of an ENTER and the destination S register of a reply (R302 to R306). -/
structure SectReq where
  fr : FragId
  ctx : Nat
  key : Addr
  seq : Word
  d : Reg
deriving DecidableEq, Repr

/-- LEAVE, LEAVE.END or ABANDON (R305). `torn` marks the abandonment that a teardown makes (R315). -/
inductive LeaveKind where | leave | leaveEnd | abandon | torn
deriving DecidableEq, Repr

/-- One vertex of an emitted primitive: 16.8 coordinates and an FP32 depth, as the lane held them (R319). -/
structure Vertex where
  x : Word
  y : Word
  z : Word
deriving DecidableEq, Repr

/-- A primitive packet: the token (g, p, draw), the vertices, BLEND and the attribute pointer (R321). -/
structure Prim where
  g : Nat
  p : Nat
  draw : Nat
  v0 : Vertex
  v1 : Vertex
  v2 : Vertex
  blend : Bool
  attr : Addr
deriving DecidableEq, Repr

/-- Where registers are written (R364, R379, R414, R415, R418): the work function of a context, PF1, the data function of the port on a die, a die's controller by its firmware, whose registers have the offsets of the die block (log 60), or the PCIe configuration of the work function of a context, by which the function assigns the context's PASID (R411; log 8). -/
inductive HostFn where
  | work (ctx : Nat)
  | pf1
  | data (die : Nat)
  | firmware (die : Nat)
  | config (ctx : Nat)
deriving DecidableEq, Repr

/-- A put that arrives from a package (R422): window, target offset and bytes, and for WSIG the signal offset and value. -/
structure PutIn where
  ctx : Nat
  win : Nat
  toff : Nat
  bytes : List Byte
  sig : Option (Nat × Word)
deriving DecidableEq, Repr

/-- Phases of a live firmware update of one die (R432): it begins, and it ends with the image that the die then runs (R430). -/
inductive UpdPhase where | begin | finish (image : List Byte)
deriving DecidableEq, Repr

/-- Parts that are repaired or swapped while the package runs (R432, R433): with them an inter-die link that field service takes out of the live link table or puts into it, with its die, its edge and its new entry (R383; log 74). -/
inductive SwapPart where
  | powerStage (n : Nat)
  | pump (n : Nat)
  | optical (link : Nat)
  | management
  | interDie (die edge : Nat) (entry : BitVec 16)
deriving DecidableEq, Repr

/-- A reinstatement record of Damlin service whose signature is valid (R385): the part it is bound to, the core, and the entry of its die's retirement log that it cancels, by its place in that log. -/
structure Reinstatement where
  serial : Addr
  core : Nat
  entry : Nat
deriving DecidableEq, Repr

/-- What a boot finds in the part's records (R383 to R387, R411): the factory link table, the fuse map, entries of the retirement logs that the dies do not hold yet (core, reason and ATIME), reinstatement records with a valid signature, the cores that fail this boot's self-test, the cap of a feature token with a valid signature, the primary port that the boot configuration names, whether the management module that holds it is present, and the ports whose link is up. -/
structure BootCfg where
  links : List (Nat × BitVec 16)
  fused : List Nat
  retired : List (Nat × Nat × Addr)
  reinstated : List Reinstatement
  failing : List Nat
  cap : Option Nat
  primary : Option Nat
  managed : Bool
  portsUp : List Nat
deriving DecidableEq, Repr

/-- The instructions and events of the W64: one constructor for each row of the opcode table (R80, R81 and the events of the other chapters). -/
inductive Instr where
  /-- ADD (R100): Lane-scope wrapping 32-bit addition of A and B into D. -/
  | add (o : RegHP)
  /-- ADD_GROUP (R100): Group mirror of ADD on S registers. -/
  | addGroup (o : Reg3)
  /-- SUB (R100): Lane-scope wrapping subtraction A minus B. -/
  | sub (o : RegHP)
  /-- SUB_GROUP (R100): Group mirror of SUB. -/
  | subGroup (o : Reg3)
  /-- MUL (R100): Low 32 bits of the product of A and B. -/
  | mul (o : RegHP)
  /-- MUL_GROUP (R100): Group mirror of MUL. -/
  | mulGroup (o : Reg3)
  /-- MAC (R100): D plus A times B, wrapping. -/
  | mac (o : RegHP)
  /-- MAC_GROUP (R100): Group mirror of MAC. -/
  | macGroup (o : Reg3)
  /-- AND (R100): Bitwise AND of A and B. -/
  | and (o : RegHP)
  /-- AND_GROUP (R100): Group mirror of AND. -/
  | andGroup (o : Reg3)
  /-- OR (R100): Bitwise OR of A and B. -/
  | or (o : RegHP)
  /-- OR_GROUP (R100): Group mirror of OR. -/
  | orGroup (o : Reg3)
  /-- XOR (R100): Bitwise XOR of A and B. -/
  | xor (o : RegHP)
  /-- XOR_GROUP (R100): Group mirror of XOR. -/
  | xorGroup (o : Reg3)
  /-- ANDN (R100): A AND NOT B. -/
  | andn (o : RegHP)
  /-- ANDN_GROUP (R100): Group mirror of ANDN. -/
  | andnGroup (o : Reg3)
  /-- SHL (R101): Left shift by the whole value of B, zero at 32 or more. -/
  | shl (o : RegHP)
  /-- SHL_GROUP (R101): Group mirror of SHL. -/
  | shlGroup (o : Reg3)
  /-- SHR (R101): Logical right shift by B. -/
  | shr (o : RegHP)
  /-- SHR_GROUP (R101): Group mirror of SHR. -/
  | shrGroup (o : Reg3)
  /-- SRA (R101): Arithmetic right shift by B, count capped at 31. -/
  | sra (o : RegHP)
  /-- SRA_GROUP (R101): Group mirror of SRA. -/
  | sraGroup (o : Reg3)
  /-- MIN (R100): Signed minimum of A and B. -/
  | min (o : RegHP)
  /-- MIN_GROUP (R100): Group mirror of MIN. -/
  | minGroup (o : Reg3)
  /-- MAX (R100): Signed maximum of A and B. -/
  | max (o : RegHP)
  /-- MAX_GROUP (R100): Group mirror of MAX. -/
  | maxGroup (o : Reg3)
  /-- MINN (R100): Natural minimum of A and B. -/
  | minn (o : RegHP)
  /-- MINN_GROUP (R100): Group mirror of MINN. -/
  | minnGroup (o : Reg3)
  /-- MAXN (R100): Natural maximum of A and B. -/
  | maxn (o : RegHP)
  /-- MAXN_GROUP (R100): Group mirror of MAXN. -/
  | maxnGroup (o : Reg3)
  /-- SEL (R100): Bitwise select of A or B with D as selector. -/
  | sel (o : RegHP)
  /-- SEL_GROUP (R100): Group mirror of SEL. -/
  | selGroup (o : Reg3)
  /-- CEQ (R100): All ones if A equals B, else zero. -/
  | ceq (o : RegHP)
  /-- CEQ_GROUP (R100): Group mirror of CEQ. -/
  | ceqGroup (o : Reg3)
  /-- CNE (R100): All ones if A differs from B. -/
  | cne (o : RegHP)
  /-- CNE_GROUP (R100): Group mirror of CNE. -/
  | cneGroup (o : Reg3)
  /-- CLT (R100): All ones if A is signed-less than B. -/
  | clt (o : RegHP)
  /-- CLT_GROUP (R100): Group mirror of CLT. -/
  | cltGroup (o : Reg3)
  /-- CLE (R100): All ones if A is signed-less than or equal to B. -/
  | cle (o : RegHP)
  /-- CLE_GROUP (R100): Group mirror of CLE. -/
  | cleGroup (o : Reg3)
  /-- CLTN (R100): All ones if A is natural-less than B. -/
  | cltn (o : RegHP)
  /-- CLTN_GROUP (R100): Group mirror of CLTN. -/
  | cltnGroup (o : Reg3)
  /-- CLEN (R100): All ones if A is natural-less than or equal to B. -/
  | clen (o : RegHP)
  /-- CLEN_GROUP (R100): Group mirror of CLEN. -/
  | clenGroup (o : Reg3)
  /-- MULH (R104): High word of the signed product. -/
  | mulh (o : Reg3)
  /-- MULH_GROUP (R104): Group mirror of MULH. -/
  | mulhGroup (o : Reg3)
  /-- MULHN (R104): High word of the natural product. -/
  | mulhn (o : Reg3)
  /-- MULHN_GROUP (R104): Group mirror of MULHN. -/
  | mulhnGroup (o : Reg3)
  /-- ADDS (R104): Signed saturating addition without flags. -/
  | adds (o : Reg3)
  /-- ADDS_GROUP (R104): Group mirror of ADDS. -/
  | addsGroup (o : Reg3)
  /-- SUBS (R104): Signed saturating subtraction without flags. -/
  | subs (o : Reg3)
  /-- SUBS_GROUP (R104): Group mirror of SUBS. -/
  | subsGroup (o : Reg3)
  /-- ROL (R104): Rotate A left by B mod 32. -/
  | rol (o : Reg3)
  /-- ROL_GROUP (R104): Group mirror of ROL. -/
  | rolGroup (o : Reg3)
  /-- BFX (R105): Signed bit-field extract under B's control word. -/
  | bfx (o : Reg3)
  /-- BFX_GROUP (R105): Group mirror of BFX. -/
  | bfxGroup (o : Reg3)
  /-- BFXN (R105): Natural bit-field extract. -/
  | bfxn (o : Reg3)
  /-- BFXN_GROUP (R105): Group mirror of BFXN. -/
  | bfxnGroup (o : Reg3)
  /-- BFI (R105): Insert the low bits of A into a field of D. -/
  | bfi (o : Reg3)
  /-- BFI_GROUP (R105): Group mirror of BFI. -/
  | bfiGroup (o : Reg3)
  /-- DIVS (R106): Signed divide writing quotient and remainder to a pair. -/
  | divs (o : Reg3)
  /-- DIVS_GROUP (R106): Group mirror of DIVS. -/
  | divsGroup (o : Reg3)
  /-- DIVN (R106): Natural divide writing quotient and remainder to a pair. -/
  | divn (o : Reg3)
  /-- DIVN_GROUP (R106): Group mirror of DIVN. -/
  | divnGroup (o : Reg3)
  /-- ORN (R104): A OR NOT B. -/
  | orn (o : Reg3)
  /-- ORN_GROUP (R104): Group mirror of ORN. -/
  | ornGroup (o : Reg3)
  /-- XNOR (R104): NOT of A XOR B. -/
  | xnor (o : Reg3)
  /-- XNOR_GROUP (R104): Group mirror of XNOR. -/
  | xnorGroup (o : Reg3)
  /-- MOV (R108): Copy A to D. -/
  | mov (o : FunHP)
  /-- MOV_GROUP (R108): Group mirror of MOV. -/
  | movGroup (o : Reg2)
  /-- NOT (R108): Bitwise complement of A. -/
  | not (o : FunHP)
  /-- NOT_GROUP (R108): Group mirror of NOT. -/
  | notGroup (o : Reg2)
  /-- NEG (R108): Wrapping negation of A. -/
  | neg (o : FunHP)
  /-- NEG_GROUP (R108): Group mirror of NEG. -/
  | negGroup (o : Reg2)
  /-- ABS (R108): Wrapping absolute value of A. -/
  | abs (o : FunHP)
  /-- ABS_GROUP (R108): Group mirror of ABS. -/
  | absGroup (o : Reg2)
  /-- CLZ (R108): Count of leading zero bits. -/
  | clz (o : FunHP)
  /-- CLZ_GROUP (R108): Group mirror of CLZ. -/
  | clzGroup (o : Reg2)
  /-- CTZ (R108): Count of trailing zero bits. -/
  | ctz (o : FunHP)
  /-- CTZ_GROUP (R108): Group mirror of CTZ. -/
  | ctzGroup (o : Reg2)
  /-- POPC (R108): Count of one bits. -/
  | popc (o : FunHP)
  /-- POPC_GROUP (R108): Group mirror of POPC. -/
  | popcGroup (o : Reg2)
  /-- BREV (R108): Bit reversal of A. -/
  | brev (o : FunHP)
  /-- BREV_GROUP (R108): Group mirror of BREV. -/
  | brevGroup (o : Reg2)
  /-- BSWAP (R108): Byte reversal of A. -/
  | bswap (o : FunHP)
  /-- BSWAP_GROUP (R108): Group mirror of BSWAP. -/
  | bswapGroup (o : Reg2)
  /-- SEXTB (R108): Sign-extend the low byte. -/
  | sextb (o : FunHP)
  /-- SEXTB_GROUP (R108): Group mirror of SEXTB. -/
  | sextbGroup (o : Reg2)
  /-- SEXTH (R108): Sign-extend the low half. -/
  | sexth (o : FunHP)
  /-- SEXTH_GROUP (R108): Group mirror of SEXTH. -/
  | sexthGroup (o : Reg2)
  /-- ZEXTB (R108): Zero-extend the low byte. -/
  | zextb (o : FunHP)
  /-- ZEXTB_GROUP (R108): Group mirror of ZEXTB. -/
  | zextbGroup (o : Reg2)
  /-- ZEXTH (R108): Zero-extend the low half. -/
  | zexth (o : FunHP)
  /-- ZEXTH_GROUP (R108): Group mirror of ZEXTH. -/
  | zexthGroup (o : Reg2)
  /-- ADDI (R109): Add an immediate to A. -/
  | addi (o : ImmPM)
  /-- ADDI_GROUP (R109): Group mirror of ADDI. -/
  | addiGroup (o : ImmG)
  /-- ANDI (R109): AND A with an immediate. -/
  | andi (o : ImmPM)
  /-- ANDI_GROUP (R109): Group mirror of ANDI. -/
  | andiGroup (o : ImmG)
  /-- ORI (R109): OR A with an immediate. -/
  | ori (o : ImmPM)
  /-- ORI_GROUP (R109): Group mirror of ORI. -/
  | oriGroup (o : ImmG)
  /-- XORI (R109): XOR A with an immediate. -/
  | xori (o : ImmPM)
  /-- XORI_GROUP (R109): Group mirror of XORI. -/
  | xoriGroup (o : ImmG)
  /-- SHLI (R110): Shift left by an immediate count. -/
  | shli (o : ShiftPM)
  /-- SHLI_GROUP (R110): Group mirror of SHLI. -/
  | shliGroup (o : ShiftG)
  /-- SHRI (R110): Logical right shift by an immediate count. -/
  | shri (o : ShiftPM)
  /-- SHRI_GROUP (R110): Group mirror of SHRI. -/
  | shriGroup (o : ShiftG)
  /-- SRAI (R110): Arithmetic right shift by an immediate count. -/
  | srai (o : ShiftPM)
  /-- SRAI_GROUP (R110): Group mirror of SRAI. -/
  | sraiGroup (o : ShiftG)
  /-- ROLI (R110): Rotate left by an immediate count. -/
  | roli (o : ShiftPM)
  /-- ROLI_GROUP (R110): Group mirror of ROLI. -/
  | roliGroup (o : ShiftG)
  /-- MOVI (R111): Load a 16-bit or hinted 32-bit immediate. -/
  | movi (o : MoviPM)
  /-- MOVI_GROUP (R111): Group mirror of MOVI. -/
  | moviGroup (o : MoviG)
  /-- CMPI_EQ (R112): All ones if A equals the immediate. -/
  | cmpiEq (o : CmpPM)
  /-- CMPI_EQ_GROUP (R112): Group mirror of CMPI.EQ. -/
  | cmpiEqGroup (o : CmpG)
  /-- CMPI_NE (R112): All ones if A differs from the immediate. -/
  | cmpiNe (o : CmpPM)
  /-- CMPI_NE_GROUP (R112): Group mirror of CMPI.NE. -/
  | cmpiNeGroup (o : CmpG)
  /-- CMPI_LT (R112): All ones if A is signed-less than the immediate. -/
  | cmpiLt (o : CmpPM)
  /-- CMPI_LT_GROUP (R112): Group mirror of CMPI.LT. -/
  | cmpiLtGroup (o : CmpG)
  /-- CMPI_LE (R112): All ones if A is signed-less or equal to the immediate. -/
  | cmpiLe (o : CmpPM)
  /-- CMPI_LE_GROUP (R112): Group mirror of CMPI.LE. -/
  | cmpiLeGroup (o : CmpG)
  /-- CMPI_LTN (R112): All ones if A is natural-less than the immediate. -/
  | cmpiLtn (o : CmpPM)
  /-- CMPI_LTN_GROUP (R112): Group mirror of CMPI.LTN. -/
  | cmpiLtnGroup (o : CmpG)
  /-- CMPI_LEN (R112): All ones if A is natural-less or equal to the immediate. -/
  | cmpiLen (o : CmpPM)
  /-- CMPI_LEN_GROUP (R112): Group mirror of CMPI.LEN. -/
  | cmpiLenGroup (o : CmpG)
  /-- FADD (R119): FP32 addition rounded once by finish. -/
  | fadd (o : RegHP)
  /-- FADD_GROUP (R119): Group mirror of FADD. -/
  | faddGroup (o : Reg3)
  /-- FSUB (R119): FP32 subtraction rounded once. -/
  | fsub (o : RegHP)
  /-- FSUB_GROUP (R119): Group mirror of FSUB. -/
  | fsubGroup (o : Reg3)
  /-- FMUL (R119): FP32 multiplication rounded once. -/
  | fmul (o : RegHP)
  /-- FMUL_GROUP (R119): Group mirror of FMUL. -/
  | fmulGroup (o : Reg3)
  /-- FFMA (R119): Fused multiply-add A·B+D with one rounding. -/
  | ffma (o : RegHP)
  /-- FFMA_GROUP (R119): Group mirror of FFMA. -/
  | ffmaGroup (o : Reg3)
  /-- FMIN (R121): FP32 minimum selecting one operand unrounded. -/
  | fmin (o : RegHP)
  /-- FMIN_GROUP (R121): Group mirror of FMIN. -/
  | fminGroup (o : Reg3)
  /-- FMAX (R121): FP32 maximum selecting one operand unrounded. -/
  | fmax (o : RegHP)
  /-- FMAX_GROUP (R121): Group mirror of FMAX. -/
  | fmaxGroup (o : Reg3)
  /-- FDIV (R119): FP32 division rounded once. -/
  | fdiv (o : RegHP)
  /-- FDIV_GROUP (R119): Group mirror of FDIV. -/
  | fdivGroup (o : Reg3)
  /-- FCMP_EQ (R122): FP32 compare equal. -/
  | fcmpEq (o : Reg3)
  /-- FCMP_EQ_GROUP (R122): Group mirror of FCMP.EQ. -/
  | fcmpEqGroup (o : Reg3)
  /-- FCMP_NE (R122): FP32 compare not equal. -/
  | fcmpNe (o : Reg3)
  /-- FCMP_NE_GROUP (R122): Group mirror of FCMP.NE. -/
  | fcmpNeGroup (o : Reg3)
  /-- FCMP_LT (R122): FP32 compare less than. -/
  | fcmpLt (o : Reg3)
  /-- FCMP_LT_GROUP (R122): Group mirror of FCMP.LT. -/
  | fcmpLtGroup (o : Reg3)
  /-- FCMP_LE (R122): FP32 compare less or equal. -/
  | fcmpLe (o : Reg3)
  /-- FCMP_LE_GROUP (R122): Group mirror of FCMP.LE. -/
  | fcmpLeGroup (o : Reg3)
  /-- FCMP_GT (R122): FP32 compare greater than. -/
  | fcmpGt (o : Reg3)
  /-- FCMP_GT_GROUP (R122): Group mirror of FCMP.GT. -/
  | fcmpGtGroup (o : Reg3)
  /-- FCMP_GE (R122): FP32 compare greater or equal. -/
  | fcmpGe (o : Reg3)
  /-- FCMP_GE_GROUP (R122): Group mirror of FCMP.GE. -/
  | fcmpGeGroup (o : Reg3)
  /-- FCMP_UO (R122): FP32 compare unordered. -/
  | fcmpUo (o : Reg3)
  /-- FCMP_UO_GROUP (R122): Group mirror of FCMP.UO. -/
  | fcmpUoGroup (o : Reg3)
  /-- FCMP_OR (R122): FP32 compare ordered. -/
  | fcmpOr (o : Reg3)
  /-- FCMP_OR_GROUP (R122): Group mirror of FCMP.OR. -/
  | fcmpOrGroup (o : Reg3)
  /-- FABS (R124): Clear the sign bit of A. -/
  | fabs (o : FunHP)
  /-- FABS_GROUP (R124): Group mirror of FABS. -/
  | fabsGroup (o : Reg2)
  /-- FNEG (R124): Flip the sign bit of A. -/
  | fneg (o : FunHP)
  /-- FNEG_GROUP (R124): Group mirror of FNEG. -/
  | fnegGroup (o : Reg2)
  /-- FCPS (R124): A's magnitude with D's sign. -/
  | fcps (o : FunHP)
  /-- FCPS_GROUP (R124): Group mirror of FCPS. -/
  | fcpsGroup (o : Reg2)
  /-- FRCP (R125): Correctly rounded reciprocal. -/
  | frcp (o : FunHP)
  /-- FRCP_GROUP (R125): Group mirror of FRCP. -/
  | frcpGroup (o : Reg2)
  /-- FRSQ (R125): Correctly rounded reciprocal square root. -/
  | frsq (o : FunHP)
  /-- FRSQ_GROUP (R125): Group mirror of FRSQ. -/
  | frsqGroup (o : Reg2)
  /-- FSQRT (R125): Correctly rounded square root. -/
  | fsqrt (o : FunHP)
  /-- FSQRT_GROUP (R125): Group mirror of FSQRT. -/
  | fsqrtGroup (o : Reg2)
  /-- FEXP2 (R125): Correctly rounded 2 to the power A. -/
  | fexp2 (o : FunHP)
  /-- FEXP2_GROUP (R125): Group mirror of FEXP2. -/
  | fexp2Group (o : Reg2)
  /-- FLOG2 (R125): Correctly rounded base-2 logarithm. -/
  | flog2 (o : FunHP)
  /-- FLOG2_GROUP (R125): Group mirror of FLOG2. -/
  | flog2Group (o : Reg2)
  /-- FRNDN (R126): Round to integral value, ties to even. -/
  | frndn (o : FunHP)
  /-- FRNDN_GROUP (R126): Group mirror of FRNDN. -/
  | frndnGroup (o : Reg2)
  /-- FRNDZ (R126): Round to integral value toward zero. -/
  | frndz (o : FunHP)
  /-- FRNDZ_GROUP (R126): Group mirror of FRNDZ. -/
  | frndzGroup (o : Reg2)
  /-- FRNDP (R126): Round to integral value toward plus infinity. -/
  | frndp (o : FunHP)
  /-- FRNDP_GROUP (R126): Group mirror of FRNDP. -/
  | frndpGroup (o : Reg2)
  /-- FRNDM (R126): Round to integral value toward minus infinity. -/
  | frndm (o : FunHP)
  /-- FRNDM_GROUP (R126): Group mirror of FRNDM. -/
  | frndmGroup (o : Reg2)
  /-- FCLASS (R127): One-hot class code of A. -/
  | fclass (o : FunHP)
  /-- FCLASS_GROUP (R127): Group mirror of FCLASS. -/
  | fclassGroup (o : Reg2)
  /-- CVT (R130): Per-lane format conversion selected by source and destination codes. -/
  | cvt (o : CvtPM)
  /-- CVT_BS8 (R131): Convert the active lanes as one BS8 block with derived scale. -/
  | cvtBs8 (o : CvtBlkPM)
  /-- CVT_BS4 (R131): Convert the active lanes as one BS4 block with derived scale. -/
  | cvtBs4 (o : CvtBlkPM)
  /-- CVT_GROUP (R130): Group mirror of CVT on one S register. -/
  | cvtGroup (o : CvtG)
  /-- H2ADD (R133): Packed BF16 or FP16 addition. -/
  | h2add (o : Reg3)
  /-- H2SUB (R133): Packed 16-bit subtraction. -/
  | h2sub (o : Reg3)
  /-- H2MUL (R133): Packed 16-bit multiplication. -/
  | h2mul (o : Reg3)
  /-- H2FMA (R133): Packed 16-bit fused multiply-add. -/
  | h2fma (o : Reg3)
  /-- H2MIN (R133): Packed 16-bit minimum. -/
  | h2min (o : Reg3)
  /-- H2MAX (R133): Packed 16-bit maximum. -/
  | h2max (o : Reg3)
  /-- SHFL_IDX (R135): Each lane reads A of the lane indexed by B. -/
  | shflIdx (o : Reg3)
  /-- SHFL_UP (R135): Each lane reads A of lane l minus c, rotating or keeping. -/
  | shflUp (o : ShflKeep)
  /-- SHFL_DN (R135): Each lane reads A of lane l plus c, rotating or keeping. -/
  | shflDn (o : ShflKeep)
  /-- SHFL_XOR (R135): Each lane reads A of lane l XOR c. -/
  | shflXor (o : ShflXor)
  /-- BCAST (R137): Broadcast lane t of A to every active lane. -/
  | bcast (o : Reg3)
  /-- VEXT (R137): Extract lane t of a V register into an S register. -/
  | vext (o : Reg3)
  /-- VINS (R137): Insert an S register into lane t of a V register. -/
  | vins (o : Reg3)
  /-- MSK (R137): Gather non-zero active lanes into an S bit mask. -/
  | msk (o : Reg2)
  /-- UNMSK (R137): Spread an S bit mask into all-ones or zero lanes. -/
  | unmsk (o : Reg2)
  /-- VMOVX (R138): Read a V register at a computed index. -/
  | vmovx (o : Reg3)
  /-- VMOVXW (R138): Write a V register at a computed index. -/
  | vmovxw (o : Reg3)
  /-- PRMT (R140): Byte permute of A and B under D's controls. -/
  | prmt (o : RegHP)
  /-- DDX (R143): Fine horizontal quad derivative. -/
  | ddx (o : FunHP)
  /-- DDY (R143): Fine vertical quad derivative. -/
  | ddy (o : FunHP)
  /-- DDXC (R143): Coarse horizontal quad derivative. -/
  | ddxc (o : FunHP)
  /-- DDYC (R143): Coarse vertical quad derivative. -/
  | ddyc (o : FunHP)
  /-- NBRGET (R144): Read each active lane's neighbour index. -/
  | nbrget (o : NbrGetOp)
  /-- NBRSET (R144): Set each active lane's neighbour index from A. -/
  | nbrset (o : NbrSetOp)
  /-- LD (R201): Per-lane global load through the L1. -/
  | ld (o : MemOp)
  /-- ST (R202): Per-lane global store. -/
  | st (o : MemOp)
  /-- LDS (R225): Per-lane cluster scratch load, ignoring tags. -/
  | lds (o : MemOp)
  /-- STS (R225): Per-lane cluster scratch store, leaving tags. -/
  | sts (o : MemOp)
  /-- LDF (R228): Wait for a full scratch word and read it, leaving it full. -/
  | ldf (o : TagOp)
  /-- LDC (R228): Wait for a full scratch word, read it and empty it. -/
  | ldc (o : TagOp)
  /-- STP (R228): Wait for an empty scratch word, write it and fill it. -/
  | stp (o : TagOp)
  /-- STF (R228): Write a scratch word and set it full. -/
  | stf (o : TagOp)
  /-- SETE (R228): Set a scratch word's tag empty. -/
  | sete (o : TagAddrOp)
  /-- TAGQ (R228): Read full/empty tags into an S register mask. -/
  | tagq (o : TagOp)
  /-- ATOM_ADD (R206): Atomic add at the home returning the old value. -/
  | atomAdd (o : Reg3)
  /-- ATOM_AND (R206): Atomic AND returning the old value. -/
  | atomAnd (o : Reg3)
  /-- ATOM_OR (R206): Atomic OR returning the old value. -/
  | atomOr (o : Reg3)
  /-- ATOM_XOR (R206): Atomic XOR returning the old value. -/
  | atomXor (o : Reg3)
  /-- ATOM_MIN (R206): Atomic signed minimum. -/
  | atomMin (o : Reg3)
  /-- ATOM_MAX (R206): Atomic signed maximum. -/
  | atomMax (o : Reg3)
  /-- ATOM_MINN (R206): Atomic natural minimum. -/
  | atomMinn (o : Reg3)
  /-- ATOM_MAXN (R206): Atomic natural maximum. -/
  | atomMaxn (o : Reg3)
  /-- ATOM_XCHG (R206): Atomic exchange. -/
  | atomXchg (o : Reg3)
  /-- ATOM_CAS (R206): Atomic compare-and-swap. -/
  | atomCas (o : Reg3)
  /-- ATOM_FADD (R207): Atomic FP32 add rounded to nearest at the home. -/
  | atomFadd (o : Reg3)
  /-- ATOM_FMIN (R207): Atomic FP32 minimum. -/
  | atomFmin (o : Reg3)
  /-- ATOM_FMAX (R207): Atomic FP32 maximum. -/
  | atomFmax (o : Reg3)
  /-- ATOM_INC (R206): Atomic wrapping increment bounded by the operand. -/
  | atomInc (o : Reg3)
  /-- RED_ADD (R206): Atomic add without return. -/
  | redAdd (o : RedOp)
  /-- RED_AND (R206): Atomic AND without return. -/
  | redAnd (o : RedOp)
  /-- RED_OR (R206): Atomic OR without return. -/
  | redOr (o : RedOp)
  /-- RED_XOR (R206): Atomic XOR without return. -/
  | redXor (o : RedOp)
  /-- RED_MIN (R206): Atomic signed minimum without return. -/
  | redMin (o : RedOp)
  /-- RED_MAX (R206): Atomic signed maximum without return. -/
  | redMax (o : RedOp)
  /-- RED_MINN (R206): Atomic natural minimum without return. -/
  | redMinn (o : RedOp)
  /-- RED_MAXN (R206): Atomic natural maximum without return. -/
  | redMaxn (o : RedOp)
  /-- RED_FADD (R207): Atomic FP32 add without return. -/
  | redFadd (o : RedOp)
  /-- RED_FMIN (R207): Atomic FP32 minimum without return. -/
  | redFmin (o : RedOp)
  /-- RED_FMAX (R207): Atomic FP32 maximum without return. -/
  | redFmax (o : RedOp)
  /-- RED_INC (R206): Atomic bounded increment without return. -/
  | redInc (o : RedOp)
  /-- LDT (R381): Timed load performed at the home no earlier than its not-before time. -/
  | ldt (o : MemOp)
  /-- STT (R381): Timed store performed at the home at its tidemark. -/
  | stt (o : MemOp)
  /-- MMA (R217): Matrix multiply-accumulate of A and B into C. -/
  | mma (o : Reg3LA)
  /-- MMAZ (R218): Matrix multiply without C as addend. -/
  | mmaz (o : Reg3LA)
  /-- REORDER (R221): Core-wide collective sort and redistribution of lanes by key. -/
  | reorder (o : ReorderOp)
  /-- TEX (R335): Filtered texture sample into four registers. -/
  | tex (o : Reg3LA)
  /-- EMITP (R320): Emit each active lane's primitive to its tile owners. -/
  | emitp (o : Reg2LA)
  /-- TEXQ (R336): Query whether every texel a TEX would read is resident. -/
  | texq (o : Reg2LA)
  /-- RSHADE (R337): Clear a tile's re-shade bit and queue the tile. -/
  | rshade (o : Reg2LA)
  /-- WAITV_EQ (R211): Per-lane value wait until the word equals the comparand. -/
  | waitvEq (o : Reg3)
  /-- WAITV_NE (R211): Per-lane value wait until the word differs. -/
  | waitvNe (o : Reg3)
  /-- WAITV_GEN (R211): Per-lane value wait until the word is natural-greater or equal. -/
  | waitvGen (o : Reg3)
  /-- WAITV_GTN (R211): Per-lane value wait until the word is natural-greater. -/
  | waitvGtn (o : Reg3)
  /-- PF (R203): Prefetch the lines of the active lanes. -/
  | pf (o : PrefetchOp)
  /-- BRA (R148): Unconditional branch within the window. -/
  | bra (off : BitVec 18)
  /-- BRZ (R148): Branch if an S register is zero. -/
  | brz (o : BranchOp)
  /-- BRNZ (R148): Branch if an S register is non-zero. -/
  | brnz (o : BranchOp)
  /-- CALL (R148): Branch and write the return offset to an S register. -/
  | call (o : BranchOp)
  /-- JMPX (R148): Jump to the window offset held in an S register. -/
  | jmpx (r : Reg)
  /-- SPLIT (R42): Split the fragment by an S mask into two fragments. -/
  | split (o : BranchOp)
  /-- FUSE (R43): Wait at the reconvergence point and merge with the partner. -/
  | fuse
  /-- SETF (R157): Write the fragment's FMT. -/
  | setf (r : Reg)
  /-- GETF (R157): Read the fragment's FMT. -/
  | getf (r : Reg)
  /-- SETC (R157): Write SCFG flags, LATEF and AORD. -/
  | setc (r : Reg)
  /-- GETC (R157): Read SCFG. -/
  | getc (r : Reg)
  /-- SETPRI (R157): Write the swell's priority. -/
  | setpri (r : Reg)
  /-- YIELD (R158): Restart the fragment's wait age. -/
  | yield
  /-- EXIT (R160): End the fragment, merging or ending the swell. -/
  | exit
  /-- REGION (R159): Mark a region break before the next instruction. -/
  | region
  /-- CONT (R159): Set the swell's continuation PC. -/
  | cont (r : Reg)
  /-- RESUME (R53): Jump to a PC, clear the continuation mark and begin a region. -/
  | resume (r : Reg)
  /-- SRD (R163): Read a system register into an S register. -/
  | srd (o : SrdOp)
  /-- SWR (R163): Write a system register from an S register. -/
  | swr (o : SwrOp)
  /-- TRAP (R161): Take the precise TRAP fault with an immediate. -/
  | trap (imm : BitVec 14)
  /-- ERET (R162): Return from the handler to FPC at user privilege. -/
  | eret
  /-- BKPT (R161): Take the precise BKPT fault. -/
  | bkpt
  /-- NOP (R158): Do nothing. -/
  | nop
  /-- TLBI_PAGE (R165): Remove one page's translations package-wide and wait for users. -/
  | tlbiPage (r : Reg)
  /-- TLBI_CTX (R165): Remove every translation of the context package-wide. -/
  | tlbiCtx
  /-- TIME (R373): Read the die's ATIME into an S pair. -/
  | time (r : Reg)
  /-- TWAIT (R374): Wait until ATIME reaches a given time. -/
  | twait (r : Reg)
  /-- SLD (R204): Group-scope global load into S registers. -/
  | sld (o : MemOp)
  /-- SST (R204): Group-scope global store from S registers. -/
  | sst (o : MemOp)
  /-- SATOM_ADD (R206): Group atomic add. -/
  | satomAdd (o : Reg3)
  /-- SATOM_AND (R206): Group atomic AND. -/
  | satomAnd (o : Reg3)
  /-- SATOM_OR (R206): Group atomic OR. -/
  | satomOr (o : Reg3)
  /-- SATOM_XOR (R206): Group atomic XOR. -/
  | satomXor (o : Reg3)
  /-- SATOM_MIN (R206): Group atomic signed minimum. -/
  | satomMin (o : Reg3)
  /-- SATOM_MAX (R206): Group atomic signed maximum. -/
  | satomMax (o : Reg3)
  /-- SATOM_MINN (R206): Group atomic natural minimum. -/
  | satomMinn (o : Reg3)
  /-- SATOM_MAXN (R206): Group atomic natural maximum. -/
  | satomMaxn (o : Reg3)
  /-- SATOM_XCHG (R206): Group atomic exchange. -/
  | satomXchg (o : Reg3)
  /-- SATOM_CAS (R206): Group atomic compare-and-swap. -/
  | satomCas (o : Reg3)
  /-- SATOM_FADD (R207): Group atomic FP32 add. -/
  | satomFadd (o : Reg3)
  /-- SATOM_FMIN (R207): Group atomic FP32 minimum. -/
  | satomFmin (o : Reg3)
  /-- SATOM_FMAX (R207): Group atomic FP32 maximum. -/
  | satomFmax (o : Reg3)
  /-- SATOM_INC (R206): Group atomic bounded increment. -/
  | satomInc (o : Reg3)
  /-- FENCE_ACQ (R287): Acquire fence at the named scope. -/
  | fenceAcq (scope : FenceScope)
  /-- FENCE_REL (R287): Release fence at the named scope. -/
  | fenceRel (scope : FenceScope)
  /-- FENCE_AR (R287): Release then acquire fence at the named scope. -/
  | fenceAr (scope : FenceScope)
  /-- CLEAN (R290): Write back dirty bytes of a range in L1 and remote partitions. -/
  | clean (o : Reg2LA)
  /-- INV (R290): Drop copies of a range, discarding or writing back per class. -/
  | inv (o : Reg2LA)
  /-- CLINV (R290): Write back then drop copies of a range. -/
  | clinv (o : Reg2LA)
  /-- COPY (R246): Submit a strided or transposing copy to a copy engine. -/
  | copy (o : Reg2LA)
  /-- GATHER (R248): Submit an indexed gather into scratch. -/
  | gather (o : Reg2LA)
  /-- SCATTER (R248): Submit an indexed scatter from scratch. -/
  | scatter (o : Reg2LA)
  /-- EQRY (R249): Read the status of an engine ticket. -/
  | eqry (o : Reg2LA)
  /-- RARITH (R355): Submit element-wise arithmetic performed at MS memory logic. -/
  | rarith (o : Reg2LA)
  /-- COLL (R425): Join a collective over a cove of dies and packages. -/
  | coll (o : Reg2LA)
  /-- CSTAT (R429): Read the statistics of a finished STATS collective. -/
  | cstat (o : Reg2LA)
  /-- WSEND (R422): Submit a one-sided put into a remote window. -/
  | wsend (o : Reg2LA)
  /-- WSIG (R422): Submit a put followed by an atomic signal add. -/
  | wsig (o : Reg2LA)
  /-- BINIT (R237): Initialise a barrier object and fill its phase word. -/
  | binit (o : Reg2LA)
  /-- ARRIVE (R238): Arrive at a barrier, returning the generation. -/
  | arrive (o : Reg2LA)
  /-- ARRIVEX (R238): Arrive and announce inbound bytes. -/
  | arrivex (o : Reg2LA)
  /-- BWAIT (R240): Wait until the barrier's phase word leaves a generation. -/
  | bwait (o : Reg2LA)
  /-- SEQTAKE (R303): Take the next ticket of a keyed section. -/
  | seqtake (o : Reg2LA)
  /-- ENTER (R304): Enter a keyed ordered section with a sequence number. -/
  | enter (o : Reg2LA)
  /-- LEAVE (R305): Leave a section, advancing NEXT. -/
  | leave (o : SectOp)
  /-- LEAVE_END (R305): Leave a section and free its entry if idle. -/
  | leaveEnd (o : SectOp)
  /-- ABANDON (R305): Leave a section marking it abandoned. -/
  | abandon (o : SectOp)
  /-- SECTQ (R306): Query a section entry's state. -/
  | sectq (o : Reg2LA)
  /-- LAUNCH (R401): Check a bay record and hand the launch to the dispatcher. -/
  | launch (o : Reg2LA)
  /-- LQRY (R402): Query a launch, rectangle or L2P entry. -/
  | lqry (o : Reg2LA)
  /-- SWAITV_EQ (R211): Group value wait until equal. -/
  | swaitvEq (o : Reg3)
  /-- SWAITV_NE (R211): Group value wait until different. -/
  | swaitvNe (o : Reg3)
  /-- SWAITV_GEN (R211): Group value wait until natural-greater or equal. -/
  | swaitvGen (o : Reg3)
  /-- SWAITV_GTN (R211): Group value wait until natural-greater. -/
  | swaitvGtn (o : Reg3)
  /-- HINT_WIDE_IMMEDIATE (R75): Supply high bits of the next instruction's immediate or offset. -/
  | hintWideImmediate (payload : BitVec 23)
  /-- HINT_MODIFIERS (R76): Supply pm, ordering, cache policy, rounding or time operand. -/
  | hintModifiers (o : ModHint)
  /-- HINT_SCHEDULING (R78): Supply yield, temporary priority or lookahead. -/
  | hintScheduling (o : SchedHint)
  /-- ASYNC_FAULT_DELIVERY (R60): Pending LATE or ENGINE fault taken at the fragment's next boundary. -/
  | asyncFaultDelivery (sw : SwellId)
  /-- LATE_NOTICE (R378): A late notice reaches the issuing core and makes LATE pending. -/
  | lateNotice (fr : FragId) (tidemark : Addr)
  /-- LOAD_RESPONSE (R201): A load's data returns and is written to its destination. -/
  | loadResponse (sw : SwellId) (op : Nat)
  /-- ATOMIC_REPLY (R208): An atomic's old value returns to the register. -/
  | atomicReply (sw : SwellId) (op : Nat)
  /-- MMA_RESULT (R191): Matrix checks evaluated and C written, rerun or ARRAY taken. -/
  | mmaResult (sw : SwellId) (op : Nat)
  /-- REORDER_COMPLETION (R221): Last participant arrives and lanes are redistributed. -/
  | reorderCompletion (core launch id : Nat)
  /-- ACCESS_TIMEOUT (R196): Reply missing 2^24 ticks after request takes TIMEOUT. -/
  | accessTimeout (sw : SwellId) (op : Nat)
  /-- SWELL_MOVE_OUT (R174): Move a swell's V registers to the slow file. -/
  | swellMoveOut (sw : SwellId)
  /-- SWELL_MOVE_IN (R174): Move a pending swell's V registers into the fast file. -/
  | swellMoveIn (sw : SwellId)
  /-- FORCED_DISPLACEMENT (R174): A ready fragment waiting 2,048 cycles forces an active swell out. -/
  | forcedDisplacement (core : Nat)
  /-- COMPACTION (R175): Slide slow-file allocations toward offset 0. -/
  | compaction (core : Nat)
  /-- SWELL_EVICTION (R193): Save a swell's context image and free its slot. -/
  | swellEviction (sw : SwellId)
  /-- SWELL_RESUME (R407): Restore an evicted swell on a core of its bay. -/
  | swellResume (ctx uid core slot : Nat)
  /-- TAG_WAITER_SERVICE (R231): A fill or empty performs the oldest waiting tagged lane. -/
  | tagWaiterService (core word : Nat)
  /-- VALUE_WAIT_ARM (R211): Home compares and arms a watch in one step. -/
  | valueWaitArm (fr : FragId) (lane : Nat)
  /-- HOME_WRITE (R281): A store or write-back reaches its home and is ordered there. -/
  | homeWrite (msg : Nat)
  /-- L1_WRITEBACK_DEADLINE (R282): Dirty bytes reach home within 2^16 cycles of their last write. -/
  | l1WritebackDeadline (core line : Nat)
  /-- SLICE_MISS_FILL (R271): A slice fill arrives and serves its queued requests in order. -/
  | sliceMissFill (die slice line : Nat)
  /-- COH_READ_REQUEST (R345): Remote read obtains a shared COH copy, recalling an exclusive one. -/
  | cohReadRequest (die line : Nat)
  /-- COH_OWNERSHIP_REQUEST (R345): Remote write obtains exclusive ownership after invalidations. -/
  | cohOwnershipRequest (die line : Nat)
  /-- COH_RECALL (R345): A die writes back or drops its partition copy on recall. -/
  | cohRecall (die line : Nat) (drop : Bool)
  /-- ROS_REPLICA_FILL (R346): First remote read of a granule copies it to the reader's replica area. -/
  | rosReplicaFill (ctx die granule : Nat)
  /-- REPLICA_FREE (R346): Die controller frees a replica whose granule is no longer ROS. -/
  | replicaFree (die granule : Nat)
  /-- WALK_COMPLETION (R187): A page walk answers every coalesced request. -/
  | walkCompletion (die ctx page : Nat)
  /-- FAULT_SERVICE_REQUEST (R293): Fault service records or coalesces a page request. -/
  | faultServiceRequest (die ctx page : Nat) (kind : ReqKind) (who : Option FragId)
  /-- FAULT_ANSWER (R417): Driver writes FQANS answering a fault-queue entry. -/
  | faultAnswer (ctx : Nat) (word : Addr)
  /-- PRI_PAGE_REQUEST (R412): Host page request through PCIe PRI for a host address. -/
  | priPageRequest (ctx page : Nat) (kind : ReqKind) (who : Option FragId)
  /-- TIMED_LANE_ARRIVAL (R376): A timed lane reaches its home and is performed, buffered or queued. -/
  | timedLaneArrival (msg : Nat)
  /-- TIDE_TICK (R376): Each tick releases due timed lanes and admits ingress lanes. -/
  | tideTick (die home : Nat)
  /-- TWAIT_EXPIRY (R374): ATIME reaches a TWAIT's time and the fragment becomes ready. -/
  | twaitExpiry (fr : FragId)
  /-- SHELF_REFRESH_END (R277): A bank's refresh window ends and waiting accesses proceed. -/
  | shelfRefreshEnd (die bank : Nat)
  /-- SHELF_BANK_RETIRE (R278): Copy a retired shelf bank to the spare and remap it. -/
  | shelfBankRetire (die bank : Nat)
  /-- SLAB_RUN_RISE (R276): Set RUN, drain writes and purge slab lines before a task starts. -/
  | slabRunRise (die slab : Nat)
  /-- SLAB_REGISTER_WRITE (R274): Firmware or management writes a slab register. -/
  | slabRegisterWrite (die slab : Nat) (v : Word)
  /-- SLICE_CONFIG_WRITE (R270): Write a slice's way retirement and remote-partition size. -/
  | sliceConfigWrite (die slice : Nat) (v : Word)
  /-- CORE_ERROR_RECORD_WRITE (R192): Firmware writes a core error record, clearing or injecting. -/
  | coreErrorRecordWrite (core : Nat) (v : Addr)
  /-- ENTER_REQUEST (R304): Home grants, queues or answers PAST to an ENTER. -/
  | enterRequest (req : SectReq)
  /-- LEAVE_REQUEST (R305): Home advances NEXT, answers past waiters and grants the due one. -/
  | leaveRequest (req : SectReq) (kind : LeaveKind)
  /-- SEQTAKE_REQUEST (R303): Home hands out the next ticket. -/
  | seqtakeRequest (req : SectReq)
  /-- SECTQ_REQUEST (R306): Home reports an entry without creating it. -/
  | sectqRequest (req : SectReq)
  /-- SECTION_GRANT_REPLY (R304): Grant status reaches the waiting fragment and fills its held slot. -/
  | sectionGrantReply (req : SectReq) (status : Word)
  /-- SECTION_TIMEOUT_SCAN (R311): Every 2^16 ticks the home times out stale waiters with SECTSTALL. -/
  | sectionTimeoutScan (die : Nat)
  /-- SLUICE_RELOAD (R314): Reload a spilled entry and serve the waiting request. -/
  | sluiceReload (die ctx : Nat) (key : Addr)
  /-- SLUICE_DIE_REPLACE (R295): Move a retired die's sluice entries to its replacement. -/
  | sluiceDieReplace (ctx retired live : Nat)
  /-- ENGINE_STEP (R242): An engine performs up to 64 bytes of a command and counts them. -/
  | engineStep (cluster engine : Nat)
  /-- TASK_START (R258): A core starts the lowest queued task of a launch. -/
  | taskStart (core launch : Nat)
  /-- STEAL_REQUEST (R259): An idle cluster asks a candidate cluster for TCBs. -/
  | stealRequest (cluster launch : Nat)
  /-- STEAL_RETRY (R259): After a failed pass the idle cluster retries after 2^12 ticks. -/
  | stealRetry (cluster launch : Nat)
  /-- TCB_SHIPMENT (R260): A shipment arrives and is dealt to the thief's cores. -/
  | tcbShipment (cluster launch : Nat) (tasks : List Nat)
  /-- DISPATCHER_REFILL (R403): Dispatcher writes further TCBs into the task store as entries free. -/
  | dispatcherRefill (die launch : Nat)
  /-- LAUNCH_COMPLETION (R404): After all tasks and writes finish, write status and completion word. -/
  | launchCompletion (launch : Nat)
  /-- PRIMITIVE_PACKET (R323): A primitive packet reaches a tile owner's reorder buffer. -/
  | primitivePacket (die launch : Nat) (prim : Prim)
  /-- END_OF_GROUP_MARKER (R323): A group's marker arrives and releases buffered primitives to the binner. -/
  | endOfGroupMarker (die launch group : Nat)
  /-- TILE_SHADE_START (R327): Final visibility clears the tile and starts opaque pixel swells. -/
  | tileShadeStart (die launch tile : Nat)
  /-- BLEND_SWELLS_START (R329): After opaque swells end, start the tile's blend swells. -/
  | blendSwellsStart (die launch tile : Nat)
  /-- MAILBOX_WRITE (R399): Host write to a mailbox word acts as STF or is dropped. -/
  | mailboxWrite (ctx word : Nat) (v : Word)
  /-- CONTEXT_CREATE (R397): STATE written 1: check record and launch the pilot. -/
  | contextCreate (ctx : Nat)
  /-- CONTEXT_SUSPEND (R406): STATE written 3: evict every swell, then STATE 4. -/
  | contextSuspend (ctx : Nat)
  /-- CONTEXT_RESUME (R394): STATE written 1 while suspended returns the context to running. -/
  | contextResume (ctx : Nat)
  /-- CONTEXT_TEARDOWN (R408): STATE written 5: stop swells, cancel, abandon and report. -/
  | contextTeardown (ctx : Nat)
  /-- CONTEXT_FREE (R394): STATE written 0 after teardown frees the context record. -/
  | contextFree (ctx : Nat)
  /-- APERTURE_WRITE (R413): Host write through an aperture performed at the home. -/
  | apertureWrite (fn : HostFn) (off : Nat) (bytes : List Byte)
  /-- REGISTER_WRITE (R414): Write to a register without a row of its own. -/
  | registerWrite (fn : HostFn) (off size : Nat) (v : Addr)
  /-- PUT_ARRIVAL (R422): A put reaches the target, writes bytes and counts TCNT. -/
  | putArrival (put : PutIn)
  /-- PUT_ACKNOWLEDGEMENT (R422): Origin receives the ack, counts OCNT and ends the ticket. -/
  | putAcknowledgement (put : Nat) (reason : Nat)
  /-- PUT_LINK_TIMEOUT (R419): No live link for 2^24 ticks fails the put with REASON 8. -/
  | putLinkTimeout (put : Nat)
  /-- COLLECTIVE_EXCHANGE (R424): A collective participant's data arrives from a neighbour or package. -/
  | collectiveExchange (ctx id : Nat) (remote : List (Nat × List Byte))
  /-- LINK_STALL_SPILL (R362): A class stalled 2^16 ticks spills its queue to HBM4E. -/
  | linkStallSpill (die edge cls : Nat)
  /-- LINK_SPILL_DRAIN (R363): A spilled queue drains first-in first-out. -/
  | linkSpillDrain (die edge cls : Nat)
  /-- SYNC_TIMER (R368): Parent sends Sync and Follow_Up every 2^16 ticks. -/
  | syncTimer (die : Nat)
  /-- SYNC (R368): Child records Sync arrival time. -/
  | sync (die seq : Nat)
  /-- FOLLOW_UP (R368): Child computes offset and adjusts its rate. -/
  | followUp (die : Nat) (t : Addr)
  /-- PDELAY_REQ_TIMER (R368): Child sends Pdelay_Req every 2^20 ticks. -/
  | pdelayReqTimer (die : Nat)
  /-- PDELAY_REQ (R368): Parent answers with Pdelay_Resp and its follow-up. -/
  | pdelayReq (die : Nat) (t1 : Addr)
  /-- PDELAY_RESP (R368): Child estimates the path delay. -/
  | pdelayResp (die : Nat) (t1 t2 t3 : Addr)
  /-- LOCK_LOSS_TIMEOUT (R369): No Sync for 2^20 ticks clears LOCK. -/
  | lockLossTimeout (die : Nat)
  /-- TIME_SOURCE_FAIL (R367): Lead die enters holdover and clears FLOCK. -/
  | timeSourceFail
  /-- TDISC_WRITE (R369): Firmware selects the grandmaster time source. -/
  | tdiscWrite (die : Nat) (v : Word)
  /-- ATIME_BOOT_SET (R366): Firmware sets every die's count at boot. -/
  | atimeBootSet (delays : List Nat)
  /-- LEAD_ROLE_MOVE (R392): Lead-die role passes to the next live die. -/
  | leadRoleMove
  /-- POWER_EMERGENCY (R371): Over-temperature or current limit lowers the clock below the floor. -/
  | powerEmergency (die clock : Nat)
  /-- METER_UPDATE (R409): Every 2^20 ticks the controller writes SEQ2, counters and SEQ. -/
  | meterUpdate (die : Nat)
  /-- SUSPECT_CORE_SERVICE (R386): After ARRAY, stop, evict and self-test the core. -/
  | suspectCoreService (core : Nat)
  /-- CORE_SELF_TEST (R386): Self-test result retires the core or returns it to use. -/
  | coreSelfTest (core : Nat) (passed : Bool)
  /-- ENUMERATION (R388): Firmware builds the RECT and L2P tables. -/
  | enumeration
  /-- ROUTE_TABLE_COMPUTE (R384): Firmware computes least-cost inter-die routing tables. -/
  | routeTableCompute
  /-- FIRMWARE_MEASURE (R430): ROM hashes a firmware image and extends a measurement register. -/
  | firmwareMeasure (die reg : Nat) (image : List Byte)
  /-- GET_MEASUREMENTS (R430): SPDM request answered with a signed measurement report. -/
  | getMeasurements (nonce : List Byte)
  /-- POWER_STATE_ENTRY (R431): After 2^20 idle ticks enter the deepest state within LTOL. -/
  | powerStateEntry
  /-- POWER_STATE_WAKE (R431): First access wakes the device from an idle state. -/
  | powerStateWake
  /-- HBM_CHANNEL_SPARE (R432): Copy a failing HBM4E channel to a spare and remap it. -/
  | hbmChannelSpare (die channel : Nat)
  /-- FIRMWARE_UPDATE (R432): Live update of one die's firmware. -/
  | firmwareUpdate (die : Nat) (phase : UpdPhase)
  /-- MODULE_HOT_SWAP (R433): Power stage, pump, optical or management module removed or inserted. -/
  | moduleHotSwap (part : SwapPart) (inserted : Bool)
  /-- NON_INSTRUCTION_WORD (R86): A fetched word that is no instruction (reserved opcode 0x3E, 0x3F, 0x7A, 0x7C to 0x7E, or a HINT with K = 0b11) takes ILLEGAL with FVAL the word. -/
  | nonInstructionWord (w : Word)
  /-- PRI_PAGE_RESPONSE (R412): The host answers a PRI page request for a host address, and the fault service answers the waiting swells or engine. -/
  | priPageResponse (ctx page : Nat) (ok : Bool)
  /-- ATS_TRANSLATION_COMPLETION (R412): An ATS translation of a host address returns from the host, and the waiting access proceeds or takes XLATE. -/
  | atsTranslationCompletion (ctx page : Nat) (frame : Option Nat)
  /-- PPS_INPUT (R367): A 1PPS edge together with the 10 MHz reference disciplines the lead die's time and sets FLOCK when locked. -/
  | ppsInput (offset : Int)
  /-- PTP_PORT_MESSAGE (R367): An IEEE 1588 message from the outside grandmaster arrives at the management Ethernet port and disciplines the lead die. -/
  | ptpPortMessage (offset : Int)
  /-- PLOCK_BROADCAST (R369): The lead die broadcasts PLOCK and FLOCK, and every die updates its TDISC copy. -/
  | plockBroadcast
  /-- POWER_EMERGENCY_END (R371): The over-temperature or current-limit condition ends, and the power manager returns the core clock to at least the floor. -/
  | powerEmergencyEnd (die : Nat)
  /-- HOST_PORT_LINK_CHANGE (R418): A PCIe host port's link goes down or comes up, which sets which port carries a context's host-memory accesses. -/
  | hostPortLinkChange (port : Nat) (up : Bool)
  /-- SHORE_LINK_LIVE_CHANGE (R419): A shore link fails or becomes live again, moving puts to other links of the mask or releasing puts that wait for a live link. -/
  | shoreLinkLiveChange (link : Nat) (live : Bool)
  /-- DIE_RETIREMENT (R391): A whole die is retired: its swells are evicted and resumed elsewhere, its rectangles are marked out and re-enumerated, and its sluice list position is replaced. -/
  | dieRetirement (die live : Nat)
  /-- BOOT (R411): Power-on boot sets reset values, chooses the primary host port and lead die, and runs the boot sequence. -/
  | boot (cfg : BootCfg)
deriving DecidableEq, Repr

/-- True for a word of the instruction stream, false for an event of an agent or of the outside (the rows without an encoding). -/
def Instr.isWord : Instr → Bool
  | .asyncFaultDelivery _ => false
  | .lateNotice _ _ => false
  | .loadResponse _ _ => false
  | .atomicReply _ _ => false
  | .mmaResult _ _ => false
  | .reorderCompletion _ _ _ => false
  | .accessTimeout _ _ => false
  | .swellMoveOut _ => false
  | .swellMoveIn _ => false
  | .forcedDisplacement _ => false
  | .compaction _ => false
  | .swellEviction _ => false
  | .swellResume _ _ _ _ => false
  | .tagWaiterService _ _ => false
  | .valueWaitArm _ _ => false
  | .homeWrite _ => false
  | .l1WritebackDeadline _ _ => false
  | .sliceMissFill _ _ _ => false
  | .cohReadRequest _ _ => false
  | .cohOwnershipRequest _ _ => false
  | .cohRecall _ _ _ => false
  | .rosReplicaFill _ _ _ => false
  | .replicaFree _ _ => false
  | .walkCompletion _ _ _ => false
  | .faultServiceRequest _ _ _ _ _ => false
  | .faultAnswer _ _ => false
  | .priPageRequest _ _ _ _ => false
  | .timedLaneArrival _ => false
  | .tideTick _ _ => false
  | .twaitExpiry _ => false
  | .shelfRefreshEnd _ _ => false
  | .shelfBankRetire _ _ => false
  | .slabRunRise _ _ => false
  | .slabRegisterWrite _ _ _ => false
  | .sliceConfigWrite _ _ _ => false
  | .coreErrorRecordWrite _ _ => false
  | .enterRequest _ => false
  | .leaveRequest _ _ => false
  | .seqtakeRequest _ => false
  | .sectqRequest _ => false
  | .sectionGrantReply _ _ => false
  | .sectionTimeoutScan _ => false
  | .sluiceReload _ _ _ => false
  | .sluiceDieReplace _ _ _ => false
  | .engineStep _ _ => false
  | .taskStart _ _ => false
  | .stealRequest _ _ => false
  | .stealRetry _ _ => false
  | .tcbShipment _ _ _ => false
  | .dispatcherRefill _ _ => false
  | .launchCompletion _ => false
  | .primitivePacket _ _ _ => false
  | .endOfGroupMarker _ _ _ => false
  | .tileShadeStart _ _ _ => false
  | .blendSwellsStart _ _ _ => false
  | .mailboxWrite _ _ _ => false
  | .contextCreate _ => false
  | .contextSuspend _ => false
  | .contextResume _ => false
  | .contextTeardown _ => false
  | .contextFree _ => false
  | .apertureWrite _ _ _ => false
  | .registerWrite _ _ _ _ => false
  | .putArrival _ => false
  | .putAcknowledgement _ _ => false
  | .putLinkTimeout _ => false
  | .collectiveExchange _ _ _ => false
  | .linkStallSpill _ _ _ => false
  | .linkSpillDrain _ _ _ => false
  | .syncTimer _ => false
  | .sync _ _ => false
  | .followUp _ _ => false
  | .pdelayReqTimer _ => false
  | .pdelayReq _ _ => false
  | .pdelayResp _ _ _ _ => false
  | .lockLossTimeout _ => false
  | .timeSourceFail => false
  | .tdiscWrite _ _ => false
  | .atimeBootSet _ => false
  | .leadRoleMove => false
  | .powerEmergency _ _ => false
  | .meterUpdate _ => false
  | .suspectCoreService _ => false
  | .coreSelfTest _ _ => false
  | .enumeration => false
  | .routeTableCompute => false
  | .firmwareMeasure _ _ _ => false
  | .getMeasurements _ => false
  | .powerStateEntry => false
  | .powerStateWake => false
  | .hbmChannelSpare _ _ => false
  | .firmwareUpdate _ _ => false
  | .moduleHotSwap _ _ => false
  | .priPageResponse _ _ _ => false
  | .atsTranslationCompletion _ _ _ => false
  | .ppsInput _ => false
  | .ptpPortMessage _ => false
  | .plockBroadcast => false
  | .powerEmergencyEnd _ => false
  | .hostPortLinkChange _ _ => false
  | .shoreLinkLiveChange _ _ => false
  | .dieRetirement _ _ => false
  | .boot _ => false
  | _ => true

end Sys2Proof
end

