-- ==== Sys2Proof/WellFormed.lean ====
section
/-! DEFINITION. Which instructions are legal as words: the operand checks of R86 that the fields of a form do not settle by their width (pairs, groups of four, sizes, HOLD, spans). -/

namespace Sys2Proof

/-- An even register: the name of a pair (R31, R66). -/
def evenReg (r : Reg) : Bool := r.toNat % 2 == 0

/-- A multiple of 4: the name of a group of four (R66). -/
def quadReg (r : Reg) : Bool := r.toNat % 4 == 0

/-- A group of four that may not be S0 (SECTQ, LQRY, CSTAT: R302, R400, R429). -/
def destQuadOk (r : Reg) : Bool := quadReg r && r != 0

/-- HOLD names a source that the instruction reads (R69): A always, B in REG format, D where the entry says so. -/
def holdOk (readsB readsD : Bool) : Hold → Bool
  | .none => true
  | .a => true
  | .b => readsB
  | .c => readsD

/-- The D constraint of R84: even for .64, a multiple of 4 for .128. -/
def dataRegOk (sz : MemSize) (d : Reg) : Bool :=
  match sz with
  | .w64 => evenReg d
  | .w128 => quadReg d
  | .s8 | .z8 | .s16 | .z16 | .w32 => true

/-- The sizes a store has (R84). -/
def storeSizeOk : MemSize → Bool
  | .s8 | .s16 => false
  | .z8 | .z16 | .w32 | .w64 | .w128 => true

/-- The sizes of a timed access (R380). -/
def timedSizeOk : MemSize → Bool
  | .w128 => false
  | .s8 | .z8 | .s16 | .z16 | .w32 | .w64 => true

/-- The legal CVT pairs with a destination code of 0 to 10 (R85). -/
def cvtOk (src : CvtSrc) (dst : CvtDst) : Bool :=
  match src, dst with
  | .fp32, .fp32 => false
  | .fp16, .fp16 => false
  | .bf16, .bf16 => false
  | .fp32, _ | .fp16, _ | .bf16, _ => true
  | .e4m3, d | .e5m2, d | .s32, d | .n32, d => d == .fp32 || d == .fp16 || d == .bf16

/-- The sources of a conversion to BS8 or BS4 (R85). -/
def blockSrcOk : CvtSrc → Bool
  | .fp32 | .fp16 | .bf16 => true
  | .e4m3 | .e5m2 | .s32 | .n32 => false

/-- A command block of n S registers from a lies within S0 to S127 (R243). -/
def blockOk (n : Nat) (a : Reg) : Bool := decide (a.toNat + n ≤ 128)

/-- The operand check of MMA (R213): bases are multiples of 8, and C (16 registers) meets neither A (17) nor B (9). -/
def mmaOk (d a b : Reg) : Bool :=
  d.toNat % 8 == 0 && a.toNat % 8 == 0 && b.toNat % 8 == 0 &&
  (decide (d.toNat + 16 ≤ a.toNat) || decide (a.toNat + 17 ≤ d.toNat)) &&
  (decide (d.toNat + 16 ≤ b.toNat) || decide (b.toNat + 9 ≤ d.toNat))

/-- The payload rules of a modifiers HINT (R76): fields without their enable are zero, and TS is even. -/
def modHintOk (o : ModHint) : Bool :=
  (o.rse || (o.rm == .rne && !o.sat)) && (if o.te then evenReg o.ts else o.ts == 0)

/-- The payload rules of a scheduling HINT (R78). -/
def schedHintOk (o : SchedHint) : Bool :=
  (o.tpe || o.tp == 0) && (o.lae || o.lav == 0)

/-- A legal instruction word (R86). A word that is no instruction is not well formed; an event has no encoding and no operand check. -/
def Instr.wf : Instr → Bool
  | .add o | .sub o | .mul o | .and o | .or o => holdOk true false o.hold
  | .xor o | .andn o | .shl o | .shr o => holdOk true false o.hold
  | .sra o | .min o | .max o | .minn o | .maxn o | .ceq o => holdOk true false o.hold
  | .cne o | .clt o | .cle o => holdOk true false o.hold
  | .cltn o | .clen o | .fadd o | .fsub o | .fmul o | .fmin o | .fmax o | .fdiv o => holdOk true false o.hold
  | .mac o | .sel o | .ffma o | .prmt o => holdOk true true o.hold
  | .mov o | .not o | .neg o | .abs o => holdOk false false o.hold
  | .clz o | .ctz o | .popc o | .brev o | .bswap o => holdOk false false o.hold
  | .sextb o | .sexth o | .zextb o => holdOk false false o.hold
  | .zexth o | .fabs o | .fneg o | .frcp o | .frsq o | .fsqrt o => holdOk false false o.hold
  | .fexp2 o | .flog2 o | .frndn o | .frndz o => holdOk false false o.hold
  | .frndp o | .frndm o | .fclass o | .ddx o | .ddy o => holdOk false false o.hold
  | .ddxc o | .ddyc o => holdOk false false o.hold
  | .fcps o => holdOk false true o.hold
  | .divs o | .divsGroup o | .divn o | .divnGroup o => evenReg o.d
  | .atomCas o | .satomCas o => evenReg o.a && evenReg o.b
  | .atomAdd o | .atomAnd o | .atomOr o | .atomXor o | .atomMin o | .atomMax o => evenReg o.a
  | .atomMinn o | .atomMaxn o | .atomXchg o => evenReg o.a
  | .atomFadd o | .atomFmin o | .atomFmax o | .atomInc o | .satomAdd o | .satomAnd o | .satomOr o => evenReg o.a
  | .satomXor o | .satomMin o | .satomMax o | .satomMinn o => evenReg o.a
  | .satomMaxn o | .satomXchg o | .satomFadd o | .satomFmin o | .satomFmax o => evenReg o.a
  | .satomInc o | .waitvEq o | .waitvNe o => evenReg o.a
  | .waitvGen o | .waitvGtn o | .swaitvEq o | .swaitvNe o | .swaitvGen o | .swaitvGtn o => evenReg o.a
  | .redAdd o | .redAnd o | .redOr o | .redXor o => evenReg o.a
  | .redMin o | .redMax o | .redMinn o | .redMaxn o | .redFadd o => evenReg o.a
  | .redFmin o | .redFmax o | .redInc o => evenReg o.a
  | .addGroup _ | .subGroup _ | .mulGroup _ | .macGroup _ | .andGroup _ | .orGroup _ => true
  | .xorGroup _ | .andnGroup _ | .shlGroup _ => true
  | .shrGroup _ | .sraGroup _ | .minGroup _ | .maxGroup _ | .minnGroup _ | .maxnGroup _ | .selGroup _ => true
  | .ceqGroup _ | .cneGroup _ | .cltGroup _ | .cleGroup _ => true
  | .cltnGroup _ | .clenGroup _ | .mulh _ | .mulhGroup _ | .mulhn _ => true
  | .mulhnGroup _ | .adds _ | .addsGroup _ => true
  | .subs _ | .subsGroup _ | .rol _ | .rolGroup _ | .bfx _ | .bfxGroup _ => true
  | .bfxn _ | .bfxnGroup _ | .bfi _ | .bfiGroup _ => true
  | .orn _ | .ornGroup _ | .xnor _ | .xnorGroup _ | .faddGroup _ => true
  | .fsubGroup _ | .fmulGroup _ | .ffmaGroup _ | .fminGroup _ => true
  | .fmaxGroup _ | .fdivGroup _ | .fcmpEq _ | .fcmpEqGroup _ | .fcmpNe _ | .fcmpNeGroup _ => true
  | .fcmpLt _ | .fcmpLtGroup _ | .fcmpLe _ => true
  | .fcmpLeGroup _ | .fcmpGt _ | .fcmpGtGroup _ | .fcmpGe _ | .fcmpGeGroup _ | .fcmpUo _ | .fcmpUoGroup _ => true
  | .fcmpOr _ | .fcmpOrGroup _ | .h2add _ | .h2sub _ => true
  | .h2mul _ | .h2fma _ | .h2min _ | .h2max _ | .shflIdx _ => true
  | .bcast _ | .vext _ | .vins _ => true
  | .vmovx _ | .vmovxw _ => true
  | .movGroup _ | .notGroup _ | .negGroup _ | .absGroup _ => true
  | .clzGroup _ | .ctzGroup _ | .popcGroup _ | .brevGroup _ | .bswapGroup _ => true
  | .sextbGroup _ | .sexthGroup _ | .zextbGroup _ | .zexthGroup _ => true
  | .fabsGroup _ | .fnegGroup _ | .fcpsGroup _ | .frcpGroup _ | .frsqGroup _ | .fsqrtGroup _ => true
  | .fexp2Group _ | .flog2Group _ | .frndnGroup _ => true
  | .frndzGroup _ | .frndpGroup _ | .frndmGroup _ | .fclassGroup _ | .msk _ | .unmsk _ => true
  | .addi _ | .andi _ | .ori _ | .xori _ => true
  | .addiGroup _ | .andiGroup _ | .oriGroup _ | .xoriGroup _ => true
  | .shli _ | .shri _ | .srai _ | .roli _ => true
  | .shliGroup _ | .shriGroup _ | .sraiGroup _ | .roliGroup _ => true
  | .movi _ => true
  | .moviGroup _ => true
  | .cmpiEq _ | .cmpiNe _ | .cmpiLt _ | .cmpiLe _ | .cmpiLtn _ | .cmpiLen _ => true
  | .cmpiEqGroup _ | .cmpiNeGroup _ | .cmpiLtGroup _ | .cmpiLeGroup _ | .cmpiLtnGroup _ | .cmpiLenGroup _ => true
  | .shflUp _ | .shflDn _ => true
  | .shflXor _ => true
  | .nbrget _ => true
  | .ldf _ | .ldc _ | .stp _ | .stf _ | .tagq _ => true
  | .sete _ => true
  | .brz _ | .brnz _ | .call _ | .split _ => true
  | .srd _ => true
  | .swr _ => true
  | .cvt o => cvtOk o.src o.dst && holdOk false false o.hold
  | .cvtBs8 o | .cvtBs4 o => blockSrcOk o.src && holdOk false false o.hold
  | .cvtGroup o => cvtOk o.src o.dst
  | .nbrset o => holdOk false false o.hold
  | .ld o | .sld o => evenReg o.a && dataRegOk o.sz o.d
  | .st o | .sst o => evenReg o.a && storeSizeOk o.sz && dataRegOk o.sz o.d
  | .lds o => dataRegOk o.sz o.d
  | .sts o => storeSizeOk o.sz && dataRegOk o.sz o.d
  | .ldt o => evenReg o.a && timedSizeOk o.sz && dataRegOk o.sz o.d
  | .stt o => evenReg o.a && timedSizeOk o.sz && storeSizeOk o.sz && dataRegOk o.sz o.d
  | .pf o => evenReg o.a
  | .mma o | .mmaz o => mmaOk o.d o.a o.b
  | .tex o => quadReg o.d && evenReg o.a && evenReg o.b
  | .reorder o => decide (o.d.toNat < 32)
  | .emitp o | .texq o => quadReg o.a
  | .rshade _ | .eqry _ | .binit _ | .arrive _ | .arrivex _ | .bwait _ => true
  | .clean o | .inv o | .clinv o | .seqtake o | .enter o | .launch o => evenReg o.a
  | .copy o | .rarith o | .coll o => blockOk 9 o.a
  | .gather o | .scatter o => blockOk 6 o.a
  | .wsend o => blockOk 5 o.a
  | .wsig o => blockOk 7 o.a
  | .cstat o => destQuadOk o.d
  | .sectq o | .lqry o => destQuadOk o.d && evenReg o.a
  | .leave o | .leaveEnd o | .abandon o => evenReg o.a
  | .bra _ => true
  | .jmpx _ | .setf _ | .getf _ | .setc _ | .getc _ | .setpri _ | .cont _ | .resume _ => true
  | .fuse | .yield | .exit | .region | .eret | .bkpt | .nop | .tlbiCtx => true
  | .trap _ | .fenceAcq _ | .fenceRel _ | .fenceAr _ | .hintWideImmediate _ => true
  | .tlbiPage r | .twait r => evenReg r
  | .time r => evenReg r && r != 0
  | .hintModifiers o => modHintOk o
  | .hintScheduling o => schedHintOk o
  | .nonInstructionWord _ => false
  | .asyncFaultDelivery _ | .lateNotice _ _ | .loadResponse _ _ | .atomicReply _ _ => true
  | .mmaResult _ _ | .reorderCompletion _ _ _ | .accessTimeout _ _ | .swellMoveOut _ | .swellMoveIn _ => true
  | .forcedDisplacement _ | .compaction _ | .swellEviction _ => true
  | .swellResume _ _ _ _ | .tagWaiterService _ _ | .valueWaitArm _ _ | .homeWrite _ | .l1WritebackDeadline _ _ | .sliceMissFill _ _ _ => true
  | .cohReadRequest _ _ | .cohOwnershipRequest _ _ | .cohRecall _ _ _ | .rosReplicaFill _ _ _ => true
  | .replicaFree _ _ | .walkCompletion _ _ _ | .faultServiceRequest _ _ _ _ _ | .faultAnswer _ _ | .priPageRequest _ _ _ _ => true
  | .timedLaneArrival _ | .tideTick _ _ | .twaitExpiry _ | .shelfRefreshEnd _ _ => true
  | .shelfBankRetire _ _ | .slabRunRise _ _ | .slabRegisterWrite _ _ _ | .sliceConfigWrite _ _ _ | .coreErrorRecordWrite _ _ | .enterRequest _ => true
  | .leaveRequest _ _ | .seqtakeRequest _ | .sectqRequest _ => true
  | .sectionGrantReply _ _ | .sectionTimeoutScan _ | .sluiceReload _ _ _ | .sluiceDieReplace _ _ _ | .engineStep _ _ | .taskStart _ _ | .stealRequest _ _ => true
  | .stealRetry _ _ | .tcbShipment _ _ _ | .dispatcherRefill _ _ | .launchCompletion _ => true
  | .primitivePacket _ _ _ | .endOfGroupMarker _ _ _ | .tileShadeStart _ _ _ | .blendSwellsStart _ _ _ | .mailboxWrite _ _ _ => true
  | .contextCreate _ | .contextSuspend _ | .contextResume _ => true
  | .contextTeardown _ | .contextFree _ | .apertureWrite _ _ _ | .registerWrite _ _ _ _ | .putArrival _ | .putAcknowledgement _ _ => true
  | .putLinkTimeout _ | .collectiveExchange _ _ _ | .linkStallSpill _ _ _ | .linkSpillDrain _ _ _ => true
  | .syncTimer _ | .sync _ _ | .followUp _ _ | .pdelayReqTimer _ | .pdelayReq _ _ => true
  | .pdelayResp _ _ _ _ | .lockLossTimeout _ | .timeSourceFail | .tdiscWrite _ _ => true
  | .atimeBootSet _ | .leadRoleMove | .powerEmergency _ _ | .meterUpdate _ | .suspectCoreService _ | .coreSelfTest _ _ => true
  | .enumeration | .routeTableCompute | .firmwareMeasure _ _ _ => true
  | .getMeasurements _ | .powerStateEntry | .powerStateWake | .hbmChannelSpare _ _ | .firmwareUpdate _ _ | .moduleHotSwap _ _ | .priPageResponse _ _ _ => true
  | .atsTranslationCompletion _ _ _ | .ppsInput _ | .ptpPortMessage _ | .plockBroadcast => true
  | .powerEmergencyEnd _ | .hostPortLinkChange _ _ | .shoreLinkLiveChange _ _ | .dieRetirement _ _ | .boot _ => true

end Sys2Proof
end

