-- ==== Sys2Proof/Decode.lean ====
section
/-! DEFINITION. The decoder of R65 to R86, total on every 32-bit word and refusing by name, and after it the encoder, both written from the same tables of fields and codes. -/

namespace Sys2Proof

noncomputable section

/-- Why a word is not an instruction (R86). Each takes ILLEGAL with FVAL the word. -/
inductive Reject where
  /-- Opcodes 0x3E, 0x3F, 0x7A, 0x7C to 0x7E. -/
  | reservedOpcode
  /-- A function, variant, condition, kind, scope or size code that R81 to R85 do not list, or a HINT with K = 0b11. -/
  | unlistedCode
  /-- A field that must be zero is not. -/
  | reservedField
  /-- An operand check of WellFormed fails: a pair, a group of four, a span, a HOLD or a conversion pair. -/
  | illFormed
deriving DecidableEq, Repr

/-- Bits of HOLD (R69). -/
def Hold.bits : Hold → BitVec 2
  | .none => 0 | .a => 1 | .b => 2 | .c => 3

/-- HOLD from its bits. -/
def Hold.ofBits (b : BitVec 2) : Hold :=
  match b.toNat with | 0 => .none | 1 => .a | 2 => .b | _ => .c

/-- Bits of PM (R68). -/
def Pm.bits : Pm → BitVec 2
  | .all => 0 | .s1 => 1 | .s2 => 2 | .s3 => 3

/-- PM from its bits. -/
def Pm.ofBits (b : BitVec 2) : Pm :=
  match b.toNat with | 0 => .all | 1 => .s1 | 2 => .s2 | _ => .s3

/-- Bits of a rounding mode (R16). -/
def Rm.bits : Rm → BitVec 2
  | .rne => 0 | .rtz => 1 | .rup => 2 | .rdn => 3

/-- A rounding mode from its bits. -/
def Rm.ofBits (b : BitVec 2) : Rm :=
  match b.toNat with | 0 => .rne | 1 => .rtz | 2 => .rup | _ => .rdn

/-- Bits of a cache policy (R76). -/
def CachePol.bits : CachePol → BitVec 2
  | .normal => 0 | .stream => 1 | .noAllocate => 2 | .memorySide => 3

/-- A cache policy from its bits. -/
def CachePol.ofBits (b : BitVec 2) : CachePol :=
  match b.toNat with | 0 => .normal | 1 => .stream | 2 => .noAllocate | _ => .memorySide

/-- The SZ code (R84). -/
def MemSize.bits : MemSize → BitVec 3
  | .s8 => 0 | .z8 => 1 | .s16 => 2 | .z16 => 3 | .w32 => 4 | .w64 => 5 | .w128 => 6

/-- A size from SZ; code 7 is illegal. -/
def MemSize.ofBits (b : BitVec 3) : Option MemSize :=
  match b.toNat with
  | 0 => some .s8 | 1 => some .z8 | 2 => some .s16 | 3 => some .z16
  | 4 => some .w32 | 5 => some .w64 | 6 => some .w128 | _ => none

/-- The CVT source code (R85). -/
def CvtSrc.bits : CvtSrc → BitVec 3
  | .fp32 => 0 | .fp16 => 1 | .bf16 => 2 | .e4m3 => 3 | .e5m2 => 4 | .s32 => 5 | .n32 => 6

/-- A CVT source from its code; 7 is reserved. -/
def CvtSrc.ofBits (b : BitVec 3) : Option CvtSrc :=
  match b.toNat with
  | 0 => some .fp32 | 1 => some .fp16 | 2 => some .bf16 | 3 => some .e4m3
  | 4 => some .e5m2 | 5 => some .s32 | 6 => some .n32 | _ => none

/-- The CVT destination code 0 to 10 (R85). -/
def CvtDst.bits : CvtDst → BitVec 4
  | .fp32 => 0 | .fp16 => 1 | .bf16 => 2 | .e4m3 => 3 | .e5m2 => 4 | .s32 => 5
  | .n32 => 6 | .s16 => 7 | .n16 => 8 | .s8 => 9 | .n8 => 10

/-- A CVT destination of code 0 to 10. -/
def CvtDst.ofBits (b : BitVec 4) : Option CvtDst :=
  match b.toNat with
  | 0 => some .fp32 | 1 => some .fp16 | 2 => some .bf16 | 3 => some .e4m3
  | 4 => some .e5m2 | 5 => some .s32 | 6 => some .n32 | 7 => some .s16
  | 8 => some .n16 | 9 => some .s8 | 10 => some .n8 | _ => none

/-- The SCOPE code of FENCE (R82). -/
def FenceScope.bits : FenceScope → BitVec 2
  | .core => 0 | .cluster => 1 | .die => 2

/-- OP, bits 31:25 (R65). -/
def fOp (w : BitVec 32) : BitVec 7 := w.extractLsb' 25 7
/-- D or C, bits 24:18. -/
def fD (w : BitVec 32) : Reg := w.extractLsb' 18 7
/-- A, bits 17:11. -/
def fA (w : BitVec 32) : Reg := w.extractLsb' 11 7
/-- B, or the function code F of FUN format, bits 10:4. -/
def fB (w : BitVec 32) : Reg := w.extractLsb' 4 7
/-- X, LA or the variant code F of REGF format, bits 3:0. -/
def fX (w : BitVec 32) : BitVec 4 := w.extractLsb' 0 4
/-- HOLD, bits 3:2. -/
def fHold (w : BitVec 32) : Hold := Hold.ofBits (w.extractLsb' 2 2)
/-- PM, bits 1:0. -/
def fPm (w : BitVec 32) : Pm := Pm.ofBits (w.extractLsb' 0 2)
/-- I of IMM format, bits 10:2. -/
def fI9 (w : BitVec 32) : BitVec 9 := w.extractLsb' 2 9
/-- I of IMM16 format, bits 17:2. -/
def fI16 (w : BitVec 32) : BitVec 16 := w.extractLsb' 2 16
/-- O of MEM format, bits 7:4. -/
def fO4 (w : BitVec 32) : BitVec 4 := w.extractLsb' 4 4
/-- O of BRA format, bits 17:0. -/
def fO18 (w : BitVec 32) : BitVec 18 := w.extractLsb' 0 18
/-- The member code of TAG, F[2:0] (R81). -/
def fTagMember (w : BitVec 32) : BitVec 3 := w.extractLsb' 4 3
/-- BS of TAG, F[3]. -/
def fBs (w : BitVec 32) : Bool := w.getLsbD 7
/-- F[6:4] of TAG, reserved. -/
def fTagHigh (w : BitVec 32) : BitVec 3 := w.extractLsb' 8 3

/-- Refuse unless a field that must be zero is. -/
def requireZero (z : Bool) (i : Instr) : Except Reject Instr :=
  if z then .ok i else .error .reservedField

/-- X must be zero (R68, R79). -/
def zeroX (w : BitVec 32) (i : Instr) : Except Reject Instr := requireZero (fX w == 0) i
/-- PM must be zero (R79). -/
def zeroPm (w : BitVec 32) (i : Instr) : Except Reject Instr := requireZero (w.extractLsb' 0 2 == 0) i
/-- D must be zero. -/
def zeroD (w : BitVec 32) (i : Instr) : Except Reject Instr := requireZero (fD w == 0) i
/-- A and X must be zero. -/
def zeroA (w : BitVec 32) (i : Instr) : Except Reject Instr := requireZero (fA w == 0) i
/-- C of BRA and FUSE must be zero (R147). -/
def zeroC (w : BitVec 32) (i : Instr) : Except Reject Instr := requireZero (fD w == 0) i
/-- O of JMPX and FUSE must be zero (R147). -/
def zeroO (w : BitVec 32) (i : Instr) : Except Reject Instr := requireZero (fO18 w == 0) i
/-- D and A must be zero. -/
def zeroDA (w : BitVec 32) (i : Instr) : Except Reject Instr := requireZero (fD w == 0 && fA w == 0) i
/-- A and HOLD must be zero (NBRGET, R142). -/
def zeroAH (w : BitVec 32) (i : Instr) : Except Reject Instr := requireZero (fA w == 0 && w.extractLsb' 2 2 == 0) i
/-- I[6:5] of SHI must be zero (R83). -/
def zeroShift (w : BitVec 32) (i : Instr) : Except Reject Instr := requireZero (w.extractLsb' 7 2 == 0) i
/-- I[6:5] and PM of the SHI mirror must be zero. -/
def zeroShiftG (w : BitVec 32) (i : Instr) : Except Reject Instr := requireZero (w.extractLsb' 7 2 == 0 && w.extractLsb' 0 2 == 0) i

def readHP (w : BitVec 32) : RegHP := ⟨fD w, fA w, fB w, fHold w, fPm w⟩
def readReg3 (w : BitVec 32) : Reg3 := ⟨fD w, fA w, fB w⟩
def readFunHP (w : BitVec 32) : FunHP := ⟨fD w, fA w, fHold w, fPm w⟩
def readReg2 (w : BitVec 32) : Reg2 := ⟨fD w, fA w⟩
def readImmPM (w : BitVec 32) : ImmPM := ⟨fD w, fA w, fI9 w, fPm w⟩
def readImmG (w : BitVec 32) : ImmG := ⟨fD w, fA w, fI9 w⟩
def readShiftPM (w : BitVec 32) : ShiftPM := ⟨fD w, fA w, w.extractLsb' 2 5, fPm w⟩
def readShiftG (w : BitVec 32) : ShiftG := ⟨fD w, fA w, w.extractLsb' 2 5⟩
def readMoviPM (w : BitVec 32) : MoviPM := ⟨fD w, fI16 w, fPm w⟩
def readMoviG (w : BitVec 32) : MoviG := ⟨fD w, fI16 w⟩
def readCmpPM (w : BitVec 32) : CmpPM := ⟨fD w, fA w, w.extractLsb' 2 6, fPm w⟩
def readCmpG (w : BitVec 32) : CmpG := ⟨fD w, fA w, w.extractLsb' 2 6⟩
def readNbrGet (w : BitVec 32) : NbrGetOp := ⟨fD w, fPm w⟩
def readNbrSet (w : BitVec 32) : NbrSetOp := ⟨fA w, fHold w, fPm w⟩
def readTag (w : BitVec 32) : TagOp := ⟨fD w, fA w, fBs w, fX w⟩
def readTagAddr (w : BitVec 32) : TagAddrOp := ⟨fA w, fBs w, fX w⟩
def readRed (w : BitVec 32) : RedOp := ⟨fA w, fB w⟩
def readReg3LA (w : BitVec 32) : Reg3LA := ⟨fD w, fA w, fB w, fX w⟩
def readReorder (w : BitVec 32) : ReorderOp := ⟨fD w, fA w, fB w, fX w⟩
def readReg2LA (w : BitVec 32) : Reg2LA := ⟨fD w, fA w, fX w⟩
def readSect (w : BitVec 32) : SectOp := ⟨fA w, fX w⟩
def readBranch (w : BitVec 32) : BranchOp := ⟨fD w, fO18 w⟩
def readSrd (w : BitVec 32) : SrdOp := ⟨fD w, fA w⟩
def readSwr (w : BitVec 32) : SwrOp := ⟨fD w, fA w⟩

/-- A word of MEM format (R65, R84). -/
def readMem (w : BitVec 32) (mk : MemOp → Instr) : Except Reject Instr :=
  match MemSize.ofBits (w.extractLsb' 8 3) with
  | some sz => .ok (mk ⟨fD w, fA w, sz, fO4 w, fX w⟩)
  | none => .error .unlistedCode

/-- PF: D and SZ must be zero (R84, R200). -/
def decodePf (w : BitVec 32) : Except Reject Instr :=
  requireZero (fD w == 0 && w.extractLsb' 8 3 == 0) (.pf ⟨fA w, fO4 w, fX w⟩)

/-- CVT, opcode 0x28 (R85). -/
def decodeCvt (w : BitVec 32) : Except Reject Instr :=
  match CvtSrc.ofBits (w.extractLsb' 8 3), (w.extractLsb' 4 4).toNat with
  | none, _ => .error .unlistedCode
  | some src, 11 => .ok (.cvtBs8 ⟨fD w, fA w, src, fHold w, fPm w⟩)
  | some src, 12 => .ok (.cvtBs4 ⟨fD w, fA w, src, fHold w, fPm w⟩)
  | some src, _ =>
    match CvtDst.ofBits (w.extractLsb' 4 4) with
    | some dst => .ok (.cvt ⟨fD w, fA w, src, dst, fHold w, fPm w⟩)
    | none => .error .unlistedCode

/-- The CVT mirror, opcode 0x68: no BS8 and no BS4 (R128). -/
def decodeCvtG (w : BitVec 32) : Except Reject Instr :=
  match CvtSrc.ofBits (w.extractLsb' 8 3), CvtDst.ofBits (w.extractLsb' 4 4) with
  | some src, some dst => zeroX w (.cvtGroup ⟨fD w, fA w, src, dst⟩)
  | _, _ => .error .unlistedCode

/-- SHFL, opcode 0x2A (R134). -/
def decodeShfl (w : BitVec 32) : Except Reject Instr :=
  match (fX w).toNat with
  | 0 => .ok (.shflIdx (readReg3 w))
  | 1 => requireZero (!w.getLsbD 10) (.shflUp ⟨fD w, fA w, w.getLsbD 9, w.extractLsb' 4 5⟩)
  | 2 => requireZero (!w.getLsbD 10) (.shflDn ⟨fD w, fA w, w.getLsbD 9, w.extractLsb' 4 5⟩)
  | 3 => requireZero (!w.getLsbD 10 && !w.getLsbD 9) (.shflXor ⟨fD w, fA w, w.extractLsb' 4 5⟩)
  | _ => .error .unlistedCode

/-- LMOV, opcode 0x2B (R136). -/
def decodeLmov (w : BitVec 32) : Except Reject Instr :=
  match (fX w).toNat with
  | 0 => .ok (.bcast (readReg3 w))
  | 1 => .ok (.vext (readReg3 w))
  | 2 => .ok (.vins (readReg3 w))
  | 3 => requireZero (fB w == 0) (.msk (readReg2 w))
  | 4 => requireZero (fB w == 0) (.unmsk (readReg2 w))
  | 5 => .ok (.vmovx (readReg3 w))
  | 6 => .ok (.vmovxw (readReg3 w))
  | _ => .error .unlistedCode

/-- FENCE, opcode 0x74 (R82). -/
def decodeFence (w : BitVec 32) : Except Reject Instr :=
  if fD w == 0 && fA w == 0 && fX w == 0 && w.extractLsb' 8 3 == 0 then
    match (w.extractLsb' 6 2).toNat, (w.extractLsb' 4 2).toNat with
    | 0, 0 => .ok (.fenceAcq .core) | 1, 0 => .ok (.fenceAcq .cluster) | 2, 0 => .ok (.fenceAcq .die)
    | 0, 1 => .ok (.fenceRel .core) | 1, 1 => .ok (.fenceRel .cluster) | 2, 1 => .ok (.fenceRel .die)
    | 0, 2 => .ok (.fenceAr .core) | 1, 2 => .ok (.fenceAr .cluster) | 2, 2 => .ok (.fenceAr .die)
    | _, _ => .error .unlistedCode
  else .error .reservedField

/-- GSYS, opcode 0x70, X zero (R155). -/
def decodeGsysFun (w : BitVec 32) : Except Reject Instr :=
  match (fB w).toNat with
  | 0 => zeroD w (.setf (fA w))
  | 1 => zeroA w (.getf (fD w))
  | 2 => zeroD w (.setc (fA w))
  | 3 => zeroA w (.getc (fD w))
  | 4 => zeroD w (.setpri (fA w))
  | 5 => zeroDA w .yield
  | 6 => zeroDA w .exit
  | 7 => zeroDA w .region
  | 8 => zeroD w (.cont (fA w))
  | 9 => zeroD w (.resume (fA w))
  | 10 => .ok (.srd (readSrd w))
  | 11 => .ok (.swr (readSwr w))
  | 12 => .ok (.trap (w.extractLsb' 11 14))
  | 13 => zeroDA w .eret
  | 14 => zeroDA w .bkpt
  | 15 => zeroDA w .nop
  | 16 => if fD w = 0 then .ok (.tlbiPage (fA w)) else if fD w = 1 then zeroA w .tlbiCtx else .error .unlistedCode
  | 17 => zeroA w (.time (fD w))
  | 18 => zeroD w (.twait (fA w))
  | _ => .error .unlistedCode

def decodeGsys (w : BitVec 32) : Except Reject Instr :=
  if fX w == 0 then decodeGsysFun w else .error .reservedField

/-- HINT, opcode 0x7F (R73 to R78). -/
def decodeHint (w : BitVec 32) : Except Reject Instr :=
  match (w.extractLsb' 23 2).toNat with
  | 0 => .ok (.hintWideImmediate (w.extractLsb' 0 23))
  | 1 => requireZero (w.extractLsb' 0 5 == 0)
      (.hintModifiers ⟨Pm.ofBits (w.extractLsb' 21 2), w.getLsbD 19, w.getLsbD 20, CachePol.ofBits (w.extractLsb' 17 2), w.getLsbD 16,
        Rm.ofBits (w.extractLsb' 14 2), w.getLsbD 13, w.getLsbD 12, w.extractLsb' 5 7⟩)
  | 2 => requireZero (w.extractLsb' 0 13 == 0)
      (.hintScheduling ⟨w.getLsbD 22, w.getLsbD 21, w.extractLsb' 18 3, w.getLsbD 17, w.extractLsb' 13 4⟩)
  | _ => .error .unlistedCode

/-- The Ixt family, opcode 0x16 (R81). -/
def decodeIxt (w : BitVec 32) : Except Reject Instr :=
  match (fX w).toNat with
  | 0 => .ok (.mulh (readReg3 w))
  | 1 => .ok (.mulhn (readReg3 w))
  | 2 => .ok (.adds (readReg3 w))
  | 3 => .ok (.subs (readReg3 w))
  | 4 => .ok (.rol (readReg3 w))
  | 5 => .ok (.bfx (readReg3 w))
  | 6 => .ok (.bfxn (readReg3 w))
  | 7 => .ok (.bfi (readReg3 w))
  | 8 => .ok (.divs (readReg3 w))
  | 9 => .ok (.divn (readReg3 w))
  | 10 => .ok (.orn (readReg3 w))
  | 11 => .ok (.xnor (readReg3 w))
  | _ => .error .unlistedCode

/-- The Intf family, opcode 0x17 (R81). -/
def decodeIntf (w : BitVec 32) : Except Reject Instr :=
  match (fB w).toNat with
  | 0 => .ok (.mov (readFunHP w))
  | 1 => .ok (.not (readFunHP w))
  | 2 => .ok (.neg (readFunHP w))
  | 3 => .ok (.abs (readFunHP w))
  | 4 => .ok (.clz (readFunHP w))
  | 5 => .ok (.ctz (readFunHP w))
  | 6 => .ok (.popc (readFunHP w))
  | 7 => .ok (.brev (readFunHP w))
  | 8 => .ok (.bswap (readFunHP w))
  | 9 => .ok (.sextb (readFunHP w))
  | 10 => .ok (.sexth (readFunHP w))
  | 11 => .ok (.zextb (readFunHP w))
  | 12 => .ok (.zexth (readFunHP w))
  | _ => .error .unlistedCode

/-- The Shi family, opcode 0x1C (R81). -/
def decodeShi (w : BitVec 32) : Except Reject Instr :=
  match (w.extractLsb' 9 2).toNat with
  | 0 => zeroShift w (.shli (readShiftPM w))
  | 1 => zeroShift w (.shri (readShiftPM w))
  | 2 => zeroShift w (.srai (readShiftPM w))
  | _ => zeroShift w (.roli (readShiftPM w))

/-- The Cmpi family, opcode 0x1E (R81). -/
def decodeCmpi (w : BitVec 32) : Except Reject Instr :=
  match (w.extractLsb' 8 3).toNat with
  | 0 => .ok (.cmpiEq (readCmpPM w))
  | 1 => .ok (.cmpiNe (readCmpPM w))
  | 2 => .ok (.cmpiLt (readCmpPM w))
  | 3 => .ok (.cmpiLe (readCmpPM w))
  | 4 => .ok (.cmpiLtn (readCmpPM w))
  | 5 => .ok (.cmpiLen (readCmpPM w))
  | _ => .error .unlistedCode

/-- The Fcmp family, opcode 0x25 (R81). -/
def decodeFcmp (w : BitVec 32) : Except Reject Instr :=
  match (fX w).toNat with
  | 0 => .ok (.fcmpEq (readReg3 w))
  | 1 => .ok (.fcmpNe (readReg3 w))
  | 2 => .ok (.fcmpLt (readReg3 w))
  | 3 => .ok (.fcmpLe (readReg3 w))
  | 4 => .ok (.fcmpGt (readReg3 w))
  | 5 => .ok (.fcmpGe (readReg3 w))
  | 6 => .ok (.fcmpUo (readReg3 w))
  | 7 => .ok (.fcmpOr (readReg3 w))
  | _ => .error .unlistedCode

/-- The Fpf family, opcode 0x26 (R81). -/
def decodeFpf (w : BitVec 32) : Except Reject Instr :=
  match (fB w).toNat with
  | 0 => .ok (.fabs (readFunHP w))
  | 1 => .ok (.fneg (readFunHP w))
  | 2 => .ok (.fcps (readFunHP w))
  | 3 => .ok (.frcp (readFunHP w))
  | 4 => .ok (.frsq (readFunHP w))
  | 5 => .ok (.fsqrt (readFunHP w))
  | 6 => .ok (.fexp2 (readFunHP w))
  | 7 => .ok (.flog2 (readFunHP w))
  | 8 => .ok (.frndn (readFunHP w))
  | 9 => .ok (.frndz (readFunHP w))
  | 10 => .ok (.frndp (readFunHP w))
  | 11 => .ok (.frndm (readFunHP w))
  | 12 => .ok (.fclass (readFunHP w))
  | _ => .error .unlistedCode

/-- The H2 family, opcode 0x29 (R81). -/
def decodeH2 (w : BitVec 32) : Except Reject Instr :=
  match (fX w).toNat with
  | 0 => .ok (.h2add (readReg3 w))
  | 1 => .ok (.h2sub (readReg3 w))
  | 2 => .ok (.h2mul (readReg3 w))
  | 3 => .ok (.h2fma (readReg3 w))
  | 4 => .ok (.h2min (readReg3 w))
  | 5 => .ok (.h2max (readReg3 w))
  | _ => .error .unlistedCode

/-- The Deriv family, opcode 0x2D (R81). -/
def decodeDeriv (w : BitVec 32) : Except Reject Instr :=
  match (fB w).toNat with
  | 0 => .ok (.ddx (readFunHP w))
  | 1 => .ok (.ddy (readFunHP w))
  | 2 => .ok (.ddxc (readFunHP w))
  | 3 => .ok (.ddyc (readFunHP w))
  | 4 => zeroAH w (.nbrget (readNbrGet w))
  | 5 => zeroD w (.nbrset (readNbrSet w))
  | _ => .error .unlistedCode

/-- The Tag family, opcode 0x32 (R81). -/
def decodeTag (w : BitVec 32) : Except Reject Instr :=
  if fTagHigh w = 0 then
    match (fTagMember w).toNat with
    | 0 => .ok (.ldf (readTag w))
    | 1 => .ok (.ldc (readTag w))
    | 2 => .ok (.stp (readTag w))
    | 3 => .ok (.stf (readTag w))
    | 4 => zeroD w (.sete (readTagAddr w))
    | 5 => .ok (.tagq (readTag w))
    | _ => .error .unlistedCode
  else .error .reservedField

/-- The Atom family, opcode 0x33 (R81). -/
def decodeAtom (w : BitVec 32) : Except Reject Instr :=
  match (fX w).toNat with
  | 0 => .ok (.atomAdd (readReg3 w))
  | 1 => .ok (.atomAnd (readReg3 w))
  | 2 => .ok (.atomOr (readReg3 w))
  | 3 => .ok (.atomXor (readReg3 w))
  | 4 => .ok (.atomMin (readReg3 w))
  | 5 => .ok (.atomMax (readReg3 w))
  | 6 => .ok (.atomMinn (readReg3 w))
  | 7 => .ok (.atomMaxn (readReg3 w))
  | 8 => .ok (.atomXchg (readReg3 w))
  | 9 => .ok (.atomCas (readReg3 w))
  | 10 => .ok (.atomFadd (readReg3 w))
  | 11 => .ok (.atomFmin (readReg3 w))
  | 12 => .ok (.atomFmax (readReg3 w))
  | 13 => .ok (.atomInc (readReg3 w))
  | _ => .error .unlistedCode

/-- The Red family, opcode 0x34 (R81). -/
def decodeRed (w : BitVec 32) : Except Reject Instr :=
  match (fX w).toNat with
  | 0 => zeroD w (.redAdd (readRed w))
  | 1 => zeroD w (.redAnd (readRed w))
  | 2 => zeroD w (.redOr (readRed w))
  | 3 => zeroD w (.redXor (readRed w))
  | 4 => zeroD w (.redMin (readRed w))
  | 5 => zeroD w (.redMax (readRed w))
  | 6 => zeroD w (.redMinn (readRed w))
  | 7 => zeroD w (.redMaxn (readRed w))
  | 10 => zeroD w (.redFadd (readRed w))
  | 11 => zeroD w (.redFmin (readRed w))
  | 12 => zeroD w (.redFmax (readRed w))
  | 13 => zeroD w (.redInc (readRed w))
  | _ => .error .unlistedCode

/-- The Gfx family, opcode 0x3B (R81). -/
def decodeGfx (w : BitVec 32) : Except Reject Instr :=
  match (fB w).toNat with
  | 0 => .ok (.emitp (readReg2LA w))
  | 1 => .ok (.texq (readReg2LA w))
  | 2 => .ok (.rshade (readReg2LA w))
  | _ => .error .unlistedCode

/-- The Waitv family, opcode 0x3C (R81). -/
def decodeWaitv (w : BitVec 32) : Except Reject Instr :=
  match (fX w).toNat with
  | 0 => .ok (.waitvEq (readReg3 w))
  | 1 => .ok (.waitvNe (readReg3 w))
  | 2 => .ok (.waitvGen (readReg3 w))
  | 3 => .ok (.waitvGtn (readReg3 w))
  | _ => .error .unlistedCode

/-- The IxtG family, opcode 0x56 (R81). -/
def decodeIxtG (w : BitVec 32) : Except Reject Instr :=
  match (fX w).toNat with
  | 0 => .ok (.mulhGroup (readReg3 w))
  | 1 => .ok (.mulhnGroup (readReg3 w))
  | 2 => .ok (.addsGroup (readReg3 w))
  | 3 => .ok (.subsGroup (readReg3 w))
  | 4 => .ok (.rolGroup (readReg3 w))
  | 5 => .ok (.bfxGroup (readReg3 w))
  | 6 => .ok (.bfxnGroup (readReg3 w))
  | 7 => .ok (.bfiGroup (readReg3 w))
  | 8 => .ok (.divsGroup (readReg3 w))
  | 9 => .ok (.divnGroup (readReg3 w))
  | 10 => .ok (.ornGroup (readReg3 w))
  | 11 => .ok (.xnorGroup (readReg3 w))
  | _ => .error .unlistedCode

/-- The IntfG family, opcode 0x57 (R81). -/
def decodeIntfG (w : BitVec 32) : Except Reject Instr :=
  match (fB w).toNat with
  | 0 => zeroX w (.movGroup (readReg2 w))
  | 1 => zeroX w (.notGroup (readReg2 w))
  | 2 => zeroX w (.negGroup (readReg2 w))
  | 3 => zeroX w (.absGroup (readReg2 w))
  | 4 => zeroX w (.clzGroup (readReg2 w))
  | 5 => zeroX w (.ctzGroup (readReg2 w))
  | 6 => zeroX w (.popcGroup (readReg2 w))
  | 7 => zeroX w (.brevGroup (readReg2 w))
  | 8 => zeroX w (.bswapGroup (readReg2 w))
  | 9 => zeroX w (.sextbGroup (readReg2 w))
  | 10 => zeroX w (.sexthGroup (readReg2 w))
  | 11 => zeroX w (.zextbGroup (readReg2 w))
  | 12 => zeroX w (.zexthGroup (readReg2 w))
  | _ => .error .unlistedCode

/-- The ShiG family, opcode 0x5C (R81). -/
def decodeShiG (w : BitVec 32) : Except Reject Instr :=
  match (w.extractLsb' 9 2).toNat with
  | 0 => zeroShiftG w (.shliGroup (readShiftG w))
  | 1 => zeroShiftG w (.shriGroup (readShiftG w))
  | 2 => zeroShiftG w (.sraiGroup (readShiftG w))
  | _ => zeroShiftG w (.roliGroup (readShiftG w))

/-- The CmpiG family, opcode 0x5E (R81). -/
def decodeCmpiG (w : BitVec 32) : Except Reject Instr :=
  match (w.extractLsb' 8 3).toNat with
  | 0 => zeroPm w (.cmpiEqGroup (readCmpG w))
  | 1 => zeroPm w (.cmpiNeGroup (readCmpG w))
  | 2 => zeroPm w (.cmpiLtGroup (readCmpG w))
  | 3 => zeroPm w (.cmpiLeGroup (readCmpG w))
  | 4 => zeroPm w (.cmpiLtnGroup (readCmpG w))
  | 5 => zeroPm w (.cmpiLenGroup (readCmpG w))
  | _ => .error .unlistedCode

/-- The FcmpG family, opcode 0x65 (R81). -/
def decodeFcmpG (w : BitVec 32) : Except Reject Instr :=
  match (fX w).toNat with
  | 0 => .ok (.fcmpEqGroup (readReg3 w))
  | 1 => .ok (.fcmpNeGroup (readReg3 w))
  | 2 => .ok (.fcmpLtGroup (readReg3 w))
  | 3 => .ok (.fcmpLeGroup (readReg3 w))
  | 4 => .ok (.fcmpGtGroup (readReg3 w))
  | 5 => .ok (.fcmpGeGroup (readReg3 w))
  | 6 => .ok (.fcmpUoGroup (readReg3 w))
  | 7 => .ok (.fcmpOrGroup (readReg3 w))
  | _ => .error .unlistedCode

/-- The FpfG family, opcode 0x66 (R81). -/
def decodeFpfG (w : BitVec 32) : Except Reject Instr :=
  match (fB w).toNat with
  | 0 => zeroX w (.fabsGroup (readReg2 w))
  | 1 => zeroX w (.fnegGroup (readReg2 w))
  | 2 => zeroX w (.fcpsGroup (readReg2 w))
  | 3 => zeroX w (.frcpGroup (readReg2 w))
  | 4 => zeroX w (.frsqGroup (readReg2 w))
  | 5 => zeroX w (.fsqrtGroup (readReg2 w))
  | 6 => zeroX w (.fexp2Group (readReg2 w))
  | 7 => zeroX w (.flog2Group (readReg2 w))
  | 8 => zeroX w (.frndnGroup (readReg2 w))
  | 9 => zeroX w (.frndzGroup (readReg2 w))
  | 10 => zeroX w (.frndpGroup (readReg2 w))
  | 11 => zeroX w (.frndmGroup (readReg2 w))
  | 12 => zeroX w (.fclassGroup (readReg2 w))
  | _ => .error .unlistedCode

/-- The Satom family, opcode 0x73 (R81). -/
def decodeSatom (w : BitVec 32) : Except Reject Instr :=
  match (fX w).toNat with
  | 0 => .ok (.satomAdd (readReg3 w))
  | 1 => .ok (.satomAnd (readReg3 w))
  | 2 => .ok (.satomOr (readReg3 w))
  | 3 => .ok (.satomXor (readReg3 w))
  | 4 => .ok (.satomMin (readReg3 w))
  | 5 => .ok (.satomMax (readReg3 w))
  | 6 => .ok (.satomMinn (readReg3 w))
  | 7 => .ok (.satomMaxn (readReg3 w))
  | 8 => .ok (.satomXchg (readReg3 w))
  | 9 => .ok (.satomCas (readReg3 w))
  | 10 => .ok (.satomFadd (readReg3 w))
  | 11 => .ok (.satomFmin (readReg3 w))
  | 12 => .ok (.satomFmax (readReg3 w))
  | 13 => .ok (.satomInc (readReg3 w))
  | _ => .error .unlistedCode

/-- The Cmaint family, opcode 0x75 (R81). -/
def decodeCmaint (w : BitVec 32) : Except Reject Instr :=
  match (fB w).toNat with
  | 0 => .ok (.clean (readReg2LA w))
  | 1 => .ok (.inv (readReg2LA w))
  | 2 => .ok (.clinv (readReg2LA w))
  | _ => .error .unlistedCode

/-- The Eng family, opcode 0x76 (R81). -/
def decodeEng (w : BitVec 32) : Except Reject Instr :=
  match (fB w).toNat with
  | 0 => .ok (.copy (readReg2LA w))
  | 1 => .ok (.gather (readReg2LA w))
  | 2 => .ok (.scatter (readReg2LA w))
  | 3 => .ok (.eqry (readReg2LA w))
  | 4 => .ok (.rarith (readReg2LA w))
  | 5 => .ok (.coll (readReg2LA w))
  | 6 => .ok (.cstat (readReg2LA w))
  | 7 => .ok (.wsend (readReg2LA w))
  | 8 => .ok (.wsig (readReg2LA w))
  | _ => .error .unlistedCode

/-- The Bar family, opcode 0x77 (R81). -/
def decodeBar (w : BitVec 32) : Except Reject Instr :=
  match (fB w).toNat with
  | 0 => .ok (.binit (readReg2LA w))
  | 1 => .ok (.arrive (readReg2LA w))
  | 2 => .ok (.arrivex (readReg2LA w))
  | 3 => .ok (.bwait (readReg2LA w))
  | _ => .error .unlistedCode

/-- The Sect family, opcode 0x78 (R81). -/
def decodeSect (w : BitVec 32) : Except Reject Instr :=
  match (fB w).toNat with
  | 0 => .ok (.seqtake (readReg2LA w))
  | 1 => .ok (.enter (readReg2LA w))
  | 2 => zeroD w (.leave (readSect w))
  | 3 => zeroD w (.leaveEnd (readSect w))
  | 4 => zeroD w (.abandon (readSect w))
  | 5 => .ok (.sectq (readReg2LA w))
  | _ => .error .unlistedCode

/-- The Launch family, opcode 0x79 (R81). -/
def decodeLaunch (w : BitVec 32) : Except Reject Instr :=
  match (fB w).toNat with
  | 0 => .ok (.launch (readReg2LA w))
  | 1 => .ok (.lqry (readReg2LA w))
  | _ => .error .unlistedCode

/-- The Swaitv family, opcode 0x7B (R81). -/
def decodeSwaitv (w : BitVec 32) : Except Reject Instr :=
  match (fX w).toNat with
  | 0 => .ok (.swaitvEq (readReg3 w))
  | 1 => .ok (.swaitvNe (readReg3 w))
  | 2 => .ok (.swaitvGen (readReg3 w))
  | 3 => .ok (.swaitvGtn (readReg3 w))
  | _ => .error .unlistedCode

/-- The fields and codes of R80 and R81, before the operand checks of WellFormed. -/
def decodeFields (w : BitVec 32) : Except Reject Instr :=
  match (fOp w).toNat with
  | 0x00 => .ok (.add (readHP w))
  | 0x01 => .ok (.sub (readHP w))
  | 0x02 => .ok (.mul (readHP w))
  | 0x03 => .ok (.mac (readHP w))
  | 0x04 => .ok (.and (readHP w))
  | 0x05 => .ok (.or (readHP w))
  | 0x06 => .ok (.xor (readHP w))
  | 0x07 => .ok (.andn (readHP w))
  | 0x08 => .ok (.shl (readHP w))
  | 0x09 => .ok (.shr (readHP w))
  | 0x0A => .ok (.sra (readHP w))
  | 0x0B => .ok (.min (readHP w))
  | 0x0C => .ok (.max (readHP w))
  | 0x0D => .ok (.minn (readHP w))
  | 0x0E => .ok (.maxn (readHP w))
  | 0x0F => .ok (.sel (readHP w))
  | 0x10 => .ok (.ceq (readHP w))
  | 0x11 => .ok (.cne (readHP w))
  | 0x12 => .ok (.clt (readHP w))
  | 0x13 => .ok (.cle (readHP w))
  | 0x14 => .ok (.cltn (readHP w))
  | 0x15 => .ok (.clen (readHP w))
  | 0x16 => decodeIxt w
  | 0x17 => decodeIntf w
  | 0x18 => .ok (.addi (readImmPM w))
  | 0x19 => .ok (.andi (readImmPM w))
  | 0x1A => .ok (.ori (readImmPM w))
  | 0x1B => .ok (.xori (readImmPM w))
  | 0x1C => decodeShi w
  | 0x1D => .ok (.movi (readMoviPM w))
  | 0x1E => decodeCmpi w
  | 0x1F => .ok (.fadd (readHP w))
  | 0x20 => .ok (.fsub (readHP w))
  | 0x21 => .ok (.fmul (readHP w))
  | 0x22 => .ok (.ffma (readHP w))
  | 0x23 => .ok (.fmin (readHP w))
  | 0x24 => .ok (.fmax (readHP w))
  | 0x25 => decodeFcmp w
  | 0x26 => decodeFpf w
  | 0x27 => .ok (.fdiv (readHP w))
  | 0x28 => decodeCvt w
  | 0x29 => decodeH2 w
  | 0x2A => decodeShfl w
  | 0x2B => decodeLmov w
  | 0x2C => .ok (.prmt (readHP w))
  | 0x2D => decodeDeriv w
  | 0x2E => readMem w .ld
  | 0x2F => readMem w .st
  | 0x30 => readMem w .lds
  | 0x31 => readMem w .sts
  | 0x32 => decodeTag w
  | 0x33 => decodeAtom w
  | 0x34 => decodeRed w
  | 0x35 => readMem w .ldt
  | 0x36 => readMem w .stt
  | 0x37 => .ok (.mma (readReg3LA w))
  | 0x38 => .ok (.mmaz (readReg3LA w))
  | 0x39 => .ok (.reorder (readReorder w))
  | 0x3A => .ok (.tex (readReg3LA w))
  | 0x3B => decodeGfx w
  | 0x3C => decodeWaitv w
  | 0x3D => decodePf w
  | 0x40 => zeroX w (.addGroup (readReg3 w))
  | 0x41 => zeroX w (.subGroup (readReg3 w))
  | 0x42 => zeroX w (.mulGroup (readReg3 w))
  | 0x43 => zeroX w (.macGroup (readReg3 w))
  | 0x44 => zeroX w (.andGroup (readReg3 w))
  | 0x45 => zeroX w (.orGroup (readReg3 w))
  | 0x46 => zeroX w (.xorGroup (readReg3 w))
  | 0x47 => zeroX w (.andnGroup (readReg3 w))
  | 0x48 => zeroX w (.shlGroup (readReg3 w))
  | 0x49 => zeroX w (.shrGroup (readReg3 w))
  | 0x4A => zeroX w (.sraGroup (readReg3 w))
  | 0x4B => zeroX w (.minGroup (readReg3 w))
  | 0x4C => zeroX w (.maxGroup (readReg3 w))
  | 0x4D => zeroX w (.minnGroup (readReg3 w))
  | 0x4E => zeroX w (.maxnGroup (readReg3 w))
  | 0x4F => zeroX w (.selGroup (readReg3 w))
  | 0x50 => zeroX w (.ceqGroup (readReg3 w))
  | 0x51 => zeroX w (.cneGroup (readReg3 w))
  | 0x52 => zeroX w (.cltGroup (readReg3 w))
  | 0x53 => zeroX w (.cleGroup (readReg3 w))
  | 0x54 => zeroX w (.cltnGroup (readReg3 w))
  | 0x55 => zeroX w (.clenGroup (readReg3 w))
  | 0x56 => decodeIxtG w
  | 0x57 => decodeIntfG w
  | 0x58 => zeroPm w (.addiGroup (readImmG w))
  | 0x59 => zeroPm w (.andiGroup (readImmG w))
  | 0x5A => zeroPm w (.oriGroup (readImmG w))
  | 0x5B => zeroPm w (.xoriGroup (readImmG w))
  | 0x5C => decodeShiG w
  | 0x5D => zeroPm w (.moviGroup (readMoviG w))
  | 0x5E => decodeCmpiG w
  | 0x5F => zeroX w (.faddGroup (readReg3 w))
  | 0x60 => zeroX w (.fsubGroup (readReg3 w))
  | 0x61 => zeroX w (.fmulGroup (readReg3 w))
  | 0x62 => zeroX w (.ffmaGroup (readReg3 w))
  | 0x63 => zeroX w (.fminGroup (readReg3 w))
  | 0x64 => zeroX w (.fmaxGroup (readReg3 w))
  | 0x65 => decodeFcmpG w
  | 0x66 => decodeFpfG w
  | 0x67 => zeroX w (.fdivGroup (readReg3 w))
  | 0x68 => decodeCvtG w
  | 0x69 => zeroC w (.bra (fO18 w))
  | 0x6A => .ok (.brz (readBranch w))
  | 0x6B => .ok (.brnz (readBranch w))
  | 0x6C => .ok (.call (readBranch w))
  | 0x6D => zeroO w (.jmpx (fD w))
  | 0x6E => .ok (.split (readBranch w))
  | 0x6F => zeroC w (.fuse) >>= fun i => zeroO w i
  | 0x70 => decodeGsys w
  | 0x71 => readMem w .sld
  | 0x72 => readMem w .sst
  | 0x73 => decodeSatom w
  | 0x74 => decodeFence w
  | 0x75 => decodeCmaint w
  | 0x76 => decodeEng w
  | 0x77 => decodeBar w
  | 0x78 => decodeSect w
  | 0x79 => decodeLaunch w
  | 0x7B => decodeSwaitv w
  | 0x7F => decodeHint w
  | _ => .error .reservedOpcode

/-- The instruction of a word, or why it is none (R86). -/
def decode (w : BitVec 32) : Except Reject Instr :=
  match decodeFields w with
  | .ok i => if i.wf then .ok i else .error .illFormed
  | .error r => .error r

/-- REG, FUN and REGF formats: OP, D, A, B or F, X or F (R65). -/
def packReg (op d a b : BitVec 7) (x : BitVec 4) : BitVec 32 := op ++ d ++ a ++ b ++ x
/-- IMM format. -/
def packImm (op d a : BitVec 7) (i : BitVec 9) (pm : BitVec 2) : BitVec 32 := op ++ d ++ a ++ i ++ pm
/-- IMM16 format. -/
def packImm16 (op d : BitVec 7) (i : BitVec 16) (pm : BitVec 2) : BitVec 32 := op ++ d ++ i ++ pm
/-- MEM format. -/
def packMem (op d a : BitVec 7) (sz : BitVec 3) (o la : BitVec 4) : BitVec 32 := op ++ d ++ a ++ sz ++ o ++ la
/-- BRA format. -/
def packBra (op c : BitVec 7) (o : BitVec 18) : BitVec 32 := op ++ c ++ o
/-- TRAP: the immediate fills D and A. -/
def packTrap (op : BitVec 7) (imm : BitVec 14) (f : BitVec 7) : BitVec 32 := op ++ imm ++ f ++ 0#4
/-- HNT format. -/
def packHint (k : BitVec 2) (p : BitVec 23) : BitVec 32 := 0x7F#7 ++ k ++ p
/-- X in the HP role. -/
def hpBits (h : Hold) (p : Pm) : BitVec 4 := h.bits ++ p.bits
/-- I of SHI (R83). -/
def shiftBits (member : BitVec 2) (n : BitVec 5) : BitVec 9 := member ++ 0#2 ++ n
/-- I of CMPI (R83). -/
def cmpBits (cond : BitVec 3) (i : BitVec 6) : BitVec 9 := cond ++ i
/-- F of CVT (R85). -/
def cvtBits (s : CvtSrc) (d : BitVec 4) : BitVec 7 := s.bits ++ d
/-- B of SHFL.UP, SHFL.DN and SHFL.XOR (R134). -/
def shflBits (keep : Bool) (c : BitVec 5) : BitVec 7 := 0#1 ++ BitVec.ofBool keep ++ c
/-- F of TAG (R81). -/
def tagBits (bs : Bool) (m : BitVec 3) : BitVec 7 := 0#3 ++ BitVec.ofBool bs ++ m
/-- F of FENCE (R82). -/
def fenceBits (s : FenceScope) (kind : BitVec 2) : BitVec 7 := 0#3 ++ s.bits ++ kind
/-- The payload of a modifiers HINT (R76). -/
def ModHint.bits (o : ModHint) : BitVec 23 :=
  o.pmx.bits ++ BitVec.ofBool o.rel ++ BitVec.ofBool o.acq ++ o.cp.bits ++ BitVec.ofBool o.rse ++ o.rm.bits ++
    BitVec.ofBool o.sat ++ BitVec.ofBool o.te ++ o.ts ++ 0#5
/-- The payload of a scheduling HINT (R78). -/
def SchedHint.bits (o : SchedHint) : BitVec 23 :=
  BitVec.ofBool o.ya ++ BitVec.ofBool o.tpe ++ o.tp ++ BitVec.ofBool o.lae ++ o.lav ++ 0#13

/-- The word of an instruction. An event has no word and gives 0; a word that is no instruction gives itself. -/
def encode : Instr → BitVec 32
  | .add o => packReg 0x00 o.d o.a o.b (hpBits o.hold o.pm)
  | .addGroup o => packReg 0x40 o.d o.a o.b 0
  | .sub o => packReg 0x01 o.d o.a o.b (hpBits o.hold o.pm)
  | .subGroup o => packReg 0x41 o.d o.a o.b 0
  | .mul o => packReg 0x02 o.d o.a o.b (hpBits o.hold o.pm)
  | .mulGroup o => packReg 0x42 o.d o.a o.b 0
  | .mac o => packReg 0x03 o.d o.a o.b (hpBits o.hold o.pm)
  | .macGroup o => packReg 0x43 o.d o.a o.b 0
  | .and o => packReg 0x04 o.d o.a o.b (hpBits o.hold o.pm)
  | .andGroup o => packReg 0x44 o.d o.a o.b 0
  | .or o => packReg 0x05 o.d o.a o.b (hpBits o.hold o.pm)
  | .orGroup o => packReg 0x45 o.d o.a o.b 0
  | .xor o => packReg 0x06 o.d o.a o.b (hpBits o.hold o.pm)
  | .xorGroup o => packReg 0x46 o.d o.a o.b 0
  | .andn o => packReg 0x07 o.d o.a o.b (hpBits o.hold o.pm)
  | .andnGroup o => packReg 0x47 o.d o.a o.b 0
  | .shl o => packReg 0x08 o.d o.a o.b (hpBits o.hold o.pm)
  | .shlGroup o => packReg 0x48 o.d o.a o.b 0
  | .shr o => packReg 0x09 o.d o.a o.b (hpBits o.hold o.pm)
  | .shrGroup o => packReg 0x49 o.d o.a o.b 0
  | .sra o => packReg 0x0A o.d o.a o.b (hpBits o.hold o.pm)
  | .sraGroup o => packReg 0x4A o.d o.a o.b 0
  | .min o => packReg 0x0B o.d o.a o.b (hpBits o.hold o.pm)
  | .minGroup o => packReg 0x4B o.d o.a o.b 0
  | .max o => packReg 0x0C o.d o.a o.b (hpBits o.hold o.pm)
  | .maxGroup o => packReg 0x4C o.d o.a o.b 0
  | .minn o => packReg 0x0D o.d o.a o.b (hpBits o.hold o.pm)
  | .minnGroup o => packReg 0x4D o.d o.a o.b 0
  | .maxn o => packReg 0x0E o.d o.a o.b (hpBits o.hold o.pm)
  | .maxnGroup o => packReg 0x4E o.d o.a o.b 0
  | .sel o => packReg 0x0F o.d o.a o.b (hpBits o.hold o.pm)
  | .selGroup o => packReg 0x4F o.d o.a o.b 0
  | .ceq o => packReg 0x10 o.d o.a o.b (hpBits o.hold o.pm)
  | .ceqGroup o => packReg 0x50 o.d o.a o.b 0
  | .cne o => packReg 0x11 o.d o.a o.b (hpBits o.hold o.pm)
  | .cneGroup o => packReg 0x51 o.d o.a o.b 0
  | .clt o => packReg 0x12 o.d o.a o.b (hpBits o.hold o.pm)
  | .cltGroup o => packReg 0x52 o.d o.a o.b 0
  | .cle o => packReg 0x13 o.d o.a o.b (hpBits o.hold o.pm)
  | .cleGroup o => packReg 0x53 o.d o.a o.b 0
  | .cltn o => packReg 0x14 o.d o.a o.b (hpBits o.hold o.pm)
  | .cltnGroup o => packReg 0x54 o.d o.a o.b 0
  | .clen o => packReg 0x15 o.d o.a o.b (hpBits o.hold o.pm)
  | .clenGroup o => packReg 0x55 o.d o.a o.b 0
  | .mulh o => packReg 0x16 o.d o.a o.b 0
  | .mulhGroup o => packReg 0x56 o.d o.a o.b 0
  | .mulhn o => packReg 0x16 o.d o.a o.b 1
  | .mulhnGroup o => packReg 0x56 o.d o.a o.b 1
  | .adds o => packReg 0x16 o.d o.a o.b 2
  | .addsGroup o => packReg 0x56 o.d o.a o.b 2
  | .subs o => packReg 0x16 o.d o.a o.b 3
  | .subsGroup o => packReg 0x56 o.d o.a o.b 3
  | .rol o => packReg 0x16 o.d o.a o.b 4
  | .rolGroup o => packReg 0x56 o.d o.a o.b 4
  | .bfx o => packReg 0x16 o.d o.a o.b 5
  | .bfxGroup o => packReg 0x56 o.d o.a o.b 5
  | .bfxn o => packReg 0x16 o.d o.a o.b 6
  | .bfxnGroup o => packReg 0x56 o.d o.a o.b 6
  | .bfi o => packReg 0x16 o.d o.a o.b 7
  | .bfiGroup o => packReg 0x56 o.d o.a o.b 7
  | .divs o => packReg 0x16 o.d o.a o.b 8
  | .divsGroup o => packReg 0x56 o.d o.a o.b 8
  | .divn o => packReg 0x16 o.d o.a o.b 9
  | .divnGroup o => packReg 0x56 o.d o.a o.b 9
  | .orn o => packReg 0x16 o.d o.a o.b 10
  | .ornGroup o => packReg 0x56 o.d o.a o.b 10
  | .xnor o => packReg 0x16 o.d o.a o.b 11
  | .xnorGroup o => packReg 0x56 o.d o.a o.b 11
  | .mov o => packReg 0x17 o.d o.a 0 (hpBits o.hold o.pm)
  | .movGroup o => packReg 0x57 o.d o.a 0 0
  | .not o => packReg 0x17 o.d o.a 1 (hpBits o.hold o.pm)
  | .notGroup o => packReg 0x57 o.d o.a 1 0
  | .neg o => packReg 0x17 o.d o.a 2 (hpBits o.hold o.pm)
  | .negGroup o => packReg 0x57 o.d o.a 2 0
  | .abs o => packReg 0x17 o.d o.a 3 (hpBits o.hold o.pm)
  | .absGroup o => packReg 0x57 o.d o.a 3 0
  | .clz o => packReg 0x17 o.d o.a 4 (hpBits o.hold o.pm)
  | .clzGroup o => packReg 0x57 o.d o.a 4 0
  | .ctz o => packReg 0x17 o.d o.a 5 (hpBits o.hold o.pm)
  | .ctzGroup o => packReg 0x57 o.d o.a 5 0
  | .popc o => packReg 0x17 o.d o.a 6 (hpBits o.hold o.pm)
  | .popcGroup o => packReg 0x57 o.d o.a 6 0
  | .brev o => packReg 0x17 o.d o.a 7 (hpBits o.hold o.pm)
  | .brevGroup o => packReg 0x57 o.d o.a 7 0
  | .bswap o => packReg 0x17 o.d o.a 8 (hpBits o.hold o.pm)
  | .bswapGroup o => packReg 0x57 o.d o.a 8 0
  | .sextb o => packReg 0x17 o.d o.a 9 (hpBits o.hold o.pm)
  | .sextbGroup o => packReg 0x57 o.d o.a 9 0
  | .sexth o => packReg 0x17 o.d o.a 10 (hpBits o.hold o.pm)
  | .sexthGroup o => packReg 0x57 o.d o.a 10 0
  | .zextb o => packReg 0x17 o.d o.a 11 (hpBits o.hold o.pm)
  | .zextbGroup o => packReg 0x57 o.d o.a 11 0
  | .zexth o => packReg 0x17 o.d o.a 12 (hpBits o.hold o.pm)
  | .zexthGroup o => packReg 0x57 o.d o.a 12 0
  | .addi o => packImm 0x18 o.d o.a o.imm o.pm.bits
  | .addiGroup o => packImm 0x58 o.d o.a o.imm 0
  | .andi o => packImm 0x19 o.d o.a o.imm o.pm.bits
  | .andiGroup o => packImm 0x59 o.d o.a o.imm 0
  | .ori o => packImm 0x1A o.d o.a o.imm o.pm.bits
  | .oriGroup o => packImm 0x5A o.d o.a o.imm 0
  | .xori o => packImm 0x1B o.d o.a o.imm o.pm.bits
  | .xoriGroup o => packImm 0x5B o.d o.a o.imm 0
  | .shli o => packImm 0x1C o.d o.a (shiftBits 0 o.amount) o.pm.bits
  | .shliGroup o => packImm 0x5C o.d o.a (shiftBits 0 o.amount) 0
  | .shri o => packImm 0x1C o.d o.a (shiftBits 1 o.amount) o.pm.bits
  | .shriGroup o => packImm 0x5C o.d o.a (shiftBits 1 o.amount) 0
  | .srai o => packImm 0x1C o.d o.a (shiftBits 2 o.amount) o.pm.bits
  | .sraiGroup o => packImm 0x5C o.d o.a (shiftBits 2 o.amount) 0
  | .roli o => packImm 0x1C o.d o.a (shiftBits 3 o.amount) o.pm.bits
  | .roliGroup o => packImm 0x5C o.d o.a (shiftBits 3 o.amount) 0
  | .movi o => packImm16 0x1D o.d o.imm o.pm.bits
  | .moviGroup o => packImm16 0x5D o.d o.imm 0
  | .cmpiEq o => packImm 0x1E o.d o.a (cmpBits 0 o.imm) o.pm.bits
  | .cmpiEqGroup o => packImm 0x5E o.d o.a (cmpBits 0 o.imm) 0
  | .cmpiNe o => packImm 0x1E o.d o.a (cmpBits 1 o.imm) o.pm.bits
  | .cmpiNeGroup o => packImm 0x5E o.d o.a (cmpBits 1 o.imm) 0
  | .cmpiLt o => packImm 0x1E o.d o.a (cmpBits 2 o.imm) o.pm.bits
  | .cmpiLtGroup o => packImm 0x5E o.d o.a (cmpBits 2 o.imm) 0
  | .cmpiLe o => packImm 0x1E o.d o.a (cmpBits 3 o.imm) o.pm.bits
  | .cmpiLeGroup o => packImm 0x5E o.d o.a (cmpBits 3 o.imm) 0
  | .cmpiLtn o => packImm 0x1E o.d o.a (cmpBits 4 o.imm) o.pm.bits
  | .cmpiLtnGroup o => packImm 0x5E o.d o.a (cmpBits 4 o.imm) 0
  | .cmpiLen o => packImm 0x1E o.d o.a (cmpBits 5 o.imm) o.pm.bits
  | .cmpiLenGroup o => packImm 0x5E o.d o.a (cmpBits 5 o.imm) 0
  | .fadd o => packReg 0x1F o.d o.a o.b (hpBits o.hold o.pm)
  | .faddGroup o => packReg 0x5F o.d o.a o.b 0
  | .fsub o => packReg 0x20 o.d o.a o.b (hpBits o.hold o.pm)
  | .fsubGroup o => packReg 0x60 o.d o.a o.b 0
  | .fmul o => packReg 0x21 o.d o.a o.b (hpBits o.hold o.pm)
  | .fmulGroup o => packReg 0x61 o.d o.a o.b 0
  | .ffma o => packReg 0x22 o.d o.a o.b (hpBits o.hold o.pm)
  | .ffmaGroup o => packReg 0x62 o.d o.a o.b 0
  | .fmin o => packReg 0x23 o.d o.a o.b (hpBits o.hold o.pm)
  | .fminGroup o => packReg 0x63 o.d o.a o.b 0
  | .fmax o => packReg 0x24 o.d o.a o.b (hpBits o.hold o.pm)
  | .fmaxGroup o => packReg 0x64 o.d o.a o.b 0
  | .fdiv o => packReg 0x27 o.d o.a o.b (hpBits o.hold o.pm)
  | .fdivGroup o => packReg 0x67 o.d o.a o.b 0
  | .fcmpEq o => packReg 0x25 o.d o.a o.b 0
  | .fcmpEqGroup o => packReg 0x65 o.d o.a o.b 0
  | .fcmpNe o => packReg 0x25 o.d o.a o.b 1
  | .fcmpNeGroup o => packReg 0x65 o.d o.a o.b 1
  | .fcmpLt o => packReg 0x25 o.d o.a o.b 2
  | .fcmpLtGroup o => packReg 0x65 o.d o.a o.b 2
  | .fcmpLe o => packReg 0x25 o.d o.a o.b 3
  | .fcmpLeGroup o => packReg 0x65 o.d o.a o.b 3
  | .fcmpGt o => packReg 0x25 o.d o.a o.b 4
  | .fcmpGtGroup o => packReg 0x65 o.d o.a o.b 4
  | .fcmpGe o => packReg 0x25 o.d o.a o.b 5
  | .fcmpGeGroup o => packReg 0x65 o.d o.a o.b 5
  | .fcmpUo o => packReg 0x25 o.d o.a o.b 6
  | .fcmpUoGroup o => packReg 0x65 o.d o.a o.b 6
  | .fcmpOr o => packReg 0x25 o.d o.a o.b 7
  | .fcmpOrGroup o => packReg 0x65 o.d o.a o.b 7
  | .fabs o => packReg 0x26 o.d o.a 0 (hpBits o.hold o.pm)
  | .fabsGroup o => packReg 0x66 o.d o.a 0 0
  | .fneg o => packReg 0x26 o.d o.a 1 (hpBits o.hold o.pm)
  | .fnegGroup o => packReg 0x66 o.d o.a 1 0
  | .fcps o => packReg 0x26 o.d o.a 2 (hpBits o.hold o.pm)
  | .fcpsGroup o => packReg 0x66 o.d o.a 2 0
  | .frcp o => packReg 0x26 o.d o.a 3 (hpBits o.hold o.pm)
  | .frcpGroup o => packReg 0x66 o.d o.a 3 0
  | .frsq o => packReg 0x26 o.d o.a 4 (hpBits o.hold o.pm)
  | .frsqGroup o => packReg 0x66 o.d o.a 4 0
  | .fsqrt o => packReg 0x26 o.d o.a 5 (hpBits o.hold o.pm)
  | .fsqrtGroup o => packReg 0x66 o.d o.a 5 0
  | .fexp2 o => packReg 0x26 o.d o.a 6 (hpBits o.hold o.pm)
  | .fexp2Group o => packReg 0x66 o.d o.a 6 0
  | .flog2 o => packReg 0x26 o.d o.a 7 (hpBits o.hold o.pm)
  | .flog2Group o => packReg 0x66 o.d o.a 7 0
  | .frndn o => packReg 0x26 o.d o.a 8 (hpBits o.hold o.pm)
  | .frndnGroup o => packReg 0x66 o.d o.a 8 0
  | .frndz o => packReg 0x26 o.d o.a 9 (hpBits o.hold o.pm)
  | .frndzGroup o => packReg 0x66 o.d o.a 9 0
  | .frndp o => packReg 0x26 o.d o.a 10 (hpBits o.hold o.pm)
  | .frndpGroup o => packReg 0x66 o.d o.a 10 0
  | .frndm o => packReg 0x26 o.d o.a 11 (hpBits o.hold o.pm)
  | .frndmGroup o => packReg 0x66 o.d o.a 11 0
  | .fclass o => packReg 0x26 o.d o.a 12 (hpBits o.hold o.pm)
  | .fclassGroup o => packReg 0x66 o.d o.a 12 0
  | .cvt o => packReg 0x28 o.d o.a (cvtBits o.src o.dst.bits) (hpBits o.hold o.pm)
  | .cvtBs8 o => packReg 0x28 o.d o.a (cvtBits o.src 11) (hpBits o.hold o.pm)
  | .cvtBs4 o => packReg 0x28 o.d o.a (cvtBits o.src 12) (hpBits o.hold o.pm)
  | .cvtGroup o => packReg 0x68 o.d o.a (cvtBits o.src o.dst.bits) 0
  | .h2add o => packReg 0x29 o.d o.a o.b 0
  | .h2sub o => packReg 0x29 o.d o.a o.b 1
  | .h2mul o => packReg 0x29 o.d o.a o.b 2
  | .h2fma o => packReg 0x29 o.d o.a o.b 3
  | .h2min o => packReg 0x29 o.d o.a o.b 4
  | .h2max o => packReg 0x29 o.d o.a o.b 5
  | .shflIdx o => packReg 0x2A o.d o.a o.b 0
  | .shflUp o => packReg 0x2A o.d o.a (shflBits o.keep o.c) 1
  | .shflDn o => packReg 0x2A o.d o.a (shflBits o.keep o.c) 2
  | .shflXor o => packReg 0x2A o.d o.a (shflBits false o.c) 3
  | .bcast o => packReg 0x2B o.d o.a o.b 0
  | .vext o => packReg 0x2B o.d o.a o.b 1
  | .vins o => packReg 0x2B o.d o.a o.b 2
  | .msk o => packReg 0x2B o.d o.a 0 3
  | .unmsk o => packReg 0x2B o.d o.a 0 4
  | .vmovx o => packReg 0x2B o.d o.a o.b 5
  | .vmovxw o => packReg 0x2B o.d o.a o.b 6
  | .prmt o => packReg 0x2C o.d o.a o.b (hpBits o.hold o.pm)
  | .ddx o => packReg 0x2D o.d o.a 0 (hpBits o.hold o.pm)
  | .ddy o => packReg 0x2D o.d o.a 1 (hpBits o.hold o.pm)
  | .ddxc o => packReg 0x2D o.d o.a 2 (hpBits o.hold o.pm)
  | .ddyc o => packReg 0x2D o.d o.a 3 (hpBits o.hold o.pm)
  | .nbrget o => packReg 0x2D o.d 0 4 (hpBits .none o.pm)
  | .nbrset o => packReg 0x2D 0 o.a 5 (hpBits o.hold o.pm)
  | .ld o => packMem 0x2E o.d o.a o.sz.bits o.off o.la
  | .st o => packMem 0x2F o.d o.a o.sz.bits o.off o.la
  | .lds o => packMem 0x30 o.d o.a o.sz.bits o.off o.la
  | .sts o => packMem 0x31 o.d o.a o.sz.bits o.off o.la
  | .ldf o => packReg 0x32 o.d o.a (tagBits o.bs 0) o.la
  | .ldc o => packReg 0x32 o.d o.a (tagBits o.bs 1) o.la
  | .stp o => packReg 0x32 o.d o.a (tagBits o.bs 2) o.la
  | .stf o => packReg 0x32 o.d o.a (tagBits o.bs 3) o.la
  | .sete o => packReg 0x32 0 o.a (tagBits o.bs 4) o.la
  | .tagq o => packReg 0x32 o.d o.a (tagBits o.bs 5) o.la
  | .atomAdd o => packReg 0x33 o.d o.a o.b 0
  | .atomAnd o => packReg 0x33 o.d o.a o.b 1
  | .atomOr o => packReg 0x33 o.d o.a o.b 2
  | .atomXor o => packReg 0x33 o.d o.a o.b 3
  | .atomMin o => packReg 0x33 o.d o.a o.b 4
  | .atomMax o => packReg 0x33 o.d o.a o.b 5
  | .atomMinn o => packReg 0x33 o.d o.a o.b 6
  | .atomMaxn o => packReg 0x33 o.d o.a o.b 7
  | .atomXchg o => packReg 0x33 o.d o.a o.b 8
  | .atomCas o => packReg 0x33 o.d o.a o.b 9
  | .atomFadd o => packReg 0x33 o.d o.a o.b 10
  | .atomFmin o => packReg 0x33 o.d o.a o.b 11
  | .atomFmax o => packReg 0x33 o.d o.a o.b 12
  | .atomInc o => packReg 0x33 o.d o.a o.b 13
  | .redAdd o => packReg 0x34 0 o.a o.b 0
  | .redAnd o => packReg 0x34 0 o.a o.b 1
  | .redOr o => packReg 0x34 0 o.a o.b 2
  | .redXor o => packReg 0x34 0 o.a o.b 3
  | .redMin o => packReg 0x34 0 o.a o.b 4
  | .redMax o => packReg 0x34 0 o.a o.b 5
  | .redMinn o => packReg 0x34 0 o.a o.b 6
  | .redMaxn o => packReg 0x34 0 o.a o.b 7
  | .redFadd o => packReg 0x34 0 o.a o.b 10
  | .redFmin o => packReg 0x34 0 o.a o.b 11
  | .redFmax o => packReg 0x34 0 o.a o.b 12
  | .redInc o => packReg 0x34 0 o.a o.b 13
  | .ldt o => packMem 0x35 o.d o.a o.sz.bits o.off o.la
  | .stt o => packMem 0x36 o.d o.a o.sz.bits o.off o.la
  | .mma o => packReg 0x37 o.d o.a o.b o.la
  | .mmaz o => packReg 0x38 o.d o.a o.b o.la
  | .reorder o => packReg 0x39 o.d o.a o.id o.la
  | .tex o => packReg 0x3A o.d o.a o.b o.la
  | .emitp o => packReg 0x3B o.d o.a 0 o.la
  | .texq o => packReg 0x3B o.d o.a 1 o.la
  | .rshade o => packReg 0x3B o.d o.a 2 o.la
  | .waitvEq o => packReg 0x3C o.d o.a o.b 0
  | .waitvNe o => packReg 0x3C o.d o.a o.b 1
  | .waitvGen o => packReg 0x3C o.d o.a o.b 2
  | .waitvGtn o => packReg 0x3C o.d o.a o.b 3
  | .pf o => packMem 0x3D 0 o.a 0 o.off o.la
  | .bra off => packBra 0x69 0 off
  | .brz o => packBra 0x6A o.c o.off
  | .brnz o => packBra 0x6B o.c o.off
  | .call o => packBra 0x6C o.c o.off
  | .jmpx r => packBra 0x6D r 0
  | .split o => packBra 0x6E o.c o.off
  | .fuse => packBra 0x6F 0 0
  | .setf r => packReg 0x70 0 r 0 0
  | .getf r => packReg 0x70 r 0 1 0
  | .setc r => packReg 0x70 0 r 2 0
  | .getc r => packReg 0x70 r 0 3 0
  | .setpri r => packReg 0x70 0 r 4 0
  | .yield => packReg 0x70 0 0 5 0
  | .exit => packReg 0x70 0 0 6 0
  | .region => packReg 0x70 0 0 7 0
  | .cont r => packReg 0x70 0 r 8 0
  | .resume r => packReg 0x70 0 r 9 0
  | .srd o => packReg 0x70 o.d o.n 10 0
  | .swr o => packReg 0x70 o.n o.a 11 0
  | .trap imm => packTrap 0x70 imm 12
  | .eret => packReg 0x70 0 0 13 0
  | .bkpt => packReg 0x70 0 0 14 0
  | .nop => packReg 0x70 0 0 15 0
  | .tlbiPage r => packReg 0x70 0 r 16 0
  | .tlbiCtx => packReg 0x70 1 0 16 0
  | .time r => packReg 0x70 r 0 17 0
  | .twait r => packReg 0x70 0 r 18 0
  | .sld o => packMem 0x71 o.d o.a o.sz.bits o.off o.la
  | .sst o => packMem 0x72 o.d o.a o.sz.bits o.off o.la
  | .satomAdd o => packReg 0x73 o.d o.a o.b 0
  | .satomAnd o => packReg 0x73 o.d o.a o.b 1
  | .satomOr o => packReg 0x73 o.d o.a o.b 2
  | .satomXor o => packReg 0x73 o.d o.a o.b 3
  | .satomMin o => packReg 0x73 o.d o.a o.b 4
  | .satomMax o => packReg 0x73 o.d o.a o.b 5
  | .satomMinn o => packReg 0x73 o.d o.a o.b 6
  | .satomMaxn o => packReg 0x73 o.d o.a o.b 7
  | .satomXchg o => packReg 0x73 o.d o.a o.b 8
  | .satomCas o => packReg 0x73 o.d o.a o.b 9
  | .satomFadd o => packReg 0x73 o.d o.a o.b 10
  | .satomFmin o => packReg 0x73 o.d o.a o.b 11
  | .satomFmax o => packReg 0x73 o.d o.a o.b 12
  | .satomInc o => packReg 0x73 o.d o.a o.b 13
  | .fenceAcq scope => packReg 0x74 0 0 (fenceBits scope 0) 0
  | .fenceRel scope => packReg 0x74 0 0 (fenceBits scope 1) 0
  | .fenceAr scope => packReg 0x74 0 0 (fenceBits scope 2) 0
  | .clean o => packReg 0x75 o.d o.a 0 o.la
  | .inv o => packReg 0x75 o.d o.a 1 o.la
  | .clinv o => packReg 0x75 o.d o.a 2 o.la
  | .copy o => packReg 0x76 o.d o.a 0 o.la
  | .gather o => packReg 0x76 o.d o.a 1 o.la
  | .scatter o => packReg 0x76 o.d o.a 2 o.la
  | .eqry o => packReg 0x76 o.d o.a 3 o.la
  | .rarith o => packReg 0x76 o.d o.a 4 o.la
  | .coll o => packReg 0x76 o.d o.a 5 o.la
  | .cstat o => packReg 0x76 o.d o.a 6 o.la
  | .wsend o => packReg 0x76 o.d o.a 7 o.la
  | .wsig o => packReg 0x76 o.d o.a 8 o.la
  | .binit o => packReg 0x77 o.d o.a 0 o.la
  | .arrive o => packReg 0x77 o.d o.a 1 o.la
  | .arrivex o => packReg 0x77 o.d o.a 2 o.la
  | .bwait o => packReg 0x77 o.d o.a 3 o.la
  | .seqtake o => packReg 0x78 o.d o.a 0 o.la
  | .enter o => packReg 0x78 o.d o.a 1 o.la
  | .leave o => packReg 0x78 0 o.a 2 o.la
  | .leaveEnd o => packReg 0x78 0 o.a 3 o.la
  | .abandon o => packReg 0x78 0 o.a 4 o.la
  | .sectq o => packReg 0x78 o.d o.a 5 o.la
  | .launch o => packReg 0x79 o.d o.a 0 o.la
  | .lqry o => packReg 0x79 o.d o.a 1 o.la
  | .swaitvEq o => packReg 0x7B o.d o.a o.b 0
  | .swaitvNe o => packReg 0x7B o.d o.a o.b 1
  | .swaitvGen o => packReg 0x7B o.d o.a o.b 2
  | .swaitvGtn o => packReg 0x7B o.d o.a o.b 3
  | .hintWideImmediate payload => packHint 0 payload
  | .hintModifiers o => packHint 1 o.bits
  | .hintScheduling o => packHint 2 o.bits
  | .asyncFaultDelivery _ => 0
  | .lateNotice _ _ => 0
  | .loadResponse _ _ => 0
  | .atomicReply _ _ => 0
  | .mmaResult _ _ => 0
  | .reorderCompletion _ _ _ => 0
  | .accessTimeout _ _ => 0
  | .swellMoveOut _ => 0
  | .swellMoveIn _ => 0
  | .forcedDisplacement _ => 0
  | .compaction _ => 0
  | .swellEviction _ => 0
  | .swellResume _ _ _ _ => 0
  | .tagWaiterService _ _ => 0
  | .valueWaitArm _ _ => 0
  | .homeWrite _ => 0
  | .l1WritebackDeadline _ _ => 0
  | .sliceMissFill _ _ _ => 0
  | .cohReadRequest _ _ => 0
  | .cohOwnershipRequest _ _ => 0
  | .cohRecall _ _ _ => 0
  | .rosReplicaFill _ _ _ => 0
  | .replicaFree _ _ => 0
  | .walkCompletion _ _ _ => 0
  | .faultServiceRequest _ _ _ _ _ => 0
  | .faultAnswer _ _ => 0
  | .priPageRequest _ _ _ _ => 0
  | .timedLaneArrival _ => 0
  | .tideTick _ _ => 0
  | .twaitExpiry _ => 0
  | .shelfRefreshEnd _ _ => 0
  | .shelfBankRetire _ _ => 0
  | .slabRunRise _ _ => 0
  | .slabRegisterWrite _ _ _ => 0
  | .sliceConfigWrite _ _ _ => 0
  | .coreErrorRecordWrite _ _ => 0
  | .enterRequest _ => 0
  | .leaveRequest _ _ => 0
  | .seqtakeRequest _ => 0
  | .sectqRequest _ => 0
  | .sectionGrantReply _ _ => 0
  | .sectionTimeoutScan _ => 0
  | .sluiceReload _ _ _ => 0
  | .sluiceDieReplace _ _ _ => 0
  | .engineStep _ _ => 0
  | .taskStart _ _ => 0
  | .stealRequest _ _ => 0
  | .stealRetry _ _ => 0
  | .tcbShipment _ _ _ => 0
  | .dispatcherRefill _ _ => 0
  | .launchCompletion _ => 0
  | .primitivePacket _ _ _ => 0
  | .endOfGroupMarker _ _ _ => 0
  | .tileShadeStart _ _ _ => 0
  | .blendSwellsStart _ _ _ => 0
  | .mailboxWrite _ _ _ => 0
  | .contextCreate _ => 0
  | .contextSuspend _ => 0
  | .contextResume _ => 0
  | .contextTeardown _ => 0
  | .contextFree _ => 0
  | .apertureWrite _ _ _ => 0
  | .registerWrite _ _ _ _ => 0
  | .putArrival _ => 0
  | .putAcknowledgement _ _ => 0
  | .putLinkTimeout _ => 0
  | .collectiveExchange _ _ _ => 0
  | .linkStallSpill _ _ _ => 0
  | .linkSpillDrain _ _ _ => 0
  | .syncTimer _ => 0
  | .sync _ _ => 0
  | .followUp _ _ => 0
  | .pdelayReqTimer _ => 0
  | .pdelayReq _ _ => 0
  | .pdelayResp _ _ _ _ => 0
  | .lockLossTimeout _ => 0
  | .timeSourceFail => 0
  | .tdiscWrite _ _ => 0
  | .atimeBootSet _ => 0
  | .leadRoleMove => 0
  | .powerEmergency _ _ => 0
  | .meterUpdate _ => 0
  | .suspectCoreService _ => 0
  | .coreSelfTest _ _ => 0
  | .enumeration => 0
  | .routeTableCompute => 0
  | .firmwareMeasure _ _ _ => 0
  | .getMeasurements _ => 0
  | .powerStateEntry => 0
  | .powerStateWake => 0
  | .hbmChannelSpare _ _ => 0
  | .firmwareUpdate _ _ => 0
  | .moduleHotSwap _ _ => 0
  | .nonInstructionWord w => w
  | .priPageResponse _ _ _ => 0
  | .atsTranslationCompletion _ _ _ => 0
  | .ppsInput _ => 0
  | .ptpPortMessage _ => 0
  | .plockBroadcast => 0
  | .powerEmergencyEnd _ => 0
  | .hostPortLinkChange _ _ => 0
  | .shoreLinkLiveChange _ _ => 0
  | .dieRetirement _ _ => 0
  | .boot _ => 0

/-- The instruction this decoder reads from a table word (one 32-bit word, stored little-endian, R64). -/
def decodeTableWord (_nbits w : Nat) : Option Instr :=
  match decode (BitVec.ofNat 32 w) with
  | .ok i => some i
  | .error _ => none

end

end Sys2Proof
end

