-- ==== Sys2Proof/Machine/Operands.lean ====
section
/-! DEFINITION. Operand values and integer results: the immediates of R75, the results of the integer chapter (R99 to R112), PRMT and the byte-order helpers. Pure functions of words. -/

namespace Sys2Proof.Machine

/-- All ones when true, zero when false: the result of a compare (R100). -/
def boolWord (b : Bool) : Word := if b then 0xFFFFFFFF else 0

/-- A 64-bit value from a pair: low word first (R3). -/
def pairVal (lo hi : Word) : Addr := hi ++ lo

/-- Bits 31:0 of a 64-bit value. -/
def loWord (v : Addr) : Word := v.setWidth 32

/-- Bits 63:32 of a 64-bit value. -/
def hiWord (v : Addr) : Word := v.extractLsb' 32 32

/-- SHL by the whole value of B (R101): `<<<` by 32 or more gives 0. -/
def shl (a b : Word) : Word := a <<< b.toNat

/-- SHR by the whole value of B (R101). -/
def shr (a b : Word) : Word := a >>> b.toNat

/-- SRA with the count capped at 31 (R101). -/
def sra (a b : Word) : Word := a.sshiftRight (Nat.min b.toNat 31)

/-- Signed minimum (R100): A where sa ≤ sb. -/
def smin (a b : Word) : Word := if a.sle b then a else b
/-- Signed maximum: A where sa ≥ sb. -/
def smax (a b : Word) : Word := if b.sle a then a else b
/-- Natural minimum. -/
def nmin (a b : Word) : Word := if a.ule b then a else b
/-- Natural maximum. -/
def nmax (a b : Word) : Word := if b.ule a then a else b

/-- SEL (R100): a bit of A where D has a 1, of B where it has a 0. -/
def selBits (d a b : Word) : Word := (a &&& d) ||| (b &&& ~~~d)

/-- High word of the signed product (R104). -/
def mulh (a b : Word) : Word := (a.signExtend 64 * b.signExtend 64).extractLsb' 32 32

/-- High word of the natural product (R104). -/
def mulhn (a b : Word) : Word := (a.setWidth 64 * b.setWidth 64).extractLsb' 32 32

/-- An integer saturated to lo to hi. -/
def clampInt (lo hi x : Int) : Int := if x < lo then lo else if hi < x then hi else x

/-- ADDS (R104). -/
def adds (a b : Word) : Word := BitVec.ofInt 32 (clampInt (-2147483648) 2147483647 (a.toInt + b.toInt))

/-- SUBS (R104). -/
def subs (a b : Word) : Word := BitVec.ofInt 32 (clampInt (-2147483648) 2147483647 (a.toInt - b.toInt))

/-- ROL by B mod 32 (R104). -/
def rol (a b : Word) : Word := a.rotateLeft (b.toNat % 32)

/-- Position of a bit field: B[4:0] (R105). -/
def fieldPos (b : Word) : Nat := b.toNat % 32

/-- Width of a bit field: B[13:8], cut at bit 31 (R105). -/
def fieldWidth (b : Word) : Nat := Nat.min (b.extractLsb' 8 6).toNat (32 - fieldPos b)

/-- BFXN: the natural field (R105). -/
def bfxn (a b : Word) : Word := BitVec.ofNat 32 (a.toNat / 2 ^ fieldPos b % 2 ^ fieldWidth b)

/-- BFX: the field read signed, 0 for width 0 (R105). -/
def bfx (a b : Word) : Word :=
  let w := fieldWidth b
  let field := a.toNat / 2 ^ fieldPos b % 2 ^ w
  if w = 0 then 0
  else if field < 2 ^ (w - 1) then BitVec.ofNat 32 field
  else BitVec.ofInt 32 ((field : Int) - 2 ^ w)

/-- BFI: the low bits of A inserted into D (R105). -/
def bfi (d a b : Word) : Word :=
  let mask := BitVec.ofNat 32 ((2 ^ fieldWidth b - 1) * 2 ^ fieldPos b)
  (d &&& ~~~mask) ||| BitVec.ofNat 32 (a.toNat % 2 ^ fieldWidth b * 2 ^ fieldPos b)

/-- DIVS (R106): quotient and remainder. -/
def divs (a b : Word) : Word × Word :=
  if b = 0 then (0xFFFFFFFF, a)
  else if a = 0x80000000 ∧ b = 0xFFFFFFFF then (0x80000000, 0)
  else (a.sdiv b, a.srem b)

/-- DIVN (R106): quotient and remainder. -/
def divn (a b : Word) : Word × Word :=
  if b = 0 then (0xFFFFFFFF, a) else (a / b, a % b)

/-- NEG, wrapping (R108). -/
def negWord (a : Word) : Word := -a

/-- ABS, wrapping (R108). -/
def absWord (a : Word) : Word := if a.msb then -a else a

/-- Number of leading zeros of the low n bits: 32 for 0 (R108, CLZ). -/
def clzNat (a : Word) : Nat → Nat
  | 0 => 0
  | n + 1 => if a.getLsbD n then 0 else 1 + clzNat a n

/-- CLZ (R108). -/
def clz (a : Word) : Word := BitVec.ofNat 32 (clzNat a 32)

/-- Number of trailing zeros counted from bit i over n bits (R108, CTZ). -/
def ctzNat (a : Word) (i : Nat) : Nat → Nat
  | 0 => 0
  | n + 1 => if a.getLsbD i then 0 else 1 + ctzNat a (i + 1) n

/-- CTZ (R108). -/
def ctz (a : Word) : Word := BitVec.ofNat 32 (ctzNat a 0 32)

/-- Number of one bits below bit n. -/
def popNat (a : Word) : Nat → Nat
  | 0 => 0
  | n + 1 => (if a.getLsbD n then 1 else 0) + popNat a n

/-- POPC (R108). -/
def popc (a : Word) : Word := BitVec.ofNat 32 (popNat a 32)

/-- BREV (R108): bit i of the result is bit 31 − i of A. -/
def brev (a : Word) : Word := a.reverse

/-- Byte i of a word. -/
def byteOf (a : Word) (i : Nat) : Byte := a.extractLsb' (8 * i) 8

/-- A word from its four bytes, byte 0 lowest (R3). -/
def wordOfBytes (b0 b1 b2 b3 : Byte) : Word := b3 ++ b2 ++ b1 ++ b0

/-- BSWAP (R108). -/
def bswap (a : Word) : Word := wordOfBytes (byteOf a 3) (byteOf a 2) (byteOf a 1) (byteOf a 0)

/-- SEXTB (R108). -/
def sextb (a : Word) : Word := (a.setWidth 8).signExtend 32
/-- SEXTH. -/
def sexth (a : Word) : Word := (a.setWidth 16).signExtend 32
/-- ZEXTB. -/
def zextb (a : Word) : Word := (a.setWidth 8).setWidth 32
/-- ZEXTH. -/
def zexth (a : Word) : Word := (a.setWidth 16).setWidth 32

/-- The immediate of ADDI, ANDI, ORI, XORI (R75): nine bits, or 32 with a wide-immediate HINT. -/
def imm9 (i : BitVec 9) (wide : Option (BitVec 23)) : Word :=
  match wide with
  | none => i.signExtend 32
  | some p => p ++ i

/-- The immediate of MOVI (R75). -/
def imm16 (i : BitVec 16) (wide : Option (BitVec 23)) : Word :=
  match wide with
  | none => i.signExtend 32
  | some p => p.setWidth 16 ++ i

/-- The immediate of a signed CMPI condition (R75). -/
def immCmpS (i : BitVec 6) (wide : Option (BitVec 23)) : Word :=
  match wide with
  | none => i.signExtend 32
  | some p => (p ++ i).signExtend 32

/-- The immediate of a natural CMPI condition (R75). -/
def immCmpN (i : BitVec 6) (wide : Option (BitVec 23)) : Word :=
  match wide with
  | none => i.setWidth 32
  | some p => (p ++ i).setWidth 32

/-- The access size in bytes (R84). -/
def sizeBytes : MemSize → Nat
  | .s8 | .z8 => 1
  | .s16 | .z16 => 2
  | .w32 => 4
  | .w64 => 8
  | .w128 => 16

/-- The number of registers an access names (R84). -/
def sizeRegs : MemSize → Nat
  | .w64 => 2
  | .w128 => 4
  | .s8 | .z8 | .s16 | .z16 | .w32 => 1

/-- The byte offset of a MEM-format word (R75), sign-extended to 64 bits. -/
def memOffset (o : BitVec 4) (sz : Nat) (wide : Option (BitVec 23)) : Addr :=
  match wide with
  | none => o.signExtend 64 * BitVec.ofNat 64 sz
  | some p => (p ++ o).signExtend 64 * BitVec.ofNat 64 sz

/-- The branch offset in bytes, modulo 2^32 (R75). -/
def branchOffset (o : BitVec 18) (wide : Option (BitVec 23)) : Word :=
  match wide with
  | none => o.signExtend 32 * 4
  | some p => ((p ++ o).setWidth 32) * 4

/-- The bytes of a word, byte 0 first (R3). -/
def wordBytes (w : Word) : List Byte := [byteOf w 0, byteOf w 1, byteOf w 2, byteOf w 3]

/-- The natural value of bytes, byte 0 lowest (R3). -/
def natOfBytes : List Byte → Nat
  | [] => 0
  | b :: bs => b.toNat + 256 * natOfBytes bs

/-- n bytes of a natural number, byte 0 lowest. -/
def bytesOfNat (v : Nat) : Nat → List Byte
  | 0 => []
  | n + 1 => BitVec.ofNat 8 v :: bytesOfNat (v / 256) n

/-- A word from a list of bytes, little-endian. -/
def wordOfList (bs : List Byte) : Word := BitVec.ofNat 32 (natOfBytes bs)

/-- The words a load writes (R201): one for sizes to 4 bytes, extended as SZ says, two for .64, four for .128. -/
def loadWords (sz : MemSize) (bs : List Byte) : List Word :=
  match sz with
  | .s8 => [(BitVec.ofNat 8 (natOfBytes bs)).signExtend 32]
  | .s16 => [(BitVec.ofNat 16 (natOfBytes bs)).signExtend 32]
  | .z8 | .z16 | .w32 => [wordOfList bs]
  | .w64 => [wordOfList (bs.take 4), wordOfList (bs.drop 4)]
  | .w128 => [wordOfList (bs.take 4), wordOfList ((bs.drop 4).take 4), wordOfList ((bs.drop 8).take 4), wordOfList (bs.drop 12)]

/-- The bytes a store writes (R202), from its data words in register order. -/
def storeBytes (sz : MemSize) (ws : List Word) : List Byte :=
  (ws.flatMap wordBytes).take (sizeBytes sz)

/-- Reverse the bits of a byte (R140). -/
def revByte (b : Byte) : Byte := b.reverse

/-- One result byte of PRMT (R140): SEL, then FILL, then REV. -/
def prmtByte (a b : Word) (c : Byte) : Byte :=
  let sel := c.toNat % 8
  let v := if sel < 4 then byteOf a sel else byteOf b (sel - 4)
  let v := match c.toNat / 8 % 4 with
    | 0 => v
    | 1 => 0
    | 2 => if v.msb then 0xFF else 0
    | _ => 0xFF
  if c.getLsbD 5 then revByte v else v

/-- PRMT (R140). -/
def prmt (d a b : Word) : Word :=
  wordOfBytes (prmtByte a b (byteOf d 0)) (prmtByte a b (byteOf d 1)) (prmtByte a b (byteOf d 2)) (prmtByte a b (byteOf d 3))

end Sys2Proof.Machine
end

