-- ==== Sys2Proof/Machine/Flags.lean ====
section
/-! DEFINITION. The floating formats of R8 to R13, exact values, the one rounding finish of R17, the zero and special rules, and the SCFG flags each result raises (R19). -/

namespace Sys2Proof.Machine

/-- SCFG.NX, bit 1 (R19). -/
def flagNX : Word := 0x02
/-- SCFG.UF, bit 2. -/
def flagUF : Word := 0x04
/-- SCFG.OF, bit 3. -/
def flagOF : Word := 0x08
/-- SCFG.DZ, bit 4. -/
def flagDZ : Word := 0x10
/-- SCFG.NV, bit 5. -/
def flagNV : Word := 0x20

/-- A flag when a condition holds. -/
def flagIf (c : Bool) (f : Word) : Word := if c then f else 0

/-- The floating formats (R8), and binary64, which only the statistics of R428 use. -/
inductive FFmt where | fp32 | fp16 | bf16 | e4m3 | e5m2 | fp64
deriving DecidableEq, Repr

/-- Significant bits p (R17). -/
def FFmt.prec : FFmt → Nat
  | .fp32 => 24 | .fp16 => 11 | .bf16 => 8 | .e4m3 => 4 | .e5m2 => 3 | .fp64 => 53

/-- emin, the exponent of the smallest normal (R11, R17). -/
def FFmt.emin : FFmt → Int
  | .fp32 => -126 | .fp16 => -14 | .bf16 => -126 | .e4m3 => -6 | .e5m2 => -14 | .fp64 => -1022

/-- Exponent of the unit of the largest binade: the largest finite value is maxSig times 2 to this power (R11). -/
def FFmt.maxPos : FFmt → Int
  | .fp32 => 104 | .fp16 => 5 | .bf16 => 120 | .e4m3 => 5 | .e5m2 => 13 | .fp64 => 971

/-- Significand of the largest finite value; E4M3 ends at 1.110 (R10, R11). -/
def FFmt.maxSig : FFmt → Nat
  | .fp32 => 0xFFFFFF | .fp16 => 0x7FF | .bf16 => 0xFF | .e4m3 => 14 | .e5m2 => 7 | .fp64 => 0x1FFFFFFFFFFFFF

/-- Bits of the format's exponent field of all ones times 2^(p−1): infinity in the formats that have one (R9). -/
def FFmt.infBits : FFmt → Nat
  | .fp32 => 0x7F800000 | .fp16 => 0x7C00 | .bf16 => 0x7F80 | .e4m3 => 0x7F | .e5m2 => 0x7C | .fp64 => 0x7FF0000000000000

/-- Width of the format in bits. -/
def FFmt.width : FFmt → Nat
  | .fp32 => 32 | .fp16 => 16 | .bf16 => 16 | .e4m3 => 8 | .e5m2 => 8 | .fp64 => 64

/-- The canonical NaN (R11, R12). -/
def FFmt.nanBits : FFmt → Nat
  | .fp32 => 0x7FC00000 | .fp16 => 0x7E00 | .bf16 => 0x7FC0 | .e4m3 => 0x7F | .e5m2 => 0x7E | .fp64 => 0x7FF8000000000000

/-- The classes of a code point (R9, R10). A finite value is ±m · 2^e, zero when m is 0. -/
inductive FVal where
  | nan (signalling : Bool)
  | inf (neg : Bool)
  | fin (neg : Bool) (m : Nat) (e : Int)
deriving DecidableEq, Repr

/-- The value of a code point (R9, R10). E5M2 has quiet NaNs only. -/
def unpackF (f : FFmt) (bits : Nat) : FVal :=
  let fb := f.prec - 1
  let neg := bits / 2 ^ (f.width - 1) % 2 == 1
  let mag := bits % 2 ^ (f.width - 1)
  let ex := mag / 2 ^ fb
  let fr := mag % 2 ^ fb
  if f == .e4m3 && mag == 0x7F then .nan false
  else if f != .e4m3 && decide (f.infBits < mag) then .nan (f != .e5m2 && fr / 2 ^ (fb - 1) == 0)
  else if f != .e4m3 && mag == f.infBits then .inf neg
  else if ex = 0 then .fin neg fr (f.emin - fb)
  else .fin neg (2 ^ fb + fr) (f.emin - fb + (ex - 1))

/-- The rounding environment of an instruction: FMT.RM and FMT.SAT or their override, and FMT.FZ (R17). -/
structure FEnv where
  rm : Rm
  sat : Bool
  fz : Bool
deriving DecidableEq, Repr

/-- An exact non-zero real ±(m + t) · 2^e with t = 0, or with 0 < t < 1 when `sticky`. A sticky value carries at least two bits more than any format keeps. -/
structure XReal where
  neg : Bool
  m : Nat
  e : Int
  sticky : Bool
deriving DecidableEq, Repr

/-- Whether rounding adds one unit (R16): `half` compares the dropped part with one half, `inexact` says it is not zero. -/
def roundUp (rm : Rm) (neg odd inexact : Bool) (half : Ordering) : Bool :=
  match rm with
  | .rne => half == .gt || (half == .eq && odd)
  | .rtz => false
  | .rup => inexact && !neg
  | .rdn => inexact && neg

/-- Round |x| to a whole number of units 2^pos: the number of units, and whether it is inexact. -/
def roundAt (x : XReal) (pos : Int) (rm : Rm) : Nat × Bool :=
  if pos ≤ x.e then
    (x.m * 2 ^ (x.e - pos).toNat + (if roundUp rm x.neg false x.sticky .lt then 1 else 0), x.sticky)
  else
    let k := (pos - x.e).toNat
    let q := x.m / 2 ^ k
    let r := x.m % 2 ^ k
    let inexact := x.sticky || r != 0
    let half := match compare r (2 ^ (k - 1)) with
      | .eq => if x.sticky then .gt else .eq
      | o => o
    (q + (if roundUp rm x.neg (q % 2 == 1) inexact half then 1 else 0), inexact)

/-- The sign bit of a format. -/
def signBits (f : FFmt) (neg : Bool) : Nat := if neg then 2 ^ (f.width - 1) else 0

/-- ±MAX (R11): the bits of n units at pos are (pos − emin + p − 1) · 2^(p−1) + n. -/
def maxBits (f : FFmt) : Nat := (f.maxPos - f.emin + (f.prec - 1)).toNat * 2 ^ (f.prec - 1) + f.maxSig

/-- finish of R17: the bits of x rounded once to a format, and the flags. -/
def finish (f : FFmt) (env : FEnv) (x : XReal) : Nat × Word :=
  let p := f.prec
  let pos := x.e + x.m.log2 - (p - 1)
  let u := (roundAt x pos env.rm).1
  let s := signBits f x.neg
  if f.maxPos < pos ∨ (pos = f.maxPos ∧ f.maxSig < u) then
    let toMax := env.sat || env.rm == .rtz || (env.rm == .rup && x.neg) || (env.rm == .rdn && !x.neg)
    let bits := if toMax then s + maxBits f else if f == .e4m3 then f.nanBits else s + f.infBits
    (bits, flagOF ||| flagNX)
  else
    let pos' := if pos < f.emin - (p - 1) then f.emin - (p - 1) else pos
    let (n, inexact) := roundAt x pos' env.rm
    let tiny := decide (pos + p - 1 < f.emin) && !(u == 2 ^ p && pos + p == f.emin)
    if n != 0 && decide (n < 2 ^ (p - 1)) && env.fz then (s, flagUF ||| flagNX)
    else
      (s + (pos' - f.emin + (p - 1)).toNat * 2 ^ (p - 1) + n, flagIf inexact flagNX ||| flagIf (tiny && inexact) flagUF)

/-- One exact addend ±m · 2^e of a sum. -/
structure Term where
  neg : Bool
  m : Nat
  e : Int
deriving DecidableEq, Repr

/-- The least exponent of the terms. -/
def minExp : List Term → Int
  | [] => 0
  | [t] => t.e
  | t :: ts => min t.e (minExp ts)

/-- The signed value of a term in units of 2^e, for e at most its exponent. -/
def termAt (e : Int) (t : Term) : Int :=
  let v : Int := (t.m * 2 ^ (t.e - e).toNat : Nat)
  if t.neg then -v else v

/-- The exact sum of terms in units of 2^e. -/
def sumAt (e : Int) : List Term → Int
  | [] => 0
  | t :: ts => termAt e t + sumAt e ts

/-- The sign of an exact zero sum (R18): −0 when every addend is −0, else −0 under RDN, else +0. -/
def zeroSign (rm : Rm) (ts : List Term) : Bool :=
  ts.all (fun t => t.neg && t.m == 0) || rm == .rdn

/-- finish of an exact sum of finite terms, with zeros by R18. -/
def finishSum (f : FFmt) (env : FEnv) (ts : List Term) : Nat × Word :=
  let e := minExp ts
  let v := sumAt e ts
  if v = 0 then (signBits f (zeroSign env.rm ts), 0)
  else finish f env ⟨decide (v < 0), v.natAbs, e, false⟩

/-- A value is a NaN. -/
def FVal.isNan : FVal → Bool
  | .nan _ => true | .inf _ => false | .fin _ _ _ => false
/-- A value is a signalling NaN. -/
def FVal.isSnan : FVal → Bool
  | .nan s => s | .inf _ => false | .fin _ _ _ => false
/-- A value is an infinity. -/
def FVal.isInf : FVal → Bool
  | .nan _ => false | .inf _ => true | .fin _ _ _ => false
/-- A value is ±0. -/
def FVal.isZero : FVal → Bool
  | .nan _ => false | .inf _ => false | .fin _ m _ => m == 0
/-- The sign of a value that is no NaN. -/
def FVal.neg : FVal → Bool
  | .nan _ => false | .inf n => n | .fin n _ _ => n
/-- The value with its sign flipped. -/
def FVal.negate : FVal → FVal
  | .nan s => .nan s | .inf n => .inf !n | .fin n m e => .fin (!n) m e

/-- The canonical NaN with NV when a signalling operand is among those listed (R12). -/
def nanResult (f : FFmt) (ops : List FVal) : Nat × Word := (f.nanBits, flagIf (ops.any FVal.isSnan) flagNV)

/-- The canonical NaN of an invalid operation. -/
def invalidResult (f : FFmt) : Nat × Word := (f.nanBits, flagNV)

/-- ±∞ of a format that has infinities. -/
def infResult (f : FFmt) (neg : Bool) : Nat × Word := (signBits f neg + f.infBits, 0)

/-- a + b (R119, R120). -/
def addVal (f : FFmt) (env : FEnv) (a b : FVal) : Nat × Word :=
  match a, b with
  | .nan _, _ => nanResult f [a, b]
  | _, .nan _ => nanResult f [a, b]
  | .inf x, .inf y => if x = y then infResult f x else invalidResult f
  | .inf x, .fin _ _ _ => infResult f x
  | .fin _ _ _, .inf y => infResult f y
  | .fin n m e, .fin n' m' e' => finishSum f env [⟨n, m, e⟩, ⟨n', m', e'⟩]

/-- a · b (R119, R120). -/
def mulVal (f : FFmt) (env : FEnv) (a b : FVal) : Nat × Word :=
  match a, b with
  | .nan _, _ => nanResult f [a, b]
  | _, .nan _ => nanResult f [a, b]
  | .inf x, .inf y => infResult f (x != y)
  | .inf x, .fin n m _ => if m = 0 then invalidResult f else infResult f (x != n)
  | .fin n m _, .inf y => if m = 0 then invalidResult f else infResult f (n != y)
  | .fin n m e, .fin n' m' e' =>
    if m * m' = 0 then (signBits f (n != n'), 0) else finish f env ⟨n != n', m * m', e + e', false⟩

/-- a · b is ∞ · 0 (R120, R25). -/
def isInfTimesZero (a b : FVal) : Bool := (a.isInf && b.isZero) || (a.isZero && b.isInf)

/-- a · b + d with one rounding (R119, R120). -/
def fmaVal (f : FFmt) (env : FEnv) (a b d : FVal) : Nat × Word :=
  if a.isSnan || b.isSnan || d.isSnan || isInfTimesZero a b then invalidResult f
  else if a.isNan || b.isNan || d.isNan then (f.nanBits, 0)
  else
    match a, b, d with
    | .fin n m e, .fin n' m' e', .fin n'' m'' e'' => finishSum f env [⟨n != n', m * m', e + e'⟩, ⟨n'', m'', e''⟩]
    | .fin _ _ _, .fin _ _ _, d => infResult f d.neg
    | a, b, .inf s => if (a.neg != b.neg) = s then infResult f s else invalidResult f
    | a, b, _ => infResult f (a.neg != b.neg)

/-- The quotient of two non-zero magnitudes with 64 extra bits, its remainder in the sticky bit. -/
def divX (neg : Bool) (m : Nat) (e : Int) (m' : Nat) (e' : Int) : XReal :=
  ⟨neg, m * 2 ^ 64 / m', e - e' - 64, m * 2 ^ 64 % m' != 0⟩

/-- a / b (R119, R120). -/
def divVal (f : FFmt) (env : FEnv) (a b : FVal) : Nat × Word :=
  match a, b with
  | .nan _, _ => nanResult f [a, b]
  | _, .nan _ => nanResult f [a, b]
  | .inf _, .inf _ => invalidResult f
  | .inf x, .fin n _ _ => infResult f (x != n)
  | .fin n _ _, .inf y => (signBits f (n != y), 0)
  | .fin n m e, .fin n' m' e' =>
    if m' = 0 then (if m = 0 then invalidResult f else (signBits f (n != n') + f.infBits, flagDZ))
    else if m = 0 then (signBits f (n != n'), 0)
    else finish f env (divX (n != n') m e m' e')

/-- An FP32 word and its flags from bits. -/
def wordOf (r : Nat × Word) : Word × Word := (BitVec.ofNat 32 r.1, r.2)

/-- The value of an FP32 word. -/
def fp32 (a : Word) : FVal := unpackF .fp32 a.toNat

/-- FADD (R119). -/
def fadd (env : FEnv) (a b : Word) : Word × Word := wordOf (addVal .fp32 env (fp32 a) (fp32 b))
/-- FSUB: b is negated before any sign rule (R119). -/
def fsub (env : FEnv) (a b : Word) : Word × Word := wordOf (addVal .fp32 env (fp32 a) (fp32 b).negate)
/-- FMUL. -/
def fmul (env : FEnv) (a b : Word) : Word × Word := wordOf (mulVal .fp32 env (fp32 a) (fp32 b))
/-- FFMA. -/
def ffma (env : FEnv) (d a b : Word) : Word × Word := wordOf (fmaVal .fp32 env (fp32 a) (fp32 b) (fp32 d))
/-- FDIV. -/
def fdiv (env : FEnv) (a b : Word) : Word × Word := wordOf (divVal .fp32 env (fp32 a) (fp32 b))

/-- The order of two values that are no NaN, with ±0 equal. Infinity is compared through a magnitude above every finite one. -/
def cmpVal (a b : FVal) : Ordering :=
  match a, b with
  | .inf x, .inf y => if x = y then .eq else if x then .lt else .gt
  | .inf x, _ => if x then .lt else .gt
  | _, .inf y => if y then .gt else .lt
  | .fin n m e, .fin n' m' e' =>
    let k := min e e'
    compare (termAt k ⟨n, m, e⟩) (termAt k ⟨n', m', e'⟩)
  | .nan _, _ => .eq
  | _, .nan _ => .eq

/-- a < b with −0 below +0 (R121). -/
def ltSigned (a b : FVal) : Bool :=
  match cmpVal a b with
  | .lt => true
  | .gt => false
  | .eq => a.isZero && b.isZero && a.neg && !b.neg

/-- FMIN in a format: the lesser operand's bits, unrounded (R121). -/
def minBits (f : FFmt) (a b : Nat) : Nat × Word :=
  let x := unpackF f a
  let y := unpackF f b
  if x.isNan || y.isNan then nanResult f [x, y] else (if ltSigned y x then b else a, 0)

/-- FMAX in a format (R121). -/
def maxOfBits (f : FFmt) (a b : Nat) : Nat × Word :=
  let x := unpackF f a
  let y := unpackF f b
  if x.isNan || y.isNan then nanResult f [x, y] else (if ltSigned x y then b else a, 0)

/-- FMIN. -/
def fmin (a b : Word) : Word × Word := wordOf (minBits .fp32 a.toNat b.toNat)
/-- FMAX. -/
def fmax (a b : Word) : Word × Word := wordOf (maxOfBits .fp32 a.toNat b.toNat)

/-- The conditions of FCMP (R122). -/
inductive FCond where | eq | ne | lt | le | gt | ge | uo | or
deriving DecidableEq, Repr

/-- FCMP (R122): the quiet conditions raise NV on a signalling NaN only, the ordered ones on any NaN. -/
def fcmp (c : FCond) (a b : Word) : Word × Word :=
  let x := fp32 a
  let y := fp32 b
  let un := x.isNan || y.isNan
  let sn := x.isSnan || y.isSnan
  let o := cmpVal x y
  match c with
  | .eq => (boolWord (!un && o == .eq), flagIf sn flagNV)
  | .ne => (boolWord (un || o != .eq), flagIf sn flagNV)
  | .lt => (boolWord (!un && o == .lt), flagIf un flagNV)
  | .le => (boolWord (!un && o != .gt), flagIf un flagNV)
  | .gt => (boolWord (!un && o == .gt), flagIf un flagNV)
  | .ge => (boolWord (!un && o != .lt), flagIf un flagNV)
  | .uo => (boolWord un, flagIf sn flagNV)
  | .or => (boolWord (!un), flagIf sn flagNV)

/-- FABS (R124). -/
def fabs (a : Word) : Word := a &&& 0x7FFFFFFF
/-- FNEG. -/
def fneg (a : Word) : Word := a ^^^ 0x80000000
/-- FCPS: A's magnitude with D's sign. -/
def fcps (d a : Word) : Word := (a &&& 0x7FFFFFFF) ||| (d &&& 0x80000000)

/-- Integer square root of n by setting bits from 2^k down: `r` is the root so far. -/
def isqrtFrom (n r : Nat) : Nat → Nat
  | 0 => r
  | k + 1 => let r' := r + 2 ^ k; isqrtFrom n (if r' * r' ≤ n then r' else r) k

/-- The integer square root of n below 2^256. -/
def isqrt (n : Nat) : Nat := isqrtFrom n 0 128

/-- √(m · 2^e) with at least 40 bits, or with its remainder in the sticky bit (R125). -/
def sqrtX (m : Nat) (e : Int) : XReal :=
  let (m, e) := if e % 2 = 0 then (m, e) else (2 * m, e - 1)
  let r := isqrt (m * 2 ^ 80)
  ⟨false, r, e / 2 - 40, r * r != m * 2 ^ 80⟩

/-- 1/√(m · 2^e) (R125): the integer root of 2^120 / m. -/
def rsqrtX (m : Nat) (e : Int) : XReal :=
  let (m, e) := if e % 2 = 0 then (m, e) else (2 * m, e - 1)
  let r := isqrt (2 ^ 120 / m)
  ⟨false, r, -(e / 2) - 60, r * r * m != 2 ^ 120⟩

/-- FRCP (R125). -/
def frcp (env : FEnv) (a : Word) : Word × Word := wordOf <|
  match fp32 a with
  | .nan s => nanResult .fp32 [.nan s]
  | .inf n => (signBits .fp32 n, 0)
  | .fin n m e => if m = 0 then (signBits .fp32 n + FFmt.fp32.infBits, flagDZ) else finish .fp32 env (divX n 1 0 m e)

/-- FRSQ (R125). -/
def frsq (env : FEnv) (a : Word) : Word × Word := wordOf <|
  match fp32 a with
  | .nan s => nanResult .fp32 [.nan s]
  | .inf n => if n then invalidResult .fp32 else (0, 0)
  | .fin n m e => if m = 0 then infResult .fp32 n else if n then invalidResult .fp32 else finish .fp32 env (rsqrtX m e)

/-- FSQRT (R125). -/
def fsqrt (env : FEnv) (a : Word) : Word × Word := wordOf <|
  match fp32 a with
  | .nan s => nanResult .fp32 [.nan s]
  | .inf n => if n then invalidResult .fp32 else infResult .fp32 false
  | .fin n m e => if m = 0 then (signBits .fp32 n, 0) else if n then invalidResult .fp32 else finish .fp32 env (sqrtX m e)

/-- Fractional bits of the fixed-point arithmetic behind FEXP2 and FLOG2. -/
def fixBits : Nat := 256

/-- Σ over odd j from i of z^j / j, for z = p/q below 1, in units of 2^−fixBits: the series of artanh. `zp` is z^i and `zz` is z², in the same units. -/
def artanhSum (zp zz i : Nat) : Nat → Nat
  | 0 => 0
  | k + 1 => zp / i + artanhSum (zp * zz / 2 ^ fixBits) zz (i + 2) k

/-- 2 · artanh(p/q) in units of 2^−fixBits, for p/q at most 1/3. -/
def twoArtanh (p q : Nat) : Nat :=
  let z := p * 2 ^ fixBits / q
  2 * artanhSum z (z * z / 2 ^ fixBits) 1 90

/-- ln 2 = 2 · artanh(1/3), in units of 2^−fixBits. -/
def ln2Fix : Nat := twoArtanh 1 3

/-- Σ from i of x^i / i! in units of 2^−fixBits; `t` is the term of index i − 1. -/
def expSum (t x i : Nat) : Nat → Nat
  | 0 => 0
  | k + 1 => let t' := t * x / 2 ^ fixBits / i; t' + expSum t' x (i + 1) k

/-- e^x for x in [0, 1), in units of 2^−fixBits. -/
def expFix (x : Nat) : Nat := 2 ^ fixBits + expSum (2 ^ fixBits) x 1 70

/-- 2^(m · 2^e) or 2^−(m · 2^e) as an exact real with sticky bit (R125). A magnitude of 2^11 or more is replaced by an exponent that finish overflows or underflows alike. -/
def exp2X (neg : Bool) (m : Nat) (e : Int) : XReal :=
  if 11 ≤ e + m.log2 then ⟨false, 2 ^ 40, if neg then -1100 else 1000, true⟩
  else if 0 ≤ e then
    let v : Int := (m * 2 ^ e.toNat : Nat)
    ⟨false, 1, if neg then -v else v, false⟩
  else
    let k := (-e).toNat
    let q : Int := if neg then -(m : Int) else m
    let whole := q / 2 ^ k
    let frac := (q % 2 ^ k).toNat
    if frac = 0 then ⟨false, 1, whole, false⟩
    else ⟨false, expFix (frac * ln2Fix / 2 ^ k) / 2 ^ 40, whole - (fixBits - 40 : Nat), true⟩

/-- FEXP2 (R125). -/
def fexp2 (env : FEnv) (a : Word) : Word × Word := wordOf <|
  match fp32 a with
  | .nan s => nanResult .fp32 [.nan s]
  | .inf n => if n then (0, 0) else infResult .fp32 false
  | .fin n m e => if m = 0 then (0x3F800000, 0) else finish .fp32 env (exp2X n m e)

/-- log2(m · 2^e) as an exact real, for m · 2^e not a power of two (R125). -/
def log2X (m : Nat) (e : Int) : XReal :=
  let k := m.log2
  let l := twoArtanh (m - 2 ^ k) (m + 2 ^ k) * 2 ^ fixBits / ln2Fix
  let v : Int := (e + k) * 2 ^ fixBits + l
  ⟨decide (v < 0), v.natAbs / 2 ^ 40, -((fixBits - 40 : Nat) : Int), true⟩

/-- FLOG2 (R125). -/
def flog2 (env : FEnv) (a : Word) : Word × Word := wordOf <|
  match fp32 a with
  | .nan s => nanResult .fp32 [.nan s]
  | .inf n => if n then invalidResult .fp32 else infResult .fp32 false
  | .fin n m e =>
    if m = 0 then (0xFF800000, flagDZ)
    else if n then invalidResult .fp32
    else if m = 2 ^ m.log2 then
      let v := e + m.log2
      if v = 0 then (0, 0) else finish .fp32 env ⟨decide (v < 0), v.natAbs, 0, false⟩
    else finish .fp32 env (log2X m e)

/-- FRNDN, FRNDZ, FRNDP and FRNDM (R126): the direction is the member's own; only NV is raised. -/
def frnd (rm : Rm) (a : Word) : Word × Word :=
  match fp32 a with
  | .nan s => wordOf (nanResult .fp32 [.nan s])
  | .inf _ => (a, 0)
  | .fin n m e =>
    if m = 0 ∨ 0 ≤ e then (a, 0)
    else
      let q := (roundAt ⟨n, m, e, false⟩ 0 rm).1
      if q = 0 then (BitVec.ofNat 32 (signBits .fp32 n), 0)
      else (BitVec.ofNat 32 (finish .fp32 ⟨rm, false, false⟩ ⟨n, q, 0, false⟩).1, 0)

/-- FCLASS (R127). -/
def fclass (a : Word) : Word :=
  match fp32 a with
  | .nan s => if s then 0x100 else 0x200
  | .inf n => if n then 0x001 else 0x080
  | .fin n m _ =>
    if m = 0 then (if n then 0x008 else 0x010)
    else if m < 0x800000 then (if n then 0x004 else 0x020)
    else (if n then 0x002 else 0x040)

/-- One H2 element operation on bits of a 16-bit format (R133). -/
def h2Bin (op : FFmt → FEnv → FVal → FVal → Nat × Word) (f : FFmt) (env : FEnv) (a b : Nat) : Nat × Word :=
  op f env (unpackF f a) (unpackF f b)

/-- The format that FMT.HF names (R34, R133). -/
def halfFmt (hf : Bool) : FFmt := if hf then .fp16 else .bf16

/-- Two 16-bit results joined, element 0 low, flags ORed (R133). -/
def joinH2 (r0 r1 : Nat × Word) : Word × Word :=
  (BitVec.ofNat 32 (r0.1 + 65536 * r1.1), r0.2 ||| r1.2)

/-- Bits of element 0 and element 1 of a word. -/
def half0 (a : Word) : Nat := a.toNat % 65536
def half1 (a : Word) : Nat := a.toNat / 65536

/-- H2ADD (R133). -/
def h2add (hf : Bool) (env : FEnv) (a b : Word) : Word × Word :=
  joinH2 (h2Bin addVal (halfFmt hf) env (half0 a) (half0 b)) (h2Bin addVal (halfFmt hf) env (half1 a) (half1 b))
/-- a − b on values. -/
def subVal (f : FFmt) (env : FEnv) (a b : FVal) : Nat × Word := addVal f env a b.negate
/-- H2SUB. -/
def h2sub (hf : Bool) (env : FEnv) (a b : Word) : Word × Word :=
  joinH2 (h2Bin subVal (halfFmt hf) env (half0 a) (half0 b)) (h2Bin subVal (halfFmt hf) env (half1 a) (half1 b))
/-- H2MUL. -/
def h2mul (hf : Bool) (env : FEnv) (a b : Word) : Word × Word :=
  joinH2 (h2Bin mulVal (halfFmt hf) env (half0 a) (half0 b)) (h2Bin mulVal (halfFmt hf) env (half1 a) (half1 b))
/-- H2FMA. -/
def h2fma (hf : Bool) (env : FEnv) (d a b : Word) : Word × Word :=
  let f := halfFmt hf
  joinH2 (fmaVal f env (unpackF f (half0 a)) (unpackF f (half0 b)) (unpackF f (half0 d)))
    (fmaVal f env (unpackF f (half1 a)) (unpackF f (half1 b)) (unpackF f (half1 d)))
/-- H2MIN. -/
def h2min (hf : Bool) (a b : Word) : Word × Word :=
  joinH2 (minBits (halfFmt hf) (half0 a) (half0 b)) (minBits (halfFmt hf) (half1 a) (half1 b))
/-- H2MAX. -/
def h2max (hf : Bool) (a b : Word) : Word × Word :=
  joinH2 (maxOfBits (halfFmt hf) (half0 a) (half0 b)) (maxOfBits (halfFmt hf) (half1 a) (half1 b))

/-- The source of a CVT as a float value or an integer (R129). -/
def cvtFloatSrc : CvtSrc → Option FFmt
  | .fp32 => some .fp32 | .fp16 => some .fp16 | .bf16 => some .bf16 | .e4m3 => some .e4m3 | .e5m2 => some .e5m2
  | .s32 => none | .n32 => none

/-- Float destinations of CVT. -/
def cvtFloatDst : CvtDst → Option FFmt
  | .fp32 => some .fp32 | .fp16 => some .fp16 | .bf16 => some .bf16 | .e4m3 => some .e4m3 | .e5m2 => some .e5m2
  | .s32 => none | .n32 => none | .s16 => none | .n16 => none | .s8 => none | .n8 => none

/-- The range of an integer destination (R6). -/
def cvtIntRange : CvtDst → Int × Int
  | .s32 => (-2147483648, 2147483647) | .n32 => (0, 4294967295)
  | .s16 => (-32768, 32767) | .n16 => (0, 65535)
  | .s8 => (-128, 127) | .n8 => (0, 255)
  | .fp32 => (0, 0) | .fp16 => (0, 0) | .bf16 => (0, 0) | .e4m3 => (0, 0) | .e5m2 => (0, 0)

/-- A float value converted to a float format (R20). -/
def cvtToFloat (f : FFmt) (env : FEnv) (x : FVal) : Nat × Word :=
  match x with
  | .nan s => nanResult f [.nan s]
  | .inf n =>
    if f == .e4m3 then (if env.sat then (signBits f n + maxBits f, 0) else invalidResult f) else infResult f n
  | .fin n m e => if m = 0 then (signBits f n, 0) else finish f env ⟨n, m, e, false⟩

/-- Round a finite value to an integer. -/
def roundInt (rm : Rm) (n : Bool) (m : Nat) (e : Int) : Int × Bool :=
  let (q, ix) := roundAt ⟨n, m, e, false⟩ 0 rm
  (if n then -(q : Int) else q, ix)

/-- A float value converted to an integer of a range (R20). -/
def cvtToInt (d : CvtDst) (rm : Rm) (x : FVal) : Word × Word :=
  let (lo, hi) := cvtIntRange d
  match x with
  | .nan _ => (0, flagNV)
  | .inf n => (BitVec.ofInt 32 (if n then lo else hi), flagNV)
  | .fin n m e =>
    let (q, ix) := roundInt rm n m e
    if q < lo then (BitVec.ofInt 32 lo, flagNV)
    else if hi < q then (BitVec.ofInt 32 hi, flagNV)
    else (BitVec.ofInt 32 q, flagIf ix flagNX)

/-- An integer converted to a float format (R20). -/
def cvtOfInt (f : FFmt) (env : FEnv) (v : Int) : Nat × Word :=
  if v = 0 then (0, 0) else finish f env ⟨decide (v < 0), v.natAbs, 0, false⟩

/-- CVT to a destination of code 0 to 10 (R129, R130). -/
def cvt (src : CvtSrc) (dst : CvtDst) (env : FEnv) (a : Word) : Word × Word :=
  match cvtFloatSrc src, cvtFloatDst dst with
  | some fs, some fd => wordOf (cvtToFloat fd env (unpackF fs (a.toNat % 2 ^ fs.width)))
  | some fs, none => cvtToInt dst env.rm (unpackF fs (a.toNat % 2 ^ fs.width))
  | none, some fd => wordOf (cvtOfInt fd env (if src == .s32 then a.toInt else a.toNat))
  | none, none => (a, 0)

/-- FP32 arithmetic of the atomics (R207): round to nearest, no FZ, no SAT, no flag. -/
def atomicEnv : FEnv := ⟨.rne, false, false⟩

end Sys2Proof.Machine
end

