-- ==== Sys2Proof/Config.lean ====
section
/-! DEFINITION. What an implementation fixes, and the free values: constants without a body, applied to a counter of State or to the data they depend on, so that nothing is known of them. -/

namespace Sys2Proof.Config

/-- A fresh choice among n things (n above 0): replacement victims and other choices the manual leaves open (logs 12, 14). The result is reduced modulo n where it is used. -/
opaque freeChoice : Nat → Nat → Nat

/-- Estimated energy of a meter update in millijoules (R409; log 15). -/
opaque freeEnergy : Nat → Nat → BitVec 64

/-- The binary64 pattern of a statistic that is a NaN (R428): the manual names no canonical NaN for binary64 (log 21). -/
opaque freeStatNan : Nat → BitVec 64

/-- The signature of a measurement report over its bytes, under the key bound to a package's serial number (R430; log 16). -/
opaque signature : BitVec 64 → List (BitVec 8) → List (BitVec 8)

/-- Whether a signed record (a feature token or a reinstatement record) verifies is settled before boot; this is the digest that firmware takes of the fuse map or a log (R430; log 16). -/
opaque recordDigest : List (BitVec 8) → List (BitVec 8)

/-- What LQRY writes beside S[d] = 0 for an unknown handle: the manual gives the counts of no launch (R402; log 85). -/
opaque freeCount : Nat → BitVec 32

/-- Directory records that a home slice holds (R345; log 12). -/
opaque dirRecords : Nat

end Sys2Proof.Config
end

