-- ==== Sys2Proof/Machine/State.lean ====
section
/-! DEFINITION. The state of the W64 as plain data, level by level, the reasons a step can stop, and the machine after reset. -/

namespace Sys2Proof.Machine

/-- A program counter: 56 bits (R41). -/
abbrev Pc := BitVec 56

/-- Bytes by address in canonical form: addresses strictly rising, no entry equal to 0, which is what an unlisted address reads as (log 1). -/
abbrev Bytes := List Host.Cell

/-- The fault codes of R55. -/
inductive FaultCode where
  | illegal | regrange | format | align | xlate | perm | cls | scratch | data | array | splitovf
  | sectorder | sectstall | sectstate | late | shelfw | engine | trap | bkpt | window | timeout | launch
deriving DecidableEq, Repr

/-- A fault about to be taken or held: code, FVAL, lane and the memory bits of DETAIL (R55, R57). -/
structure FaultRec where
  code : FaultCode
  fval : Addr
  lane : Nat
  write : Bool
  fetch : Bool
deriving DecidableEq, Repr

/-- Page classes (R341, R344). -/
inductive PageClass where | dp | coh | ucr | ros | swm
deriving DecidableEq, Repr

/-- A translated access: physical address, class, MS, home die. A host access (R412) keeps its virtual address and has `host` set. -/
structure Loc where
  pa : Nat
  cls : PageClass
  ms : Bool
  die : Nat
  host : Bool
deriving DecidableEq, Repr

/-- One lane of an access: lane, virtual address and place. -/
structure LaneLoc where
  lane : Nat
  va : Addr
  loc : Loc
deriving DecidableEq, Repr

/-- The registers an instruction reads or writes (R70): V numbers and S numbers. -/
structure Foot where
  v : List Nat
  s : List Nat
deriving DecidableEq, Repr

/-- The members of TAG that wait or write (R228). -/
inductive TagMember where | ldf | ldc | stp | stf | sete
deriving DecidableEq, Repr

/-- One lane of a tagged instruction: scratch address and data. -/
structure TagLane where
  lane : Nat
  sa : Word
  data : Word
deriving DecidableEq, Repr

/-- The conditions of a value wait (R210). -/
inductive WaitCond where | eq | ne | gen | gtn
deriving DecidableEq, Repr

/-- One lane of a value wait: place, comparand, and the satisfying value once there is one (R211). -/
structure ValueLane where
  lane : Nat
  va : Addr
  loc : Loc
  cmp : Word
  got : Option Word
deriving DecidableEq, Repr

/-- A wait that an instruction has sent to an owning core or a home, with what its completion needs (R211, R231, R238, R240, R304). -/
inductive WaitKind where
  /-- WKIND 1: unperformed lanes of a tagged instruction, the lanes it acts on, and the lanes performed (R231). -/
  | tag (m : TagMember) (bs : Bool) (d : Reg) (todo : List TagLane) (lanes done : Word)
  /-- WKIND 2: BWAIT (R240). -/
  | bwait (sa g : Word)
  /-- WKIND 2: an arrival waiting for PEND (R238). -/
  | arrive (sa x : Word) (ex : Bool) (d : Reg)
  /-- WKIND 3: ENTER (R304). -/
  | enter (key : Addr) (seq : Word) (d : Reg)
  /-- WKIND 5: a value wait (R211). `group` is SWAITV. -/
  | value (c : WaitCond) (group : Bool) (d : Reg) (lanes : List ValueLane)
deriving DecidableEq, Repr

/-- What a fragment with STATE 1 waits for (WKIND, R41): an outstanding instruction whose window is used up or with which the next word conflicts (WKIND 1 to 5 and 7), TWAIT (6), or the fault service (8), with page number and faulting address. -/
inductive FragWait where
  | op (id : Nat)
  | twait (t : Addr)
  | service (page : Nat) (va : Addr)
deriving DecidableEq, Repr

/-- The matrix formats of a legal MMA pair (R213). -/
inductive MmaFmt where | bs8 | bs4 | i8 | bf16 | fp16
deriving DecidableEq, Repr

/-- An issued MMA or MMAZ: operands read at issue (R217); `c` is none while a chained word waits for the earlier result (R189). `inj` marks the run that takes an injected error, `rerun` the second run (R191, R192). -/
structure MmaOp where
  fmt : MmaFmt
  zero : Bool
  rm : Rm
  sat : Bool
  fz : Bool
  noscl : Bool
  lanes : Word
  d : Reg
  a : List Row
  b : List Row
  c : Option (List Row)
  inj : Bool
  rerun : Bool
deriving DecidableEq, Repr

/-- A load with remote lanes, or a timed load under not-before time `notBefore` (R199, R381): its lanes, and the bytes of the lanes performed so far. -/
structure LoadOp where
  sz : MemSize
  group : Bool
  d : Reg
  /-- Its address register and offset, for the issue after a resume (R61). -/
  a : Reg
  disp : Addr
  lanes : List LaneLoc
  got : List (Nat × List Byte)
  notBefore : Option Addr
  acq : Bool
  cp : CachePol
deriving DecidableEq, Repr

/-- An outstanding long instruction (R70). -/
inductive OutKind where
  | load (o : LoadOp)
  /-- An ATOM or SATOM, an acquire or not (R198): its lanes with their addresses, and the old values of the lanes performed (R196, R208). -/
  | atomic (group acq : Bool) (d : Reg) (vals : List (Nat × Word)) (lanes : List (Nat × Addr))
  /-- A matrix operation in flight (R191). -/
  | mma (op : MmaOp)
  /-- A REORDER waiting for its collective (R221): its id, the lanes it takes part with, its key register and the registers it moves, and, once its collective has every participant, the tick at which that completes. -/
  | reorder (id : Nat) (lanes : Word) (k : Reg) (moved : Word) (due : Option Nat)
  /-- SEQTAKE, LEAVE, LEAVE.END, ABANDON or SECTQ at its home (R302). -/
  | sect
  /-- A wait (R61). -/
  | wait (k : WaitKind)
deriving DecidableEq, Repr

/-- One outstanding instruction: identity, first word of its unit, its own PC, the window left, its footprint, when its request was sent, and the fault that came with its response (R72). -/
structure Outst where
  id : Nat
  unit : Pc
  pc : Pc
  kind : OutKind
  window : Nat
  reads : Foot
  writes : Foot
  sent : Nat
  fail : Option FaultRec
deriving DecidableEq, Repr

/-- A TLBI behind its removal (R165): the size exponent of the page, the outstanding instructions that a removed entry had translated by swell and identity, and the number of the first message sent since. -/
structure TlbiWait where
  span : Nat
  ops : List (Nat × Nat)
  mark : Nat
deriving DecidableEq, Repr

/-- A request answered 2 (R52): its page, REP of the region whose repeated access takes PERM once, and where that region runs. -/
structure Denial where
  page : Nat
  rep : Pc
  inCont : Bool
  super : Bool
deriving DecidableEq, Repr

/-- A HINT word (R75, R76, R78). -/
inductive HintWord where
  | wide (p : BitVec 23)
  | mods (m : ModHint)
  | sched (h : SchedHint)
deriving DecidableEq, Repr

/-- The HINTs that stand before the next instruction (R73): the address of the first, and the words in address order. -/
structure Hints where
  first : Option Pc
  words : List HintWord
deriving DecidableEq, Repr

/-- One slot of the held record (R299). -/
structure HeldSlot where
  valid : Bool
  key : Addr
  home : BitVec 6
deriving DecidableEq, Repr

/-- A split-table entry (R41), with the held record, the pending HINTs and the core's issue state of its fragment. -/
structure Frag where
  valid : Bool
  st : BitVec 3
  pc : Pc
  recon : Pc
  orecon : Pc
  rep : Pc
  mask : Word
  region : Word
  reissue : BitVec 16
  wkind : BitVec 4
  osfmt : BitVec 12
  sfmt : BitVec 12
  fmt : BitVec 12
  onew : Bool
  opart : BitVec 3
  new : Bool
  part : BitVec 3
  waddr : Addr
  wval : Addr
  /-- Privilege: 0 user, 1 supervisor, 2 firmware (R164). -/
  priv : BitVec 2
  held0 : HeldSlot
  held1 : HeldSlot
  hints : Hints
  /-- Wait age W (R169). -/
  age : Nat
  heldFault : Option FaultRec
  outst : List Outst
  wait : Option FragWait
  /-- C base and format of the last MMA or MMAZ, when it was the fragment's last matrix word (R189). -/
  lastMma : Option (Nat × MmaFmt)
  /-- Requests of this fragment answered 2, each until its access is repeated (R52). -/
  denied : List Denial
  /-- The fragment runs continuation code (R51, R53): its accesses there are not the repeated one. -/
  inCont : Bool
  /-- While it runs there: the page whose request the wake word answers, and REP of the region that waits for it (R51, R52). -/
  contAsk : Option (Nat × Pc)
  /-- Remote loads that REISSUE names and the device has not kept (R41): each address with the PC that follows its unit, the last one being the saved PC. -/
  redo : List (Pc × Pc)
  /-- The next instruction begins a region, so it waits for outstanding long instructions (R47, R71). -/
  breakDue : Bool
  /-- Pages whose walks the next word waits for, and walks that failed for it: page, and whether the entry was malformed (R187, R342). -/
  walkWait : List Nat
  walkFail : List (Nat × Bool)
  /-- What its TLBI waits for since it has removed the translations (R165). -/
  tlbi : Option TlbiWait
  /-- The tick at which the fragment became ready (R174). -/
  readyAt : Nat
  /-- A word that could not be performed yet is tried again from this tick on (the model's own; log 3). -/
  retryAt : Nat
deriving DecidableEq, Repr

/-- Pending asynchronous faults of a swell (R60, R62). -/
structure Pending where
  late : Bool
  engine : Bool
  count : BitVec 8
  target : BitVec 3
  tide : Addr
  engineVal : Addr
  engineTarget : BitVec 3
  engineFirst : Bool
  /-- The tick at which LATE became pending. -/
  lateAt : Nat
deriving DecidableEq, Repr

/-- What a render swell shades (R327 to R331). -/
inductive RenderRole where
  | group
  | opaquePix (tile : Nat)
  | blendPix (tile draw block : Nat)
deriving DecidableEq, Repr

/-- A swell (R30 to R37, R57, R141), resident or saved. -/
structure Swell where
  uid : Nat
  ctx : Nat
  launch : Nat
  task : Word
  n : Nat
  role : RenderRole
  v : Vector Row 128
  s : Vector Word 128
  ents : Vector Frag 8
  scfg : Word
  /-- Flags ORed into SCFG in this tick: a SETC of the tick does not lose them (R35). -/
  raised : Word
  pri : Word
  cont : Word
  window : BitVec 24
  region : Word
  contMark : Bool
  busy : Bool
  busyEnt : BitVec 3
  fcause : Word
  frec : Word
  fpc : Addr
  fval : Addr
  pend : Pending
  nbr : Vector (BitVec 16) 32
  /-- The wake word's tag and value while the swell is evicted (R54). -/
  wakeFull : Bool
  wakeVal : Word
  /-- In the active set (R173); the order of the last move in; base of the slow-file allocation in KiB (R172). -/
  active : Bool
  movedIn : Nat
  slowBase : Nat
  /-- The core it is on, or was on last (R407). -/
  core : Nat
  /-- Counter of outstanding operations of this swell. -/
  nextOp : Nat
deriving DecidableEq, Repr

/-- A cache line of an L1 or of a remote partition (R182, R268): its way in a slice's set (R269), the bytes present, their dirty mask, the next-victim mark, exclusive ownership of a COH line, the time at which it last became dirty, and the context of its last writer. -/
structure CacheLine where
  line : Nat
  way : Nat
  cls : PageClass
  present : BitVec 256
  dirty : BitVec 256
  data : Bytes
  victim : Bool
  excl : Bool
  wtime : Nat
  ctx : Nat
deriving DecidableEq, Repr

/-- A line of the local partition of a slice (R268, R269): its way, the bytes present and their dirty mask, and the context of its last writer. The bytes themselves stand in State.mem, since nothing reads HBM4E past the slice (log 64). -/
structure SliceLine where
  line : Nat
  way : Nat
  present : BitVec 256
  dirty : BitVec 256
  ctx : Nat
deriving DecidableEq, Repr

/-- A translation held by a TLB (R185): context, first 64 KiB page number, size, and the leaf entry. -/
structure TlbEnt where
  ctx : Nat
  page : Nat
  big : Bool
  leaf : Addr
deriving DecidableEq, Repr

/-- A value held in the operand latch (R69): the fragment, the register, and the instructions it may still serve. -/
structure LatchEnt where
  slot : Nat
  ent : Nat
  reg : Nat
  left : Nat
deriving DecidableEq, Repr

/-- A core (R176 to R193, R222 to R226). -/
structure Core where
  bndReg : Word
  bndScr : Word
  bndTop : Word
  /-- The context whose partition the core holds (R398). -/
  ctx : Option Nat
  scratch : Bytes
  /-- Numbers of the scratch words whose tag is full, rising. -/
  full : List Nat
  /-- Scratch words with an uncorrectable error (R225). -/
  badWords : List Nat
  l1 : List CacheLine
  tlb : List TlbEnt
  latch : List LatchEnt
  /-- The core error record (R192). -/
  err : Addr
  /-- The tick at which the matrix slot is free again (R181, R191). -/
  mFree : Nat
  /-- A defect of the core's array: its product stage gives a wrong element in every run (R191; log 39). -/
  arrayBad : Bool
  /-- Saved swells in the save area (R193). -/
  save : List Swell
  /-- Tasks are not started while a suspect core is served (R386). -/
  stopped : Bool
deriving DecidableEq, Repr

/-- A wait at an owning core (R231), in arrival order: the fragment, the core and number of the word it watches, its lane, and whether it is an arrival, which uses no watch entry (R238). -/
structure TagWaiter where
  fr : FragId
  core : Nat
  word : Nat
  lane : Nat
  arrival : Bool
deriving DecidableEq, Repr

/-- Functions of ENG that an engine performs (R242, R355, R421, R423). -/
inductive EngKind where | copy | gather | scatter | rarith | wsend | wsig | coll
deriving DecidableEq, Repr

/-- STATE of a ticket (R249). -/
inductive TicketState where | queued | running | done | failed
deriving DecidableEq, Repr

/-- A span of the range scoreboard (R251): space 0 global, 1 scratch, 2 shelf, and its first and last byte. -/
structure Span where
  space : Nat
  lo : Nat
  hi : Nat
deriving DecidableEq, Repr

/-- A command accepted by an engine (R244, R251): its place in the cluster's order of acceptance, its block, what has been performed, and what it waits for. -/
structure EngCmd where
  seq : BitVec 24
  order : Nat
  kind : EngKind
  ctx : Nat
  fr : FragId
  core : Nat
  user : Bool
  launch : Nat
  block : List Word
  st : TicketState
  /-- Bytes performed, bytes of the whole command, and bytes counted into its barrier (R250). -/
  done : Nat
  total : Nat
  counted : Nat
  /-- The page it waits for, and the page it was refused (R255). -/
  stall : Option Nat
  denied : Option Nat
  /-- Since when an access to the host has had no answer (R255). -/
  since : Option Nat
  /-- Indices read so far (R248); source bytes of a put (R422), or of words that FILL has still to write whole (R247). -/
  idx : List Word
  buf : List Byte
  src : List Span
  dst : List Span
  /-- Destination pages held exclusively (R254): virtual and physical page numbers. -/
  held : List (Nat × Nat)
  /-- The engine has passed the command on: a put that waits for its acknowledgement, a collective that has joined. -/
  handed : Bool
deriving DecidableEq, Repr

/-- The status of an ended ticket (R249). -/
structure TicketRec where
  seq : BitVec 24
  ctx : Nat
  failed : Bool
  reason : Nat
  remain : Nat
deriving DecidableEq, Repr

/-- An engine (R242): command counter, queue, the last 256 ended tickets, and the STATS pairs of the last 16 (R428). -/
structure Engine where
  seq : BitVec 24
  cmds : List EngCmd
  ended : List TicketRec
  /-- L and G of the last 16 done STATS collectives, with their tickets' SEQ and contexts (R429). -/
  stats : List (BitVec 24 × Nat × Addr × Addr)
deriving DecidableEq, Repr

/-- A task control block of the task store (R257), queued on a core. -/
structure Tcb where
  launch : Nat
  core : Nat
  task : Nat
deriving DecidableEq, Repr

/-- An idle cluster's search for work (R259): the launch and the candidates left in this pass; with none left it waits for a retry. -/
structure Steal where
  launch : Nat
  left : List Nat
deriving DecidableEq, Repr

/-- A cluster (R222 to R260). -/
structure Cluster where
  tlb : List TlbEnt
  waiters : List TagWaiter
  engines : Vector Engine 5
  store : List Tcb
  steals : List Steal
deriving DecidableEq, Repr

/-- The operations of R206. -/
inductive AtomCode where | add | and | or | xor | min | max | minn | maxn | xchg | cas | fadd | fmin | fmax | inc
deriving DecidableEq, Repr

/-- The requests of the SECT family (R303 to R306). -/
inductive SectMsg where
  | seqtake
  | enter
  | leave (kind : LeaveKind)
  | sectq
deriving DecidableEq, Repr

/-- A packet of class REQ (R265), on its way or held at its home (R202, R254, R271, R277, R281, R377). -/
inductive MsgKind where
  /-- A store that its home performs. -/
  | store (bytes : List Byte)
  /-- One lane of a load. -/
  | load (op lane size : Nat)
  /-- One lane of an atomic with its operands, and the operation that its old value answers; a RED has none. -/
  | atomic (op : Option Nat) (lane : Nat) (code : AtomCode) (a b : Word)
  /-- One lane of a value wait (R211). -/
  | arm (lane : Nat)
  /-- Dirty bytes of a line written back. -/
  | merge (m : BitVec 256) (data : Bytes)
  /-- A line that PF asks for (R203). -/
  | prefetch (cp : CachePol)
  /-- A section request that goes behind packets in a spill region (R363). -/
  | sect (op : SectMsg) (req : SectReq)
  /-- A primitive packet, and the end-of-group marker of a group (R321, R322). -/
  | prim (p : Prim)
  | marker (group : Nat)
  /-- A timed store with its tidemark, and one lane of a timed load with its not-before time (R376). -/
  | timedStore (bytes : List Byte) (tide : Addr)
  | timedLoad (op lane size : Nat) (notBefore : Addr)
deriving DecidableEq, Repr

/-- A message with its sender, the sender's launch, and its place. -/
structure Msg where
  fr : FragId
  ctx : Nat
  launch : Nat
  va : Addr
  loc : Loc
  kind : MsgKind
deriving DecidableEq, Repr

/-- A tide buffer (R376): buffered lanes in arrival order, by their message numbers, the ingress, and TIDESTAT (R379). -/
structure Tide where
  buf : List (Nat × Msg)
  ingress : List (Nat × Msg)
  late : Word
  fullw : BitVec 16
deriving DecidableEq, Repr

/-- An armed value watch (R211, R212), at a slice or at the memory logic of its channel. -/
structure Watch where
  fr : FragId
  lane : Nat
  pa : Nat
  ms : Bool
  c : WaitCond
  cmp : Word
deriving DecidableEq, Repr

/-- A walk in flight (R186): page, and the fragments on its list. -/
structure Walk where
  ctx : Nat
  page : Nat
  who : List FragId
deriving DecidableEq, Repr

/-- Who waits for a page: a fragment in a fault-service wait, the wake word of a fragment's swell (R52, R54) with the page it faulted on, an engine command, a put that arrived, or nobody (R293, R417, R422). -/
inductive Asker where
  | swell (fr : FragId)
  | token (page : Nat) (fr : FragId)
  | engine (cluster eng : Nat) (seq : BitVec 24)
  | put (p : PutIn)
  | device
deriving DecidableEq, Repr

/-- A request of the fault service (R293): page, kind, first die, askers, and the ID of its fault-queue entry once written (R417). -/
structure PageReq where
  ctx : Nat
  page : Nat
  kind : ReqKind
  die : Nat
  who : List Asker
  fqid : Option Word
  host : Bool
  /-- Its place in the order in which the dies' requests were made (R417). -/
  seq : Nat
deriving DecidableEq, Repr

/-- A sluice entry (R296). -/
structure SluiceEnt where
  ctx : Nat
  key : Addr
  next : Word
  take : Word
  held : Bool
  abandoned : Bool
  spilled : Bool
  mems : Bool
  hcore : BitVec 14
  hslot : BitVec 5
  hent : BitVec 3
  lastp : Addr
  /-- Time of the last operation, for least recent use (R314). -/
  used : Nat
  /-- Its 64-byte place in the context's spill region, while SPILLED or MEMS is set. -/
  slot : Nat
deriving DecidableEq, Repr

/-- A waiter record (R296, R310), in arrival order in its sluice. -/
structure SluiceWait where
  /-- Index of the record in the waiter store. -/
  num : Nat
  ctx : Nat
  key : Addr
  seq : Word
  req : SectReq
  arrived : Addr
  evicted : Bool
  granted : Option Word
  stalled : Bool
deriving DecidableEq, Repr

/-- A request that waits at a sluice's ingress (R310, R311, R314): a SEQTAKE or an ENTER, with the home ATIME of its arrival. -/
structure SluiceIn where
  req : SectReq
  take : Bool
  arrived : Addr
deriving DecidableEq, Repr

/-- A die's sluice (R296, R314): entries, waiters, requests waiting for a reload, spill space or the waiter store, counters. -/
structure Sluice where
  ents : List SluiceEnt
  waits : List SluiceWait
  ingress : List SluiceIn
  spills : Nat
  reloads : Nat
deriving DecidableEq, Repr

/-- A non-leaf entry cached by a page walker (R165, R185): context, level, the VA bits above that level's index, and the next table's address. -/
structure WalkEnt where
  ctx : Nat
  level : Nat
  top : Nat
  table : Nat
deriving DecidableEq, Repr

/-- A request held at its home (R202, R254, R271, R277, R377): its message number, its line, and the tick of its arrival. -/
structure HomeWait where
  msg : Nat
  line : Nat
  since : Nat
deriving DecidableEq, Repr

/-- A request that has missed in its slice (R271): a lane of an outstanding load by swell, operation and lane, or another request by its message number; its line, and the tick of its arrival. -/
structure MissReq where
  sw : SwellId
  op : Nat
  lane : Nat
  line : Nat
  arrives : Nat
  msg : Option Nat
deriving DecidableEq, Repr

/-- A COH directory record of a home (R345): line, exclusive, holders. -/
structure DirRec where
  line : Nat
  excl : Bool
  dies : BitVec 64
deriving DecidableEq, Repr

/-- A ROS granule with replicas (R346): granule number PA div 65,536, and each reader die with the replica's physical address. -/
structure RosRec where
  granule : Nat
  copies : List (Nat × Nat)
deriving DecidableEq, Repr

/-- Time discipline of a die (R367 to R369). -/
structure Disc where
  lock : Bool
  plock : Bool
  flock : Bool
  lead : Bool
  src : BitVec 2
  loss : BitVec 8
  ofs : BitVec 16
  /-- Consecutive Syncs with |o| ≤ 2, own ATIME at the last Sync, its number, the path delay, and the correction still to be made. -/
  good : Nat
  syncAt : Addr
  syncSeq : Nat
  delay : Nat
  slew : Int
  /-- The lead die holds over: it goes on at its last rate, and the correction does not run out (R367); the rate is the full one, or that under PLOCK. -/
  holdover : Option Bool
deriving DecidableEq, Repr

/-- An output of a link controller with packets in the spill region (R362, R363): edge (N 0, E 1, S 2, W 3), class, and the messages in their order. -/
structure LinkOut where
  edge : Nat
  cls : Nat
  spilled : List Nat
  /-- Messages that the full region has not taken, behind them (R362). -/
  blocked : List Nat
deriving DecidableEq, Repr

/-- A link spill register (R364). -/
structure SpillReg where
  spills : Word
  cls : BitVec 2
  occ : BitVec 19
deriving DecidableEq, Repr

/-- A meter record (R409): running counters and the published copy. -/
structure Meter where
  mxbusy : Addr
  vissue : Addr
  copyb : Addr
  hbmrd : Addr
  hbmwr : Addr
  meshb : Addr
  shelfb : Addr
  late : Addr
  energy : Addr
  seq : Addr
  published : Bytes
deriving DecidableEq, Repr

/-- A joined participant of a collective (R424). -/
structure CollPart where
  ctx : Nat
  id : Nat
  cluster : Nat
  engine : Nat
  seq : BitVec 24
deriving DecidableEq, Repr

/-- A die (R262 to R293, R344 to R382, R385, R430). -/
structure Die where
  /-- ATIME minus the model's tick count (R365; log 3). -/
  off : Int
  disc : Disc
  /-- Slice configuration registers as written (R270), by slice. -/
  sliceCfg : KV Word
  partition : List CacheLine
  /-- Local partitions of the slices (R268, R269). -/
  slices : List SliceLine
  /-- The die's error log: tiles whose second run failed, each core with its ATIME (R191). -/
  tileLog : List (Nat × Addr)
  /-- Errors corrected by ECC, by slice (R273). -/
  corrected : KV Word
  dir : List DirRec
  ros : List RosRec
  /-- Lines (PA div 256) with a miss outstanding at their slice, with the requests in the order they joined (R271). -/
  misses : KV (List MissReq)
  /-- Requests without a miss-status register or a place in the request store, in the order of their arrival: the first 64 of a slice are in its ingress queue, the others wait in the network (R271). -/
  missWait : List MissReq
  /-- Requests held at this home, in the order of their arrival. -/
  waiting : List HomeWait
  /-- Slab registers (R274), by slab. -/
  slabs : KV Word
  /-- Spare use of the shelf (R278): the retired bank, failure of the shelf. -/
  spare : Option Nat
  shelfFailed : Bool
  /-- The tick at which the copy to the spare bank ends (R278). -/
  copyEnd : Nat
  walks : List Walk
  walkCache : List WalkEnt
  tides : KV Tide
  watches : List Watch
  /-- Arms that wait for a watch entry (R212). -/
  armQueue : List Watch
  reqs : List PageReq
  sluice : Sluice
  links : List LinkOut
  spillRegs : KV SpillReg
  routes : List (BitVec 4)
  /-- The records of the die's core sites (R385): the fuse map; the retirement log, by site, reason and ATIME; the log entries cancelled, by site and place in the log. -/
  fuse : BitVec 256
  retired : List (Nat × Nat × Addr)
  reinstated : List (Nat × Nat)
  enabled : BitVec 256
  live : Bool
  updating : Bool
  measures : List (List Byte)
  clock : Nat
  emergency : Bool
  /-- HBM4E channels copied to a spare, and the tick at which the copy of the last of them ends (R432). -/
  hbmSpares : List Nat
  hbmCopyEnd : Nat
  hbmFailed : Bool
  colls : List CollPart
  /-- Collectives, by context and identifier, that have failed before the die joined: its participant fails with them (R424). -/
  collDead : List (Nat × Nat)
deriving DecidableEq, Repr

/-- What the device itself accesses memory for on a context's behalf: the pilot record, the teardown report, a swell's save slot, the last writes of a launch, the pixels of a tile, a bit of the re-shade map (R193, R327, R335, R397, R404, R408). -/
inductive DevUser where
  | create
  | teardown
  | save (uid : Nat)
  | done (launch : Nat)
  | tile (launch die tile : Nat)
  | bit (launch die tile : Nat)
deriving DecidableEq, Repr

/-- A window entry is read from the context's BAR0 bytes (R420). A context (R393 to R417). -/
structure Ctx where
  /-- BAR0 bytes of the context record, window table, error log and fault queue (R414). -/
  bar : Bytes
  apbase : Addr
  fqhead : Word
  fqtail : Word
  elhead : Word
  eltail : Word
  elovf : Word
  fvec : Addr
  /-- The tick of the last write of FVEC and the value before it: a fault taken in that tick uses the old value (R164). -/
  fvecWas : Option (Nat × Addr)
  /-- The sluice die list d_0 to d_(m−1) (R294, R295). -/
  sluiceDies : List Nat
  launches : Nat
  /-- Mailbox words kept while the pilot's core does not hold the partition, their full tags, and MBOVF (R399). -/
  mbWords : List Word
  mbFull : Word
  mbOvf : Word
  /-- Evicted swells whose image is in memory, with the save slot's address, and all evicted uids in order of eviction (R407). -/
  images : List (Nat × Addr × Swell)
  evicted : List Nat
  pasid : BitVec 20
  /-- ATS translations held for host pages, and pages refused (R412). -/
  ats : List (Nat × Nat)
  /-- Pages that accesses of the device for the context wait for, and pages refused to one of them, which it then does without (R327, R335, R397, R404). -/
  devWaits : List (Nat × DevUser)
  devDenied : List (Nat × DevUser)
deriving DecidableEq, Repr

/-- A bay record (R395). -/
structure Bay where
  entry : Addr
  args : Addr
  done : Addr
  tasks : Nat
  rect : Nat
  pri : Nat
  flags : Nat
  row0 : Nat
  col0 : Nat
  rows : Nat
  cols : Nat
  regs : Nat
  swells : Nat
  scratch : Nat
  l1 : Nat
deriving DecidableEq, Repr

/-- A render descriptor (R316). -/
structure RenderDesc where
  width : Nat
  height : Nat
  reshade : Bool
  gtab : Addr
  tmap : Addr
  bin : Addr
  binsz : Nat
  pmax : Nat
  pspc : Addr
  bspc : Addr
  ttab : Addr
  tcnt : Nat
  pregs : Nat
  cbase : Addr
  cpitch : Nat
  cfmt : Nat
  clear : List Word
  rmap : Addr
  fstat : Addr
deriving DecidableEq, Repr

/-- One pixel of the primitive-identifier store (R325): tile-local pixel number, depth, and the primitive. -/
structure PixelEnt where
  pix : Nat
  z : Word
  g : Nat
  p : Nat
deriving DecidableEq, Repr

/-- Progress of a tile (R325 to R330). -/
inductive TileState where | binning | opaqueRun | blendRun | finished
deriving DecidableEq, Repr

/-- A tile of a frame at its owner: its primitive list in token order, its visibility, its progress, and the blend swells not yet started. -/
structure Tile where
  tile : Nat
  prims : List Prim
  pixels : List PixelEnt
  st : TileState
  blends : List (Nat × Prim × Nat)
deriving DecidableEq, Repr

/-- The render state of one die for one frame (R323): held packets, received markers, the packets released to the binner in their order, tiles, end of binning. -/
structure RenderDie where
  die : Nat
  held : List Prim
  markers : List Nat
  released : Nat
  packets : List Prim
  tiles : List Tile
  binned : Bool
deriving DecidableEq, Repr

/-- The frame of a render launch (R316 to R338): NP per group, NF, the counters, and each die's part. -/
structure Frame where
  desc : RenderDesc
  tmap : List Nat
  /-- Draw number of each group (R316). -/
  draws : List Nat
  dies : List Nat
  np : KV Nat
  nf : Nat
  cull : Nat
  reshaded : Nat
  ovf : Bool
  parts : List RenderDie
  /-- Pixel and blend swells not yet started: die, role, and the registers V1 to V8, mask, neighbour indices and S registers they begin with. -/
  queued : List (Nat × Swell)
  /-- Re-shade map bits whose OR waits for a page (R335): the die that makes it and the tile. -/
  mapWaits : List (Nat × Nat)
deriving DecidableEq, Repr

/-- LQRY states of a launch (R402). -/
inductive LaunchState where | queued | running | complete | discarded
deriving DecidableEq, Repr

/-- An accepted launch (R401 to R405): record, the physical row and column of the bay's first core, counters, dealing cursors by bay core, and the frame of a render launch. -/
structure Launch where
  ctx : Nat
  handle : Word
  bayVa : Addr
  bay : Bay
  prow : Nat
  pcol : Nat
  pilot : Bool
  st : LaunchState
  started : Nat
  ended : Nat
  donated : Nat
  /-- Next task of each bay core (R403), by bay core number; a core not listed starts at its own number. -/
  cursors : KV Nat
  /-- Dies on which a task or swell of it has started (R274). -/
  ran : List Nat
  frame : Option Frame
  /-- The completion writes wait for a page (R404): step reached. -/
  doneStep : Nat
deriving DecidableEq, Repr

/-- A RECT entry (R389). -/
structure Rect where
  l2pb : Nat
  rows : Nat
  cols : Nat
  prow : Nat
  pcol : Nat
deriving DecidableEq, Repr

/-- A host port (R411, R418). -/
structure Port where
  die : Nat
  up : Bool
  apsel : BitVec 6
  apbase : Addr
deriving DecidableEq, Repr

/-- A put on its way (R422): who holds its ticket, its target, and the bytes read at the origin. -/
structure Put where
  ctx : Nat
  cluster : Nat
  engine : Nat
  seq : BitVec 24
  node : Nat
  win : Nat
  toff : Nat
  bytes : List Byte
  sig : Option (Nat × Word)
  tried : Nat
  /-- It waits for a live link of its mask (R419), or its acknowledgement has come. -/
  waiting : Bool
  acked : Bool
deriving DecidableEq, Repr

/-- What a collective of several packages has exchanged over its window in its present round (R424; log 84): the sources of this package's ranks that have left, and those of other ranks that have come; a rank that came twice brings the next round's. -/
structure CollXfer where
  ctx : Nat
  id : Nat
  win : Nat
  sent : List (Nat × List Byte)
  came : List (Nat × List Byte)
deriving DecidableEq, Repr

/-- Package registers and records (R371, R383, R388 to R392, R411 to R419, R431 to R433). -/
structure Pkg where
  rects : List Rect
  gen : Word
  l2p : List (BitVec 16)
  /-- Cores retired live whose rectangle is not yet enumerated again (R391). -/
  marked : List Nat
  links : KV (BitVec 16)
  lead : Nat
  ports : List Port
  primary : Nat
  pwrhr : Word
  ltol : Word
  node : Word
  serial : Addr
  routeTable : KV Word
  shoreLive : BitVec 28
  powerState : BitVec 2
  idleSince : Nat
  managed : Bool
  /-- A context has been created since boot (R366). -/
  ctxEver : Bool
  stagesOut : List Nat
  pumpsOut : List Nat
  /-- Feature-token cap of enabled cores (R387). -/
  cap : Nat
  puts : KV Put
  /-- Arrived puts that wait for a page, and whether they were refused it; acknowledgements sent with their REASON, newest first (R422). -/
  heldPuts : List (PutIn × Nat × Bool)
  acks : List (PutIn × Nat)
  xfers : List CollXfer
  /-- The last measurement report served (R430). -/
  report : List Byte
deriving DecidableEq, Repr

/-- Events the device itself makes next: the rows of the table that another part of the model causes. Each stands for the constructor of Instr of the same name. -/
inductive Internal where
  | asyncFaultDelivery (sw : SwellId)
  | lateNotice (fr : FragId) (tidemark : Addr)
  | loadResponse (sw : SwellId) (op : Nat)
  | atomicReply (sw : SwellId) (op : Nat)
  | mmaResult (sw : SwellId) (op : Nat)
  | reorderCompletion (core launch id : Nat)
  | accessTimeout (sw : SwellId) (op : Nat)
  | swellMoveOut (sw : SwellId)
  | swellMoveIn (sw : SwellId)
  | forcedDisplacement (core : Nat)
  | compaction (core : Nat)
  | swellEviction (sw : SwellId)
  | swellResume (ctx uid core slot : Nat)
  | tagWaiterService (core word : Nat)
  | valueWaitArm (fr : FragId) (lane : Nat)
  | homeWrite (msg : Nat)
  | l1WritebackDeadline (core line : Nat)
  | sliceMissFill (die slice line : Nat)
  | walkCompletion (die ctx page : Nat)
  | faultServiceRequest (die ctx page : Nat) (kind : ReqKind) (who : Option FragId)
  | timedLaneArrival (msg : Nat)
  | tideTick (die home : Nat)
  | twaitExpiry (fr : FragId)
  | shelfRefreshEnd (die bank : Nat)
  | slabRunRise (die slab : Nat)
  | enterRequest (req : SectReq)
  | leaveRequest (req : SectReq) (kind : LeaveKind)
  | seqtakeRequest (req : SectReq)
  | sectqRequest (req : SectReq)
  | sectionGrantReply (req : SectReq) (status : Word)
  | sectionTimeoutScan (die : Nat)
  | sluiceReload (die ctx : Nat) (key : Addr)
  | engineStep (cluster engine : Nat)
  | taskStart (core launch : Nat)
  | stealRequest (cluster launch : Nat)
  | stealRetry (cluster launch : Nat)
  | tcbShipment (cluster launch : Nat) (tasks : List Nat)
  | dispatcherRefill (die launch : Nat)
  | launchCompletion (launch : Nat)
  | primitivePacket (die launch : Nat) (prim : Prim)
  | endOfGroupMarker (die launch group : Nat)
  | tileShadeStart (die launch tile : Nat)
  | blendSwellsStart (die launch tile : Nat)
  | contextCreate (ctx : Nat)
  | contextSuspend (ctx : Nat)
  | contextResume (ctx : Nat)
  | contextTeardown (ctx : Nat)
  | contextFree (ctx : Nat)
  | mailboxWrite (ctx word : Nat) (v : Word)
  | faultAnswer (ctx : Nat) (word : Addr)
  | priPageRequest (ctx page : Nat) (kind : ReqKind) (who : Option FragId)
  | putArrival (put : PutIn)
  | putAcknowledgement (put : Nat) (reason : Nat)
  | putLinkTimeout (put : Nat)
  | collectiveExchange (ctx id : Nat) (remote : List (Nat × List Byte))
  | linkStallSpill (die edge cls : Nat)
  | linkSpillDrain (die edge cls : Nat)
  | syncTimer (die : Nat)
  | sync (die seq : Nat)
  | followUp (die : Nat) (t : Addr)
  | pdelayReqTimer (die : Nat)
  | pdelayReq (die : Nat) (t1 : Addr)
  | pdelayResp (die : Nat) (t1 t2 t3 : Addr)
  | lockLossTimeout (die : Nat)
  | plockBroadcast
  | meterUpdate (die : Nat)
  | suspectCoreService (core : Nat)
  | enumeration
  | routeTableCompute
  | powerStateEntry
  | powerStateWake
  | leadRoleMove
deriving DecidableEq, Repr

/-- What the next step does when no event is due: issue the words picked for a core in this tick, or with none left go on with the cores from that number on, and at their end let a tick pass (the model's own; log 3). -/
structure Turn where
  core : Nat
  picked : List FragId
deriving DecidableEq, Repr

/-- The machine. Swells are keyed by 32 · core + slot, clusters by 4 · die + cluster, meters by 64 · die + context, launches by the number at acceptance. -/
structure State where
  mem : Bytes
  /-- Sectors (PA div 32) with an uncorrectable error, each with the bytes not overwritten since (R273). -/
  badSectors : KV (BitVec 32)
  /-- Sectors with a correctable error that no access has met yet (R273). -/
  softSectors : List Nat
  hostMem : Bytes
  swells : KV Swell
  cores : KV Core
  clusters : KV Cluster
  dies : KV Die
  ctxs : KV Ctx
  launches : KV Launch
  meters : KV Meter
  msgs : KV Msg
  pkg : Pkg
  /-- Ticks since reset. -/
  now : Nat
  /-- The fragment that issues. -/
  cur : FragId
  turn : Turn
  /-- Inputs from outside, each with the tick it arrives at, in order. -/
  inbox : List (Nat × Instr)
  /-- Events the device has caused, each with the tick it is due at, in order. -/
  due : List (Nat × Internal)
  /-- Counters of the model: free values, swells, messages and puts. -/
  freeCtr : Nat
  nextUid : Nat
  nextMsg : Nat
deriving DecidableEq, Repr

/-- Reasons a step stops. Each is safe: the machine goes on where the model stops. -/
inductive Fault where
  /-- Raised by every instruction word when `cur` names no live fragment: no fragment issues it, so the manual gives it no effect. Safe. -/
  | noFragment
deriving DecidableEq, Repr

/-- Reasons an instruction has no meaning here. -/
inductive Refusal where
  /-- The instruction is not modelled yet. Raised by exec's own arm. Safe. -/
  | notModelled (mnemonic : String)
deriving DecidableEq, Repr

/-- An empty engine: SEQ 0, so that the first command has 1 (R244). -/
def Engine.init : Engine := { seq := 0, cmds := [], ended := [], stats := [] }

/-- A cluster after reset. -/
def Cluster.init : Cluster := { tlb := [], waiters := [], engines := Vector.replicate 5 Engine.init, store := [], steals := [] }

/-- A core after reset: boundaries 0, nothing held (R177, R192; logs 5, 6). -/
def Core.init : Core :=
  { bndReg := 0, bndScr := 0, bndTop := 0, ctx := none, scratch := [], full := [], badWords := [], l1 := [], tlb := [], latch := [],
    err := 0, mFree := 0, arrayBad := false, save := [], stopped := false }

/-- Time discipline after reset (R369). -/
def Disc.init : Disc :=
  { lock := false, plock := false, flock := false, lead := false, src := 0, loss := 0, ofs := 0, good := 0, syncAt := 0, syncSeq := 0, delay := 0, slew := 0, holdover := none }

/-- An empty sluice. -/
def Sluice.init : Sluice := { ents := [], waits := [], ingress := [], spills := 0, reloads := 0 }

/-- A die after reset: nothing cached, no slab, shelf in order, nothing fused or retired; the cores of a standard part are enabled, those of die-local rows 0 to 14: of the site numbers 64 · cluster + index, all but 184 to 191 and 248 to 255, which are row 15 (R387; log 6). -/
def Die.init : Die :=
  { off := 0, disc := Disc.init, sliceCfg := [], partition := [], slices := [], tileLog := [], corrected := [], dir := [], ros := [], misses := [], missWait := [], waiting := [], slabs := [], spare := none,
    shelfFailed := false, copyEnd := 0, walks := [], walkCache := [], tides := [], watches := [], armQueue := [], reqs := [], sluice := Sluice.init,
    links := [], spillRegs := [], routes := [], fuse := 0, retired := [], reinstated := [], enabled := BitVec.ofNat 256 (2 ^ 248 - 1 - 255 * 2 ^ 184),
    live := true, updating := false, measures := List.replicate 8 (List.replicate 32 0), clock := 1024, emergency := false,
    hbmSpares := [], hbmCopyEnd := 0, hbmFailed := false, colls := [], collDead := [] }

/-- A context after reset: free, registers 0 (R414). -/
def Ctx.init : Ctx :=
  { bar := [], apbase := 0, fqhead := 0, fqtail := 0, elhead := 0, eltail := 0, elovf := 0, fvec := 0, fvecWas := none, sluiceDies := [], launches := 0,
    mbWords := List.replicate 32 0, mbFull := 0, mbOvf := 0, images := [], evicted := [], pasid := 0, ats := [], devWaits := [], devDenied := [] }

/-- A meter after reset. -/
def Meter.init : Meter :=
  { mxbusy := 0, vissue := 0, copyb := 0, hbmrd := 0, hbmwr := 0, meshb := 0, shelfb := 0, late := 0, energy := 0, seq := 0, published := [] }

/-- An empty tide buffer, TIDESTAT 0 (R379). -/
def Tide.init : Tide := { buf := [], ingress := [], late := 0, fullw := 0 }

/-- The package after reset (R371, R389, R415; log 6): PWRHR.HDRM 0x100, the four ports of R411 with their links down, no rectangle, every shore link live. -/
def Pkg.init : Pkg :=
  { rects := [], gen := 0, l2p := [], marked := [], links := [], lead := 0,
    ports := [⟨0, false, 0, 0⟩, ⟨7, false, 0, 0⟩, ⟨56, false, 0, 0⟩, ⟨63, false, 0, 0⟩], primary := 0,
    pwrhr := 0x100, ltol := 0, node := 0, serial := 0, routeTable := [], shoreLive := BitVec.allOnes 28, powerState := 0, idleSince := 0,
    managed := true, ctxEver := false, stagesOut := [], pumpsOut := [], cap := 240, puts := [], heldPuts := [], acks := [], xfers := [], report := [] }

/-- The machine right after reset: nothing has run, memory lists nothing, no swell exists. A record that is not listed holds its initial value. -/
def State.reset : State :=
  { mem := [], badSectors := [], softSectors := [], hostMem := [], swells := [], cores := [], clusters := [], dies := [], ctxs := [], launches := [],
    meters := [], msgs := [], pkg := Pkg.init, now := 0, cur := ⟨0, 0, 0⟩, turn := ⟨0, []⟩, inbox := [], due := [],
    freeCtr := 0, nextUid := 1, nextMsg := 1 }

end Sys2Proof.Machine
end

