-- ==== Sys2Proof/Machine/Ops.lean ====
section
/-! DEFINITION. Named operations over the state: keyed lists and byte memories, records by number, registers and lanes, events, the error log, regions, taking and returning from a fault, and the unit of HINTs and instruction (R64 to R78). -/

namespace Sys2Proof

/-- The swell of a fragment. -/
def FragId.swell (id : FragId) : SwellId := ⟨id.key, id.uid⟩

/-- One fragment, wherever its swell has moved: the uid names the swell. -/
def FragId.same (a b : FragId) : Bool := a.uid == b.uid && a.ent == b.ent

end Sys2Proof

namespace Sys2Proof.Machine

/-! ## Keyed lists -/

/-- The value at a key. -/
def kvGet {α : Type} : KV α → Nat → Option α
  | [], _ => none
  | (j, v) :: t, k => if j = k then some v else kvGet t k

/-- Set the value at a key, keys kept rising. -/
def kvSet {α : Type} : KV α → Nat → α → KV α
  | [], k, v => [(k, v)]
  | (j, u) :: t, k, v => if k < j then (k, v) :: (j, u) :: t else if k = j then (k, v) :: t else (j, u) :: kvSet t k v

/-- Remove a key. -/
def kvErase {α : Type} (m : KV α) (k : Nat) : KV α := m.filter fun x => x.1 != k

/-! ## Byte memories -/

/-- The byte at an address; an unlisted address reads as 0 (log 1). -/
def byteAt : Bytes → Nat → Byte
  | [], _ => 0
  | (k, v) :: t, a => if k = a then v else byteAt t a

/-- List a byte at an address, addresses kept rising. -/
def insertByte : Bytes → Nat → Byte → Bytes
  | [], a, b => [(a, b)]
  | (k, v) :: t, a, b => if a < k then (a, b) :: (k, v) :: t else if a = k then (a, b) :: t else (k, v) :: insertByte t a b

/-- Write one byte, keeping the canonical form: addresses rising, no 0 listed. -/
def putByte (m : Bytes) (a : Nat) (b : Byte) : Bytes := if b = 0 then m.filter (fun c => c.1 != a) else insertByte m a b

/-- n bytes from an address, in rising order. -/
def readBytes (m : Bytes) (a : Nat) : Nat → List Byte
  | 0 => []
  | n + 1 => byteAt m a :: readBytes m (a + 1) n

/-- Write bytes from an address on, in rising order. -/
def writeBytes (m : Bytes) (a : Nat) : List Byte → Bytes
  | [] => m
  | b :: bs => writeBytes (putByte m a b) (a + 1) bs

/-- A little-endian number of n bytes (R3). -/
def readNat (m : Bytes) (a n : Nat) : Nat := natOfBytes (readBytes m a n)

/-- The bytes outside [lo, hi): the range reads as 0 afterwards. -/
def dropRange (m : Bytes) (lo hi : Nat) : Bytes := m.filter fun c => c.1 < lo || hi ≤ c.1

/-- The canonical form of a byte memory: addresses strictly rising from `lo`, no byte 0. -/
def Memory.wfFrom (lo : Nat) : Bytes → Bool
  | [] => true
  | (k, v) :: t => lo ≤ k && v != 0 && Memory.wfFrom (k + 1) t

/-- The canonical form of a byte memory. -/
def Memory.wf (m : Bytes) : Bool := Memory.wfFrom 0 m

/-! ## Numbers of cores, clusters and dies (R2) -/

/-- Core numbers are 256 · die + 64 · cluster + core index. -/
def coreOfKey (key : Nat) : Nat := key / 32
/-- Slot of a swell on its core. -/
def slotOfKey (key : Nat) : Nat := key % 32
/-- Die of a core. -/
def dieOfCore (c : Nat) : Nat := c / 256
/-- Cluster of a core: 4 · die + cluster index. -/
def clusterOfCore (c : Nat) : Nat := c / 64
/-- Core index within the cluster. -/
def coreIndex (c : Nat) : Nat := c % 64
/-- Die of a cluster. -/
def dieOfCluster (k : Nat) : Nat := k / 4
/-- Die of a swell's core. -/
def dieOfKey (key : Nat) : Nat := dieOfCore (coreOfKey key)
/-- Physical row of a core in the 128 × 128 grid. -/
def coreRow (c : Nat) : Nat := 16 * (dieOfCore c / 8) + 8 * (c / 64 % 4 / 2) + coreIndex c / 8
/-- Physical column of a core. -/
def coreCol (c : Nat) : Nat := 16 * (dieOfCore c % 8) + 8 * (c / 64 % 2) + coreIndex c % 8
/-- The core at a physical row and column. -/
def coreAt (row col : Nat) : Nat :=
  256 * (8 * (row / 16) + col / 16) + 64 * (2 * (row % 16 / 8) + col % 16 / 8) + 8 * (row % 8) + col % 8
/-- The layout of system register 0x12 (R164). -/
def coreCoords (c : Nat) : Word := BitVec.ofNat 32 (coreRow c * 65536 + coreCol c)

/-- Mesh hops between two dies. -/
def meshHops (a b : Nat) : Nat := (((a / 8 : Nat) : Int) - ((b / 8 : Nat) : Int)).natAbs + (((a % 8 : Nat) : Int) - ((b % 8 : Nat) : Int)).natAbs

/-! ## Records by number -/

/-- The core with a number. -/
def State.core (s : State) (c : Nat) : Core := (kvGet s.cores c).getD Core.init
/-- Replace a core. -/
def State.setCore (s : State) (c : Nat) (x : Core) : State := { s with cores := kvSet s.cores c x }
/-- Change a core. -/
def State.updCore (s : State) (c : Nat) (g : Core → Core) : State := s.setCore c (g (s.core c))
/-- The cluster with a number. -/
def State.cluster (s : State) (k : Nat) : Cluster := (kvGet s.clusters k).getD Cluster.init
/-- Replace a cluster. -/
def State.setCluster (s : State) (k : Nat) (x : Cluster) : State := { s with clusters := kvSet s.clusters k x }
/-- Change a cluster. -/
def State.updCluster (s : State) (k : Nat) (g : Cluster → Cluster) : State := s.setCluster k (g (s.cluster k))
/-- The die with an index. -/
def State.die (s : State) (d : Nat) : Die := (kvGet s.dies d).getD Die.init
/-- Replace a die. -/
def State.setDie (s : State) (d : Nat) (x : Die) : State := { s with dies := kvSet s.dies d x }
/-- Change a die. -/
def State.updDie (s : State) (d : Nat) (g : Die → Die) : State := s.setDie d (g (s.die d))
/-- The context with a number. -/
def State.ctx (s : State) (k : Nat) : Ctx := (kvGet s.ctxs k).getD Ctx.init
/-- Replace a context. -/
def State.setCtx (s : State) (k : Nat) (x : Ctx) : State := { s with ctxs := kvSet s.ctxs k x }
/-- Change a context. -/
def State.updCtx (s : State) (k : Nat) (g : Ctx → Ctx) : State := s.setCtx k (g (s.ctx k))
/-- Change a launch that exists. -/
def State.updLaunch (s : State) (l : Nat) (g : Launch → Launch) : State :=
  match kvGet s.launches l with
  | some x => { s with launches := kvSet s.launches l (g x) }
  | none => s
/-- The meter record of die d for context k. -/
def State.meter (s : State) (d k : Nat) : Meter := (kvGet s.meters (64 * d + k)).getD Meter.init
/-- Change a meter record. -/
def State.updMeter (s : State) (d k : Nat) (g : Meter → Meter) : State :=
  { s with meters := kvSet s.meters (64 * d + k) (g (s.meter d k)) }

/-! ## Time, choices and events -/

/-- ATIME of a die (R365). -/
def State.atime (s : State) (d : Nat) : Addr := BitVec.ofInt 64 ((s.now : Int) + (s.die d).off)

/-- A choice among n that the manual leaves open, and the counter advanced (log 12). -/
def State.choose (s : State) (n : Nat) : Nat × State :=
  (Config.freeChoice s.freeCtr n % n, { s with freeCtr := s.freeCtr + 1 })

/-- Insert an event behind all events due no later. -/
def insertDue (t : Nat) (e : Internal) : List (Nat × Internal) → List (Nat × Internal)
  | [] => [(t, e)]
  | (u, f) :: r => if t < u then (t, e) :: (u, f) :: r else (u, f) :: insertDue t e r

/-- Cause an event after a delay in ticks. -/
def State.post (s : State) (delay : Nat) (e : Internal) : State := { s with due := insertDue (s.now + delay) e s.due }

/-- Cause an event unless it is already to come. -/
def State.postOnce (s : State) (delay : Nat) (e : Internal) : State :=
  if s.due.any (fun x => x.2 == e) then s else s.post delay e

/-- Cause an event at a new time in place of those of the same name that are to come. -/
def State.repost (s : State) (delay : Nat) (e : Internal) : State := { s with due := s.due.filter fun (x : Nat × Internal) => x.2 != e }.post delay e

/-! ## Registers, lanes and fragments -/

/-- A split-table entry not in use. -/
def Frag.free : Frag :=
  { valid := false, st := 0, pc := 0, recon := 0, orecon := 0, rep := 0, mask := 0, region := 0, reissue := 0, wkind := 0, osfmt := 0, sfmt := 0,
    fmt := 0, onew := false, opart := 0, new := false, part := 0, waddr := 0, wval := 0, priv := 0, held0 := ⟨false, 0, 0⟩, held1 := ⟨false, 0, 0⟩,
    hints := ⟨none, []⟩, age := 0, heldFault := none, outst := [], wait := none, lastMma := none, denied := [], inCont := false, contAsk := none, redo := [], breakDue := false,
    walkWait := [], walkFail := [], tlbi := none, readyAt := 0, retryAt := 0 }

/-- An S register as read: S0 is zero (R32). -/
def Swell.sreg (w : Swell) (r : Reg) : Word := if r = 0 then 0 else w.s[r.toNat]'r.isLt
/-- Write an S register: S0 discards (R32). -/
def Swell.setS (w : Swell) (r : Reg) (x : Word) : Swell := if r = 0 then w else { w with s := w.s.set r.toNat x r.isLt }
/-- A V register. -/
def Swell.vreg (w : Swell) (r : Reg) : Row := w.v[r.toNat]'r.isLt
/-- The lanes of a mask take the new values, the others keep theirs (R38). -/
def mergeRow (mask : Word) (old new : Row) : Row := Vector.ofFn fun l => if mask.getLsbD l.val then new[l] else old[l]
/-- Write the lanes of a mask of a V register. -/
def Swell.setV (w : Swell) (mask : Word) (r : Reg) (x : Row) : Swell := { w with v := w.v.set r.toNat (mergeRow mask (w.vreg r) x) r.isLt }
/-- An S pair (R3). -/
def Swell.spair (w : Swell) (r : Reg) : Addr := pairVal (w.sreg r) (w.sreg (r + 1))
/-- A lane of a V pair. -/
def Swell.vpair (w : Swell) (r : Reg) (l : Fin 32) : Addr := pairVal (w.vreg r)[l] (w.vreg (r + 1))[l]
/-- Write an S pair. -/
def Swell.setSPair (w : Swell) (r : Reg) (x : Addr) : Swell := (w.setS r (loWord x)).setS (r + 1) (hiWord x)
/-- Write a list of words to S registers from r up. -/
def Swell.setSList (w : Swell) (r : Reg) : List Word → Swell
  | [] => w
  | x :: xs => Swell.setSList (w.setS r x) (r + 1) xs
/-- Write a list of words to one lane of V registers from r up. -/
def Swell.setLane (w : Swell) (l : Fin 32) (r : Reg) : List Word → Swell
  | [] => w
  | x :: xs => Swell.setLane { w with v := w.v.set r.toNat ((w.vreg r).set l.val x l.isLt) r.isLt } l (r + 1) xs
/-- OR flags into SCFG (R19, R35). -/
def Swell.orFlags (w : Swell) (fl : Word) : Swell := { w with scfg := w.scfg ||| fl, raised := w.raised ||| fl }

/-- The split-table entry with a number. -/
def Swell.ent (w : Swell) (e : Nat) : Frag := (w.ents[e]?).getD Frag.free
/-- Replace a split-table entry. -/
def Swell.setEnt (w : Swell) (e : Nat) (f : Frag) : Swell := { w with ents := w.ents.setIfInBounds e f }
/-- Live: in use and not exited (R44). -/
def Frag.live (f : Frag) : Bool := f.valid && f.st != 3
/-- The live entries of a swell, rising. -/
def Swell.liveEnts (w : Swell) : List Nat := (List.range 8).filter fun e => (w.ent e).live

/-- The mask that PM names (R5). -/
def pmMask (w : Swell) : Pm → Word
  | .all => BitVec.allOnes 32
  | .s1 => w.sreg 1
  | .s2 => w.sreg 2
  | .s3 => w.sreg 3

/-- lanes_active() (R5): the active mask ANDed with the register PM names. -/
def lanesActive (w : Swell) (f : Frag) (pm : Pm) : Word := f.mask &&& pmMask w pm

/-- The lanes of a mask, rising. -/
def lanesOf (m : Word) : List (Fin 32) := (List.finRange 32).filter fun l => m.getLsbD l.val

/-- The mask of a list of lanes. -/
def maskOf (ls : List (Fin 32)) : Word := ls.foldl (fun m l => m ||| BitVec.twoPow 32 l.val) 0

/-- Payload of a wide-immediate HINT of the unit. -/
def Hints.wide (h : Hints) : Option (BitVec 23) := h.words.findSome? fun | .wide p => some p | _ => none
/-- Payload of a modifiers HINT of the unit. -/
def Hints.mods (h : Hints) : Option ModHint := h.words.findSome? fun | .mods m => some m | _ => none
/-- Payload of a scheduling HINT of the unit. -/
def Hints.sched (h : Hints) : Option SchedHint := h.words.findSome? fun | .sched x => some x | _ => none

/-- The lane selection of a form without a PM field: PMX of its modifiers HINT (R76). -/
def Frag.pmx (f : Frag) : Pm := match f.hints.mods with | some m => m.pmx | none => .all
/-- The cache policy of a unit (R76). -/
def Frag.cp (f : Frag) : CachePol := match f.hints.mods with | some m => m.cp | none => .normal
/-- An acquire by ORD. -/
def Frag.acq (f : Frag) : Bool := match f.hints.mods with | some m => m.acq | none => false
/-- A release by ORD. -/
def Frag.rel (f : Frag) : Bool := match f.hints.mods with | some m => m.rel | none => false
/-- The lookahead of a form without an LA field (R78). -/
def Frag.lav (f : Frag) : Nat := match f.hints.sched with | some x => x.lav.toNat | none => 0

/-- Rounding mode of FMT (R16, R34). -/
def fmtRm (fmt : BitVec 12) : Rm := Rm.ofBits (fmt.extractLsb' 7 2)
/-- Rounding, saturation and flush of a unit: FMT, with RM and SAT replaced by an RSE modifiers HINT (R76). -/
def Frag.env (f : Frag) : FEnv :=
  match f.hints.mods with
  | some m => if m.rse then ⟨m.rm, m.sat, f.fmt.getLsbD 9⟩ else ⟨fmtRm f.fmt, f.fmt.getLsbD 10, f.fmt.getLsbD 9⟩
  | none => ⟨fmtRm f.fmt, f.fmt.getLsbD 10, f.fmt.getLsbD 9⟩
/-- HF of FMT (R34). -/
def Frag.hf (f : Frag) : Bool := f.fmt.getLsbD 6

/-- The first word of the unit at hand (R73). -/
def Frag.unitPc (f : Frag) : Pc := f.hints.first.getD f.pc

/-- The next word in address order, wrapping within the window (R148). -/
def nextPc (pc : Pc) : Pc := (pc.extractLsb' 32 24) ++ (pc.setWidth 32 + 4)
/-- A PC from the window of another and 32 low bits (R148). -/
def windowJoin (pc : Pc) (lo : Word) : Pc := (pc.extractLsb' 32 24) ++ lo

/-- The resident swell with a key and uid. -/
def State.swellAt (s : State) (sw : SwellId) : Option Swell :=
  match kvGet s.swells sw.key with
  | some w => if w.uid = sw.uid then some w else none
  | none => none

/-- Change a resident swell. -/
def State.updSwell (s : State) (sw : SwellId) (g : Swell → Swell) : State :=
  match s.swellAt sw with
  | some w => { s with swells := kvSet s.swells sw.key (g w) }
  | none => s

/-- A resident live fragment with its swell. -/
def State.fragAt (s : State) (id : FragId) : Option (Swell × Frag) :=
  match s.swellAt id.swell with
  | some w => if (w.ent id.ent).live then some (w, w.ent id.ent) else none
  | none => none

/-- Change a fragment of a resident swell. -/
def State.updFrag (s : State) (id : FragId) (g : Frag → Frag) : State :=
  s.updSwell id.swell fun w => w.setEnt id.ent (g (w.ent id.ent))

/-- Change the saved swell with a uid, in a save area or behind a memory image (R193). -/
def State.updSaved (s : State) (uid : Nat) (g : Swell → Swell) : State :=
  let one (w : Swell) : Swell := if w.uid = uid then g w else w
  { s with
    cores := s.cores.map fun (x : Nat × Core) => (x.1, { x.2 with save := x.2.save.map one })
    ctxs := s.ctxs.map fun (x : Nat × Ctx) => (x.1, { x.2 with images := x.2.images.map fun y => (y.1, y.2.1, one y.2.2) }) }

/-- The saved swells. -/
def State.savedSwells (s : State) : List Swell :=
  s.cores.flatMap (fun x => x.2.save) ++ s.ctxs.flatMap (fun x => x.2.images.map fun y => y.2.2)

/-- The key and record of a resident swell found by its uid. -/
def State.findUid (s : State) (uid : Nat) : Option (Nat × Swell) := s.swells.find? fun x => x.2.uid == uid

/-- The launch of a resident swell. -/
def swellLaunch (s : State) (uid : Nat) : Nat := match s.findUid uid with | some x => x.2.launch | none => 0

/-- Change a swell wherever it is. -/
def State.updUid (s : State) (uid : Nat) (g : Swell → Swell) : State :=
  match s.findUid uid with
  | some (k, w) => { s with swells := kvSet s.swells k (g w) }
  | none => s.updSaved uid g

/-! ## Context record fields and the error log -/

/-- A field of a context's record or registers (R393, R414). -/
def Ctx.field (c : Ctx) (off n : Nat) : Nat := readNat c.bar off n
/-- PTROOT. -/
def Ctx.ptroot (c : Ctx) : Nat := c.field 0x00 8
/-- STATE (R394). -/
def Ctx.status (c : Ctx) : Nat := c.field 0x55 1
/-- Set STATE. -/
def Ctx.setStatus (c : Ctx) (v : Nat) : Ctx := { c with bar := putByte c.bar 0x55 (BitVec.ofNat 8 v) }

/-- An error-log record (R416). -/
structure LogRec where
  kind : Nat
  die : Nat
  addr : Addr
  code : Nat
  reason : Nat
  core : Word
  info : Addr
deriving DecidableEq, Repr

/-- The 32 bytes of an error-log record (R416). -/
def logBytes (time : Addr) (r : LogRec) : List Byte :=
  bytesOfNat time.toNat 8 ++ bytesOfNat r.addr.toNat 8 ++ bytesOfNat r.kind 1 ++ bytesOfNat r.die 1 ++ bytesOfNat r.code 1 ++ bytesOfNat r.reason 1 ++
    bytesOfNat r.core.toNat 4 ++ bytesOfNat r.info.toNat 8

/-- Write a record to a context's error log: a full ring drops it and counts it in ELOVF (R416). -/
def State.logError (s : State) (ctx : Nat) (r : LogRec) : State :=
  s.updCtx ctx fun c =>
    if c.elhead - c.eltail = 256 then { c with elovf := if c.elovf = BitVec.allOnes 32 then c.elovf else c.elovf + 1 }
    else { c with bar := writeBytes c.bar (0x24000 + 32 * (c.elhead.toNat % 256)) (logBytes (s.atime r.die) r), elhead := c.elhead + 1 }

/-! ## Packets between dies (R266, R361 to R364) -/

/-- The code of the output by which a die's packets for another die leave (R361, R384): 0 local, 1 N, 2 E, 3 S, 4 W; along the row first where no table has been written. -/
def routeCode (s : State) (a b : Nat) : Nat :=
  match (s.die a).routes[b]? with
  | some e => e.toNat
  | none => if a = b then 0 else if a % 8 < b % 8 then 2 else if b % 8 < a % 8 then 4 else if a / 8 < b / 8 then 3 else 1

/-- The die that a packet enters by an output of a die. -/
def nextDie (d code : Nat) : Nat := match code with | 1 => d - 8 | 2 => d + 1 | 3 => d + 8 | 4 => d - 1 | _ => d

/-- The outputs that a packet takes from a die on: die and code. -/
def outputsTo (s : State) (b : Nat) : Nat → Nat → List (Nat × Nat)
  | 0, _ => []
  | n + 1, a => if a = b then [] else (a, routeCode s a b) :: outputsTo s b n (nextDie a (routeCode s a b))

/-- The line of a message's place. -/
def Msg.line (m : Msg) : Nat := m.loc.pa / 256

/-- The die that sent a message. -/
def Msg.src (m : Msg) : Nat := dieOfKey m.fr.key

/-- Bytes of memory that a request names. -/
def Msg.size (m : Msg) : Nat :=
  match m.kind with
  | .store bs | .timedStore bs _ => bs.length
  | .load _ _ n | .timedLoad _ _ n _ => n
  | .atomic _ _ _ _ _ | .arm _ => 4
  | .merge _ _ | .prefetch _ => 256
  | .sect _ _ | .prim _ | .marker _ => 0

/-- Flits of a message: a header, and its data by 64 bytes (R264); a primitive packet is one flit (R321). -/
def Msg.flits (m : Msg) : Nat :=
  match m.kind with
  | .store _ | .timedStore _ _ | .merge _ _ => 1 + (m.size + 63) / 64
  | .atomic _ _ _ _ _ | .arm _ => 2
  | .load _ _ _ | .timedLoad _ _ _ _ | .prefetch _ | .sect _ _ | .prim _ | .marker _ => 1

/-- A timed lane. -/
def Msg.timed (m : Msg) : Bool := match m.kind with | .timedStore _ _ | .timedLoad _ _ _ _ => true | _ => false

/-- The event of a message at its home (HOME_WRITE stands for every request that is not timed; log 2). -/
def Msg.event (m : Msg) (k : Nat) : Internal := if m.timed then .timedLaneArrival k else .homeWrite k

/-- Ticks of a packet between two places (R181; log 2). -/
def transit (a b : Nat) : Nat := 20 + 40 * meshHops a b

/-- Flits of a list of messages. -/
def flitsOf (s : State) (ks : List Nat) : Nat := (ks.map fun k => match kvGet s.msgs k with | some m => m.flits | none => 0).sum

/-- Flits that an edge of a die holds in the spill region. -/
def spillFlits (s : State) (d edge : Nat) : Nat := (((s.die d).links.filter fun x => x.edge == edge).map fun x => flitsOf s x.spilled).sum

/-- Room of a die's spill region of 262,144 flits (R362). -/
def spillRoom (s : State) (d : Nat) : Nat := 262144 - ((List.range 4).map (spillFlits s d)).sum

/-- Write OCC of an edge anew, saturating at 2^19 − 1 (R364). -/
def noteSpill (s : State) (d edge : Nat) : State :=
  s.updDie d fun x =>
    let r := (kvGet x.spillRegs edge).getD ⟨0, 0, 0⟩
    { x with spillRegs := kvSet x.spillRegs edge { r with occ := BitVec.ofNat 19 (Nat.min (spillFlits s d edge) (2 ^ 19 - 1)) } }

/-- Requests are class 0 (R265). -/
def LinkOut.carries (x : LinkOut) (code : Nat) : Bool := x.edge + 1 == code && x.cls == 0

/-- A die corrects its ATIME at the full rate, one tick in 1,024: the lead die does not under PLOCK, and in holdover it keeps the rate it had (R365, R367; log 73). -/
def Disc.fast (d : Disc) : Bool := d.holdover.getD !(d.lead && d.plock)

/-- An output's queue stands in the spill region: later packets go behind it (R363). -/
def LinkOut.stalled (x : LinkOut) : Bool := x.spilled != [] || x.blocked != []

/-- The outputs on a message's way from a die to another that hold packets in a spill region: the first (R362). -/
def stalledOn (s : State) (d h : Nat) : Option (Nat × Nat) := (outputsTo s h 64 d).find? fun o => (s.die o.1).links.any fun x => x.carries o.2 && x.stalled

/-- The tick at which the last packet on its way from a die to another, but for message own, arrives; 0 with none. -/
def lastArrival (s : State) (own d h : Nat) : Nat :=
  s.due.foldl (fun t x =>
    let k := match x.2 with | .homeWrite k => some k | .timedLaneArrival k => some k | _ => none
    match k.bind (kvGet s.msgs) with
    | some m => if k ≠ some own ∧ m.src = d ∧ m.loc.die = h ∧ m.loc.host = false ∧ !(s.die h).waiting.any (fun y => some y.msg == k) then Nat.max t x.1 else t
    | none => t) 0

/-- A message goes on from a die: behind the spilled packets of the first output on its way that holds some, when the region has room, else behind those that the full region has not taken; with none it reaches its home after the transit, and no earlier than what its die has sent there before (R361 to R363). -/
def State.forward (s : State) (d k : Nat) (m : Msg) : State :=
  match if m.loc.host then none else stalledOn s d m.loc.die with
  | none => s.post (Nat.max (transit d m.loc.die) (lastArrival s k m.src m.loc.die - s.now)) (m.event k)
  | some o =>
    let take (x : LinkOut) : LinkOut :=
      if x.blocked = [] ∧ m.flits ≤ spillRoom s o.1 then { x with spilled := x.spilled ++ [k] } else { x with blocked := x.blocked ++ [k] }
    noteSpill (s.updDie o.1 fun x => { x with links := x.links.map fun y => if y.carries o.2 then take y else y }) o.1 (o.2 - 1)

/-- Give a message its number. -/
def State.numberMsg (s : State) (m : Msg) : State := { s with msgs := kvSet s.msgs s.nextMsg m, nextMsg := s.nextMsg + 1 }

/-- A message sets out. -/
def State.sendMsg (s : State) (m : Msg) : State := (s.numberMsg m).forward m.src s.nextMsg m

/-! ## Waiters at their owning core (R231) -/

/-- Waiters of a core that hold one of its 512 watch entries, or need none (R231, R238). -/
def waiterArmed (ws : List TagWaiter) (y : TagWaiter) : Bool :=
  y.arrival || ((ws.filter fun z => z.core == y.core && !z.arrival).take 512).contains y

/-- Waiters leave their lists; one that now gets a watch entry is looked at (R231). -/
def State.dropWaiters (s : State) (p : TagWaiter → Bool) : State :=
  s.clusters.foldl (fun s x =>
    let ws := x.2.waiters.filter fun y => !p y
    if ws.length = x.2.waiters.length then s
    else (ws.filter fun y => waiterArmed ws y && !waiterArmed x.2.waiters y).foldl (fun s y => s.postOnce 1 (.tagWaiterService y.core y.word))
      (s.updCluster x.1 fun k => { k with waiters := ws })) s

/-! ## Regions, ends and faults -/

/-- A refused request is of the code that the fragment runs now: the program, its continuation or the handler. -/
def Denial.here (x : Denial) (f : Frag) : Bool := x.inCont == f.inCont && x.super == (f.priv != 0)

/-- A new region of the fragment in entry e begins at its PC (R47); a refusal of another region of the same code is over (R52). -/
def Swell.newRegion (w : Swell) (e : Nat) : Swell :=
  let f := w.ent e
  { w with region := w.region + 1 }.setEnt e
    { f with rep := f.pc, region := w.region + 1, breakDue := true, denied := f.denied.filter fun x => !x.here f || x.rep == f.pc }

/-- The numbers of R55. -/
def FaultCode.num : FaultCode → Nat
  | .illegal => 0x01 | .regrange => 0x02 | .format => 0x03 | .align => 0x04 | .xlate => 0x05 | .perm => 0x06 | .cls => 0x07 | .scratch => 0x08
  | .data => 0x09 | .array => 0x0A | .splitovf => 0x0B | .sectorder => 0x0C | .sectstall => 0x0D | .sectstate => 0x0E | .late => 0x0F
  | .shelfw => 0x10 | .engine => 0x11 | .trap => 0x12 | .bkpt => 0x13 | .window => 0x14 | .timeout => 0x15 | .launch => 0x16

/-- The layout of FCAUSE (R57). -/
def fcauseWord (asyn restart : Bool) (detail ent lane code : Nat) : Word :=
  BitVec.ofNat 32 ((if asyn then 2 ^ 31 else 0) + (if restart then 2 ^ 30 else 0) + detail % 256 * 65536 + ent % 8 * 8192 + lane % 32 * 256 + code)

/-- DETAIL of a memory fault: bit 16 write, bit 17 instruction fetch (R57). -/
def FaultRec.detail (r : FaultRec) : Nat := (if r.write then 1 else 0) + (if r.fetch then 2 else 0)

/-- A fault that names only a value. -/
def plainFault (c : FaultCode) (v : Addr) : FaultRec := ⟨c, v, 0, false, false⟩

/-- Wake-word offset of a slot: BND.SCR − BND.REG − 128 + 4 · slot (R52). -/
def wakeOffset (c : Core) (slot : Nat) : Nat := c.bndScr.toNat - c.bndReg.toNat - 128 + 4 * slot

/-- The fault token of a slot (R52): core index in bits 24:19, offset in bits 18:0. -/
def faultToken (s : State) (key : Nat) : Word :=
  BitVec.ofNat 32 (coreIndex (coreOfKey key) * 2 ^ 19 + wakeOffset (s.core (coreOfKey key)) (slotOfKey key))

/-- Insert a number in a rising list. -/
def insertNat (n : Nat) : List Nat → List Nat
  | [] => [n]
  | m :: t => if n < m then n :: m :: t else if n = m then m :: t else m :: insertNat n t

/-- Write a scratch word and its tag. -/
def Core.setWord (c : Core) (off : Nat) (v : Word) (full : Bool) : Core :=
  { c with scratch := writeBytes c.scratch off (wordBytes v), full := if full then insertNat (off / 4) c.full else c.full.filter fun n => n != off / 4,
           badWords := c.badWords.filter fun n => n != off / 4 }

/-- The launch's other work looks again after a swell, message or command ended: a completion, a free slot, a suspend request (R403, R404, R406). -/
def State.nudge (s : State) (core launch ctx : Nat) : State :=
  let s := s.postOnce 1 (.launchCompletion launch)
  let s := s.postOnce 1 (.taskStart core launch)
  if (s.ctx ctx).status = 3 then s.postOnce 1 (.contextSuspend ctx) else s

/-- What a render swell's end causes (R322, R327 to R330): its group's marker goes to every owner, behind every packet of the group, or its tile goes on. -/
def State.roleEnd (s : State) (die : Nat) (w : Swell) : State :=
  match kvGet s.launches w.launch with
  | none => s
  | some l =>
    match l.frame with
    | none => s
    | some fr =>
      match w.role with
      | .group =>
        fr.dies.foldl (fun s d => s.sendMsg ⟨⟨256 * 32 * die, w.uid, 0⟩, w.ctx, w.launch, 0, ⟨0, .dp, false, d, false⟩, .marker w.task.toNat⟩) s
      | .opaquePix t => fr.parts.foldl (fun s p => if p.tiles.any (fun x => x.tile = t) then s.postOnce 1 (.blendSwellsStart p.die w.launch t) else s) s
      | .blendPix t _ _ => fr.parts.foldl (fun s p => if p.tiles.any (fun x => x.tile = t) then s.postOnce 1 (.blendSwellsStart p.die w.launch t) else s) s

/-- REORDER collectives of a launch on a core look again (R220). -/
def State.reorderCheck (s : State) (core launch : Nat) : State :=
  (s.swells.filter fun x => coreOfKey x.1 = core && x.2.launch = launch).foldl
    (fun s x => x.2.liveEnts.foldl (fun s e => (x.2.ent e).outst.foldl
      (fun s o => match o.kind with | .reorder id _ _ _ none => s.postOnce 0 (.reorderCompletion core launch id) | _ => s) s) s) s

/-- The core of a bay by its number (R403). -/
def Launch.coreNum (l : Launch) (i : Nat) : Nat := coreAt (l.prow + i / l.bay.cols) (l.pcol + i % l.bay.cols)

/-- Swells of a launch that has run on a die may still start there (R274): unstarted tasks are dealt to it, or may be donated to it, or its tiles are not finished. -/
def State.moreOnDie (s : State) (d lid : Nat) (l : Launch) : Bool :=
  (l.st == .queued || l.st == .running) && l.ran.contains d &&
    ((decide (l.started < l.bay.tasks) &&
        (l.bay.flags / 2 % 2 == 1 || (s.clusters.any fun x => dieOfCluster x.1 == d && x.2.store.any fun t => t.launch == lid)
          || (List.range (l.bay.rows * l.bay.cols)).any fun i =>
              decide ((kvGet l.cursors i).getD i < l.bay.tasks) && (dieOfCore (l.coreNum i) == d || s.pkg.marked.contains (l.coreNum i))))
      || match l.frame with
        | some f => f.parts.any fun p => p.die == d && (f.queued.any (fun x => x.1 == d) || p.tiles.any fun t => t.st != .finished)
        | none => false)

/-- Whether a context has a launch running on a die (R274): a swell of it that has not ended is there, or was evicted there, or more of a launch that has run there will start there. -/
def State.runsOnDie (s : State) (d ctx : Nat) : Bool :=
  (s.swells.any fun x => dieOfKey x.1 == d && x.2.ctx == ctx) || (s.cores.any fun x => dieOfCore x.1 == d && x.2.save.any fun w => w.ctx == ctx)
    || ((s.ctx ctx).images.any fun x => dieOfCore x.2.2.core == d) || s.launches.any fun x => x.2.ctx == ctx && s.moreOnDie d x.1 x.2

/-- RUN of the context's slabs on a die falls when it has no launch running there (R274). -/
def State.slabRunFall (s : State) (d ctx : Nat) : State :=
  if s.runsOnDie d ctx then s
  else s.updDie d fun k => { k with slabs := k.slabs.map fun (x : Nat × Word) =>
    if (x.2.getLsbD 31 && (x.2.extractLsb' 0 6).toNat == ctx) then (x.1, x.2 &&& ~~~(BitVec.twoPow 32 30)) else x }

/-- A number of no context. -/
def noCtx : Nat := 64

/-- Sluices with requests at their ingress, or entries served in a spill region, look at them again, once a record has gone (R310, R313, R314): a reload of no entry. -/
def State.sluiceLook (s : State) : State :=
  s.dies.foldl (fun s (x : Nat × Die) =>
    if x.2.sluice.ingress = [] ∧ !x.2.sluice.ents.any (fun e => e.mems) then s else s.postOnce 0 (.sluiceReload x.1 noCtx 0)) s

/-- A swell ends (R44, R59): its slot is free, its waits are gone, its launch counts it. -/
def State.endSwell (s : State) (sw : SwellId) : State :=
  match s.swellAt sw with
  | none => s
  | some w =>
    let c := coreOfKey sw.key
    let s := { s with
      swells := kvErase s.swells sw.key
      dies := s.dies.map fun (x : Nat × Die) => (x.1, { x.2 with
        watches := x.2.watches.filter fun y => y.fr.uid != w.uid
        armQueue := x.2.armQueue.filter fun y => y.fr.uid != w.uid
        sluice := { x.2.sluice with waits := x.2.sluice.waits.filter fun y => y.req.fr.uid != w.uid } }) }
    let s := s.sluiceLook.dropWaiters fun y => y.fr.uid == w.uid
    let s := s.updCore c fun x => { x with latch := x.latch.filter fun y => y.slot != slotOfKey sw.key }
    let s := s.updLaunch w.launch fun l => match w.role with | .group => { l with ended := l.ended + 1 } | _ => l
    let s := s.roleEnd (dieOfCore c) w
    let s := s.reorderCheck c w.launch
    let s := s.slabRunFall (dieOfCore c) w.ctx
    s.nudge c w.launch w.ctx

/-- The bits of FVEC that hold an address: 55:2 (R164). -/
def fvecPc (v : Addr) : Pc := v.setWidth 56 &&& ~~~3#56

/-- FVEC for a fault taken now: in the tick of a write the value before it (R164). -/
def Ctx.fvecNow (c : Ctx) (now : Nat) : Addr :=
  match c.fvecWas with
  | some (t, v) => if t = now then v else c.fvec
  | none => c.fvec

/-- Write FVEC (R164). -/
def Ctx.setFvec (c : Ctx) (now : Nat) (v : Addr) : Ctx := { c with fvecWas := some (now, c.fvecNow now), fvec := (fvecPc v).setWidth 64 }

/-- Enter the handler (R58): FPC, FCAUSE, FVAL and FREC are written, the fragment runs at FVEC in supervisor privilege with STATE 5, and other fragments' faults are held (R59). REP becomes the entry (log 20). -/
def State.enterHandler (s : State) (id : FragId) (cause : Word) (fval : Addr) : State :=
  s.updSwell id.swell fun w =>
    let f := w.ent id.ent
    let vec := fvecPc ((s.ctx w.ctx).fvecNow s.now)
    { w with fcause := cause, fpc := f.unitPc.setWidth 64, fval := fval, frec := f.region, busy := true, busyEnt := BitVec.ofNat 3 id.ent }.setEnt id.ent
      { f with priv := 1, st := 5, pc := vec, rep := vec, hints := ⟨none, []⟩, wkind := 0, waddr := 0, wval := 0, wait := none, age := 0,
               walkWait := [], walkFail := [], lastMma := none, readyAt := s.now }

/-- A precise non-restartable fault (R58): the handler runs; while another fragment is in the handler the fault is held with STATE 4; a fault of the handling fragment ends the swell and is logged (R59). -/
def State.takePrecise (s : State) (id : FragId) (r : FaultRec) : State :=
  match s.fragAt id with
  | none => s
  | some (w, f) =>
    if w.busy then
      if w.busyEnt.toNat = id.ent then
        (s.logError w.ctx ⟨1, dieOfKey id.key, f.unitPc.setWidth 64, r.code.num, 0, coreCoords (coreOfKey id.key), r.fval⟩).endSwell id.swell
      else s.updFrag id fun f => { f with st := 4, pc := f.unitPc, hints := ⟨none, []⟩, heldFault := some r, walkWait := [], walkFail := [] }
    else s.enterHandler id (fcauseWord false false r.detail id.ent r.lane r.code.num) r.fval

/-- The 64 KiB page number of a virtual address. -/
def pageOf (va : Addr) : Nat := va.toNat / 65536

/-- A restartable fault (R50, R51): the PC returns to REP; the continuation is entered when CONT allows, else the fragment waits for the fault service with WKIND 8. Inside the handler CONT is not used (R59). -/
def State.takeRestart (s : State) (id : FragId) (r : FaultRec) : State :=
  match s.fragAt id with
  | none => s
  | some (w, f) =>
    let kind : ReqKind := ⟨r.write, r.fetch, false, false⟩
    let ask := Internal.faultServiceRequest (dieOfKey id.key) w.ctx (pageOf r.fval) kind (some id)
    if w.cont ≠ 0 ∧ w.contMark = false ∧ f.priv = 0 then
      let tok := faultToken s id.key
      let s := s.updCore (coreOfKey id.key) fun c => c.setWord (wakeOffset c (slotOfKey id.key)) 0 false
      let s := s.updSwell id.swell fun w =>
        ((((w.setS 120 tok).setS 121 (f.rep.setWidth 32)).setS 122 (loWord r.fval)).setS 123 (hiWord r.fval))
      let s := s.updSwell id.swell fun w =>
        { w with contMark := true }.setEnt id.ent
          { f with pc := w.window ++ w.cont, inCont := true, contAsk := some (pageOf r.fval, f.rep), redo := [], hints := ⟨none, []⟩, walkWait := [], walkFail := [], lastMma := none, age := 0 }
      s.post 1 ask
    else
      let s := s.updFrag id fun f =>
        { f with pc := f.rep, redo := [], hints := ⟨none, []⟩, st := 1, wkind := 8, waddr := r.fval, wait := some (.service (pageOf r.fval) r.fval),
                 walkWait := [], walkFail := [], lastMma := none, age := 0 }
      s.post 1 ask

/-- The access that repeats the one whose request was answered 2 (R52): to its page, in the region run again, which is the program's, the continuation's or the handler's. -/
def Frag.refused (f : Frag) (page : Nat) : Bool := f.denied.any fun x => x.page == page && x.here f

/-- Take a fault of the fragment: XLATE is restartable, every other precise (R55); the access after an answer of 2 takes PERM once (R52). -/
def State.takeFault (s : State) (id : FragId) (r : FaultRec) : State :=
  match r.code with
  | .xlate =>
    match s.fragAt id with
    | some (_, f) =>
      if f.refused (pageOf r.fval) then (s.updFrag id fun f => { f with denied := f.denied.filter fun x => !(x.page == pageOf r.fval && x.here f) }).takePrecise id { r with code := .perm }
      else s.takeRestart id r
    | none => s
  | _ => s.takePrecise id r

/-- The lowest-numbered entry with a held fault takes it (R162). -/
def State.takeHeld (s : State) (sw : SwellId) : State :=
  match s.swellAt sw with
  | none => s
  | some w =>
    match (List.range 8).find? fun e => (w.ent e).valid && (w.ent e).st == 4 with
    | none => s
    | some e =>
      match (w.ent e).heldFault with
      | none => s
      | some r =>
        (s.updFrag ⟨sw.key, sw.uid, e⟩ fun f => { f with heldFault := none, st := 0 }).enterHandler ⟨sw.key, sw.uid, e⟩
          (fcauseWord false false r.detail e r.lane r.code.num) r.fval

/-- A pending asynchronous fault of a swell is looked at in this tick (R60, R154). -/
def State.lookPending (s : State) (sw : SwellId) : State :=
  match s.swellAt sw with
  | some w => if w.pend.late || w.pend.engine then s.postOnce 0 (.asyncFaultDelivery sw) else s
  | none => s

/-- Return from the handler (R162): FPC and FREC restored, user privilege, the handler-busy mark clear; then the lowest held fault is taken, and an asynchronous fault still pending is looked at again (R60). -/
def State.returnHandler (s : State) (id : FragId) : State :=
  let s := s.updSwell id.swell fun w =>
    let f := w.ent id.ent
    { w with busy := false }.setEnt id.ent
      { f with pc := w.fpc.setWidth 56, rep := w.fpc.setWidth 56, region := w.frec, st := 0, priv := 0, hints := ⟨none, []⟩, breakDue := false, age := 0, lastMma := none, readyAt := s.now,
               denied := f.denied.filter fun x => !x.super }
  (s.takeHeld id.swell).lookPending id.swell

/-! ## The unit of HINTs and instruction -/

/-- What a word accepts and causes: the HINT sub-fields of R75 to R78, whether the next instruction begins a region (R47), the register HOLD keeps and the V registers it writes (R69). -/
structure Form where
  wide : Bool := false
  pmx : Bool := false
  acq : Bool := false
  rel : Bool := false
  cp : Bool := false
  rse : Bool := false
  te : Bool := false
  lae : Bool := false
  /-- Refuses TPE: only the value waits do, whose rule leaves it out (R210; log 68). -/
  noTpe : Bool := false
  brk : Bool := false
  hold : Option Reg := none
  writes : List Reg := []
deriving DecidableEq, Repr

/-- Whether a word of this form accepts a HINT (R74 to R78). -/
def Form.accepts (fm : Form) : HintWord → Bool
  | .wide _ => fm.wide
  | .mods m => (fm.pmx || m.pmx == .all) && (fm.acq || !m.acq) && (fm.rel || !m.rel) && (fm.cp || m.cp == .normal) && (fm.rse || !m.rse) && (fm.te || !m.te)
  | .sched x => (fm.lae || !x.lae) && !(fm.noTpe && x.tpe)

/-- The word of a HINT (R75, R76, R78). -/
def HintWord.word : HintWord → Word
  | .wide p => packHint 0 p
  | .mods m => packHint 1 m.bits
  | .sched x => packHint 2 x.bits

/-- What a unit comes to. -/
inductive Done where
  /-- Performed; the next word in address order follows. -/
  | next (s : State)
  /-- Performed; another PC follows. -/
  | jump (s : State) (pc : Pc)
  /-- Performed, with the fragment's PC and STATE set by the effect itself. -/
  | whole (s : State)
  /-- A fault: nothing of the instruction is performed. -/
  | fault (s : State) (r : FaultRec)
  /-- Not yet: the word issues again later. -/
  | stall (s : State)

/-- Operand-latch entries after a word of the fragment (R69, R180): entries of written registers and of two served instructions go, a new hold comes last unless the word itself writes its register, the three newest stay. -/
def holdLatch (l : List LatchEnt) (slot ent : Nat) (fm : Form) : List LatchEnt :=
  let l : List LatchEnt := l.filterMap fun x =>
    if x.slot = slot ∧ fm.writes.any (fun r => r.toNat = x.reg) then none
    else if x.slot = slot ∧ x.ent = ent then (if x.left ≤ 1 then none else some { x with left := x.left - 1 })
    else some x
  let l : List LatchEnt := match fm.hold with
    | some r => if fm.writes.contains r then l else l ++ [LatchEnt.mk slot ent r.toNat 2]
    | none => l
  l.drop (l.length - 3)

/-- The operand latch after a word of the fragment (R69). -/
def State.latchWord (s : State) (id : FragId) (fm : Form) : State :=
  s.updCore (coreOfKey id.key) fun c => { c with latch := holdLatch c.latch (slotOfKey id.key) id.ent fm }

/-- Values held for fragments of a swell that are gone leave the operand latch: a hold never supplies another fragment (R69). -/
def State.latchFreed (s : State) (sw : SwellId) : State :=
  match s.swellAt sw with
  | some w => s.updCore (coreOfKey sw.key) fun c => { c with latch := c.latch.filter fun x => x.slot != slotOfKey sw.key || (w.ent x.ent).live }
  | none => s

/-- The operand latch after a word that sets its fragment's PC and STATE itself, which it counts as any other (R69). -/
def State.latchWhole (s : State) (id : FragId) : State := (s.latchWord id {}).latchFreed id.swell

/-- Registers of a swell have been written: values held of them in the operand latch go (R69). -/
def State.dropHeld (s : State) (key : Nat) (rs : List Nat) : State :=
  s.updCore (coreOfKey key) fun c => { c with latch := c.latch.filter fun x => !(x.slot == slotOfKey key && rs.contains x.reg) }

/-- The unit ends in a yield: YA of its scheduling HINT (R78). -/
def Frag.yields (f : Frag) : Bool := match f.hints.sched with | some x => x.ya | none => false

/-- The PC behind a unit: the next one in order, or where REISSUE sends a load that supervisor code named (R41). -/
def Frag.follow (f : Frag) (pc : Pc) : Pc :=
  match f.redo with
  | (a, t) :: _ => if a = f.pc ∧ f.priv = 0 then t else pc
  | [] => pc

/-- The loads still to be issued again behind a unit. -/
def Frag.redoRest (f : Frag) : List (Pc × Pc) :=
  match f.redo with
  | (a, t) :: r => if a = f.pc ∧ f.priv = 0 then r else (a, t) :: r
  | [] => []

/-- The fragment's bookkeeping when its unit has issued (R70, R73, R78, R158, R169): the HINTs are used up, its age restarts, YA makes it one that has just become ready, and one instruction of each outstanding window has gone. -/
def Frag.afterUnit (f : Frag) (now : Nat) (pc : Pc) : Frag :=
  { f with pc := f.follow pc, redo := f.redoRest, hints := ⟨none, []⟩, age := 0, breakDue := false, walkWait := [], walkFail := [], tlbi := none,
           readyAt := if f.yields then now else f.readyAt,
           outst := f.outst.map fun o => { o with window := o.window - 1 } }

/-- A wait that is not over. -/
def Frag.awaits (f : Frag) : Bool := f.outst.any fun o => match o.kind with | .wait _ => true | _ => false

/-- The unit has been performed: the PC moves on, and the next instruction begins a region when the form says so (R47, R48); behind a wait the region begins when the wait is over. -/
def State.endUnit (s : State) (id : FragId) (fm : Form) (pc : Pc) : State :=
  let s := s.updSwell id.swell fun w =>
    let f := (w.ent id.ent).afterUnit s.now pc
    if fm.brk then (if f.awaits then w.setEnt id.ent { f with breakDue := true } else (w.setEnt id.ent f).newRegion id.ent) else w.setEnt id.ent f
  s.latchWord id fm

/-- Turn what a unit comes to into the next state. A fault is taken in program order: while an earlier long instruction is outstanding the word waits and meets it again (R72, R150). -/
def Done.settle (id : FragId) (fm : Form) (pc : Pc) : Done → State
  | .next s => s.endUnit id fm (nextPc pc)
  | .jump s t => s.endUnit id fm t
  | .whole s => s
  | .fault s r =>
    match s.fragAt id with
    | some (_, f) => if f.outst = [] then s.takeFault id r else s
    | none => s
  | .stall s => s

/-- The first HINT of the unit that the word does not accept. -/
def Form.refused (fm : Form) (h : Hints) : Option HintWord := h.words.find? fun x => !fm.accepts x

/-- The first register, in the order of the fields D, A, B, at or above the declared count (R30, R66): the one that FVAL names when there are several (log 65). -/
def regRange (n : Nat) (rs : List Nat) : Option Nat := rs.find? fun r => n ≤ r

/-- Issue a word: the fragment named by `cur` must be live and running (STATE 0 or 5); HINT misuse takes ILLEGAL with the HINT word (R74), then the registers are checked (R56), then the word is performed. -/
def issue (fm : Form) (regs : List Nat) (s : State) (body : Swell → Frag → Done) : Host.Outcome State Fault Refusal :=
  match s.fragAt s.cur with
  | none => .fault .noFragment
  | some (w, f) =>
    if f.st ≠ 0 ∧ f.st ≠ 5 then .fault .noFragment
    else match fm.refused f.hints with
      | some h => .next ((Done.fault s (plainFault .illegal (h.word.setWidth 64))).settle s.cur fm f.pc)
      | none =>
        match regRange w.n regs with
        | some r => .next ((Done.fault s (plainFault .regrange (BitVec.ofNat 64 r))).settle s.cur fm f.pc)
        | none => .next ((body w f).settle s.cur fm f.pc)

/-- Issue a word that takes ILLEGAL, with FVAL itself, when `bad` holds; ILLEGAL comes before REGRANGE (R56). -/
def issueChecked (fm : Form) (word : Word) (bad : Swell → Frag → Bool) (regs : List Nat) (s : State) (body : Swell → Frag → Done) : Host.Outcome State Fault Refusal :=
  issue fm [] s fun w f =>
    if bad w f then .fault s (plainFault .illegal (word.setWidth 64))
    else match regRange w.n regs with
      | some r => .fault s (plainFault .regrange (BitVec.ofNat 64 r))
      | none => body w f

/-- Issue a word and replace only the fragment's swell. -/
def issueSwell (fm : Form) (regs : List Nat) (s : State) (body : Swell → Frag → Swell) : Host.Outcome State Fault Refusal :=
  issue fm regs s fun w f => .next (s.updSwell s.cur.swell fun _ => body w f)

end Sys2Proof.Machine
end

