-- ==== Sys2Proof/Machine/Block.lean ====
section
/-! DEFINITION. The command blocks of ENG as fields (R245, R248, R354, R421, R423), and the scratch bytes that a command has still to read (R252). Pure functions of the block's words. -/

namespace Sys2Proof.Machine

/-- Register i of a block. -/
def blkWord (b : List Word) (i : Nat) : Word := (b[i]?).getD 0
/-- A pair of a block. -/
def blkPair (b : List Word) (i : Nat) : Nat := (pairVal (blkWord b i) (blkWord b (i + 1))).toNat
/-- A field of a block's register. -/
def blkField (b : List Word) (i lo n : Nat) : Nat := ((blkWord b i).extractLsb' lo n).toNat

/-- Element size exponent of a transpose (R246): T8 1 byte, T16 2 bytes. -/
def copyElem (b : List Word) : Nat := if blkField b 7 22 2 = 2 then 2 else 1
/-- XP of a COPY block. -/
def copyXp (b : List Word) : Nat := blkField b 7 22 2
/-- RLEN. -/
def copyRlen (b : List Word) : Nat := blkField b 4 0 24
/-- ROWS. -/
def copyRows (b : List Word) : Nat := blkField b 7 0 16
/-- SSTR. -/
def copySstr (b : List Word) : Nat := (blkWord b 5).toNat
/-- DSTR. -/
def copyDstr (b : List Word) : Nat := (blkWord b 6).toNat
/-- SSP: 0 global, 1 scratch, 2 shelf. -/
def copySsp (b : List Word) : Nat := blkField b 7 16 3
/-- DSP. -/
def copyDsp (b : List Word) : Nat := blkField b 7 19 3
/-- Bytes of a COPY. -/
def copyBytes (b : List Word) : Nat := copyRows b * copyRlen b

/-- Source offset of the source byte with a number, rows first (R246). -/
def copySrcOff (b : List Word) (k : Nat) : Nat := k / copyRlen b * copySstr b + k % copyRlen b
/-- Destination offset of the source byte with a number (R246). -/
def copyDstOff (b : List Word) (k : Nat) : Nat :=
  let r := k / copyRlen b
  let c := k % copyRlen b
  let e := copyElem b
  if copyXp b = 0 then r * copyDstr b + c else c / e * copyDstr b + e * r + c % e

/-- Size of an address space (R246): global addresses modulo 2^64, scratch addresses modulo 2^32. -/
def spaceSize (space : Nat) : Nat := if space = 0 then 2 ^ 64 else 2 ^ 32

/-- Lowest and highest byte of rows of `len` bytes, `stride` apart from a base; a row that passes the top of its space goes on at 0 (R246). -/
def rowsSpan (space base stride len rows : Nat) : Span :=
  let size := spaceSize space
  if base + (rows - 1) * stride + len ≤ size then ⟨space, base, base + (rows - 1) * stride + len - 1⟩
  else
    let ends := (List.range rows).map fun r =>
      let a := (base + r * stride) % size
      if a + len ≤ size then (a, a + len - 1) else (0, size - 1)
    ⟨space, (ends.map fun x => x.1).foldl Nat.min size, (ends.map fun x => x.2).foldl Nat.max 0⟩

/-- Rows of the destination and their length: a transpose exchanges rows and columns (R246). -/
def copyDstShape (b : List Word) : Nat × Nat :=
  if copyXp b = 0 then (copyRows b, copyRlen b) else (copyRlen b / copyElem b, copyRows b * copyElem b)

/-- The source span (R246). -/
def copySrcSpan (b : List Word) : Span := rowsSpan (copySsp b) (blkPair b 0) (copySstr b) (copyRlen b) (copyRows b)
/-- The destination span. -/
def copyDstSpan (b : List Word) : Span := rowsSpan (copyDsp b) (blkPair b 2) (copyDstr b) (copyDstShape b).2 (copyDstShape b).1

/-- ESZ of GATHER and SCATTER (R248). -/
def gathEsz (b : List Word) : Nat := blkField b 4 16 4
/-- N of GATHER and SCATTER. -/
def gathN (b : List Word) : Nat := blkField b 4 0 16
/-- Element size in bytes. -/
def gathElem (b : List Word) : Nat := 2 ^ gathEsz b
/-- Scratch address of the index list. -/
def gathIdx (b : List Word) : Nat := (blkWord b 2).toNat
/-- Scratch address of the packed elements. -/
def gathDat (b : List Word) : Nat := (blkWord b 3).toNat

/-- Element size of RARITH: FP32 or BF16 (R354). -/
def rarElem (b : List Word) : Nat := if blkField b 7 17 1 = 0 then 4 else 2
/-- N of RARITH. -/
def rarN (b : List Word) : Nat := blkField b 6 0 24
/-- LEN of a put (R421). -/
def putLen (b : List Word) : Nat := blkField b 3 0 24
/-- N of COLL: elements per rank (R423). -/
def collN (b : List Word) : Nat := blkField b 4 0 24

/-- Offset of an address behind a base, modulo the size of the space (R246). -/
def offBehind (size base a : Nat) : Nat := (a + size - base % size) % size

/-- Whether some row and column whose byte has an offset satisfy p. -/
def anyAt (size stride len rows off : Nat) (p : Nat → Nat → Bool) : Bool :=
  (List.range rows).any fun r =>
    let c := offBehind size (r * stride) off
    decide (c < len) && p r c

/-- Whether a source byte at an address is still to be read by a COPY that has done `done` bytes (R252). -/
def copyUnread (b : List Word) (done a : Nat) : Bool :=
  let size := spaceSize (copySsp b)
  anyAt size (copySstr b) (copyRlen b) (copyRows b) (offBehind size (blkPair b 0) a) fun r c => decide (done ≤ r * copyRlen b + c)

/-- Whether a destination byte at an address is still to be written by a COPY that has done `done` bytes (R254). -/
def copyUnwritten (b : List Word) (done a : Nat) : Bool :=
  let size := spaceSize (copyDsp b)
  let e := copyElem b
  anyAt size (copyDstr b) (copyDstShape b).2 (copyDstShape b).1 (offBehind size (blkPair b 2) a) fun r c =>
    decide (done ≤ if copyXp b = 0 then r * copyRlen b + c else c / e * copyRlen b + r * e + c % e)

/-- Whether a command not yet ended has still to read the byte at a scratch address (R252). -/
def EngCmd.unreadByte (m : EngCmd) (sa : Nat) : Bool :=
  match m.kind with
  | .copy => copySsp m.block == 1 && copyUnread m.block m.done sa
  | .gather | .scatter =>
    let i := offBehind (2 ^ 32) (gathIdx m.block) sa / 4
    let k := offBehind (2 ^ 32) (gathDat m.block) sa
    (decide (m.idx.length ≤ i) && decide (i < gathN m.block))
      || (m.kind == .scatter && decide (m.done ≤ k) && decide (k < gathN m.block * gathElem m.block))
  | .rarith | .wsend | .wsig | .coll => false

/-- Whether a command has still to write a byte of the 256-byte line at a virtual address (R254). -/
def EngCmd.unwrittenLine (m : EngCmd) (va : Nat) : Bool :=
  match m.kind with
  | .copy => (List.range 256).any fun i => copyUnwritten m.block m.done (va + i)
  | .scatter => (m.idx.drop (m.done / gathElem m.block)).any fun x => (blkPair m.block 0 + x.toNat * gathElem m.block) % 2 ^ 64 / 256 == va / 256
  | _ => false

/-- Whether a command holds a line exclusively (R254): a line of a destination page to which bytes are still to be written. -/
def EngCmd.holds (m : EngCmd) (line : Nat) : Bool :=
  m.held.any fun x => x.2 == line / 256 && m.unwrittenLine (x.1 * 65536 + line % 256 * 256)

/-- Whether n bytes from a scratch address are in a source that a command of the cluster has still to read (R252). -/
def sourceUnread (k : Cluster) (sa n : Nat) : Bool :=
  k.engines.toList.any fun e => e.cmds.any fun m => (List.range n).any fun i => m.unreadByte (sa + i)

end Sys2Proof.Machine
end

