-- ==== Sys2Proof/Machine/Translate.lean ====
section
/-! DEFINITION. Page-table entries, walks, TLBs, page classes and the checks of an access (R185 to R187, R195, R262, R274, R275, R339 to R344, R412). -/

namespace Sys2Proof.Machine

/-- End of the HBM4E that pages may map: the link spill region lies above (R262, R362). -/
def hbmEnd : Nat := 0x0BFF000000
/-- First die offset of the weight shelf (R262). -/
def shelfBase : Nat := 0x1000000000
/-- First die offset above the shelf. -/
def shelfEnd : Nat := 0x1080000000
/-- A die's window of physical memory (R262). -/
def dieWindow : Nat := 0x400000000000
/-- Home die of a physical address. -/
def paDie (pa : Nat) : Nat := pa / dieWindow
/-- Offset in the home die's window. -/
def paOff (pa : Nat) : Nat := pa % dieWindow
/-- A shelf address. -/
def inShelf (pa : Nat) : Bool := shelfBase ≤ paOff pa && paOff pa < shelfEnd
/-- Shelf offset of a shelf address. -/
def shelfOff (pa : Nat) : Nat := paOff pa - shelfBase

/-- A field of a page-table entry. -/
def pteField (e : Addr) (lo n : Nat) : Nat := (e.extractLsb' lo n).toNat
/-- Home slice of a line of HBM4E (R267). -/
def sliceOf (pa : Nat) : Nat :=
  let x := BitVec.ofNat 52 pa
  (x.extractLsb' 8 5 ^^^ x.extractLsb' 13 5 ^^^ x.extractLsb' 18 5 ^^^ x.extractLsb' 23 5 ^^^ x.extractLsb' 28 5).toNat

/-- Page class of a leaf (R341). -/
def leafClass (e : Addr) : PageClass :=
  if pteField e 59 2 = 0 then .dp
  else match pteField e 57 2 with
    | 0 => .coh | 1 => .ucr | 2 => .ros | _ => .swm

/-- Bytes of a page. -/
def pageBytes (big : Bool) : Nat := if big then 2 ^ 25 else 2 ^ 16

/-- A malformed leaf (R342): reserved fields and codes, SCOPE and CLASS, MS, INTLV and its rectangle, the frame and its span on each die. -/
def leafMalformed (e : Addr) (big : Bool) : Bool :=
  let intlv := e.getLsbD 55
  let frame := pteField e 16 36 * 65536
  let lr := pteField e 10 2
  let lc := pteField e 8 2
  let span := if intlv then pageBytes big / 2 ^ (lr + lc) else pageBytes big
  let off := paOff frame
  let die := paDie frame
  pteField e 12 3 != 0 || pteField e 0 8 != 0 || decide (1 < pteField e 59 2)
    || (pteField e 59 2 == 0 && (pteField e 57 2 != 0 || intlv))
    || (e.getLsbD 56 && pteField e 59 2 == 1 && pteField e 57 2 != 1)
    || (big && pteField e 16 9 != 0)
    || (intlv && !big)
    || (intlv && (decide (8 < die / 8 + 2 ^ lr) || decide (8 < die % 8 + 2 ^ lc)))
    || !(decide (off + span ≤ hbmEnd) || (!intlv && decide (shelfBase ≤ off) && decide (off + span ≤ shelfEnd)))

/-- What a walk finds (R187, R342). -/
inductive WalkRes where
  | leaf (e : Addr) (big : Bool)
  | absent
  | malformed (pa : Nat)
deriving DecidableEq, Repr

/-- The partition copy of a line on a die. -/
def partFind (s : State) (d line : Nat) : Option CacheLine := (s.die d).partition.find? fun x => x.line == line

/-- The directory record of a COH line at its home (R345). -/
def dirFind (s : State) (line : Nat) : Option DirRec := (s.die (paDie (line * 256))).dir.find? fun x => x.line == line

/-- The die that holds a COH line exclusive. -/
def exclHolder (s : State) (line : Nat) : Option Nat :=
  match dirFind s line with
  | some r => if r.excl then (List.range 64).find? fun d => r.dies.getLsbD d else none
  | none => none

/-- A byte as the latest write performed for every die left it: at the home, or in the exclusive holder's partition (R358). -/
def coherentByte (s : State) (pa : Nat) : Byte :=
  match exclHolder s (pa / 256) with
  | some d =>
    match partFind s d (pa / 256) with
    | some l => if l.present.getLsbD (pa % 256) then byteAt l.data (pa % 256) else byteAt s.mem pa
    | none => byteAt s.mem pa
  | none => byteAt s.mem pa

/-- n bytes read coherently at package scope (R339, R355). -/
def coherentBytes (s : State) (pa : Nat) : Nat → List Byte
  | 0 => []
  | n + 1 => coherentByte s pa :: coherentBytes s (pa + 1) n

/-- The lowest VA bit that a level indexes (R339). -/
def levelShift : Nat → Nat
  | 0 => 45 | 1 => 35 | 2 => 25 | _ => 16
/-- How many VA bits a level indexes. -/
def levelBits : Nat → Nat
  | 0 => 11 | 1 => 10 | 2 => 10 | _ => 9

/-- Walk from a level's table down (R340 to R342): the result, and the non-leaf entries read. -/
def walkFrom (s : State) (ctx va : Nat) : Nat → Nat → Nat → WalkRes × List WalkEnt
  | 0, _, _ => (.absent, [])
  | fuel + 1, level, table =>
    let pa := table + 8 * (va / 2 ^ levelShift level % 2 ^ levelBits level)
    let e : Addr := BitVec.ofNat 64 (natOfBytes (coherentBytes s pa 8))
    if !e.getLsbD 63 then (.absent, [])
    else if e.getLsbD 62 then
      if level < 2 || leafMalformed e (level == 2) then (.malformed pa, [])
      else if !e.getLsbD 61 then (.absent, [])
      else (.leaf e (level == 2), [])
    else if level = 3 || pteField e 52 10 != 0 || pteField e 0 12 != 0 then (.malformed pa, [])
    else
      let next := pteField e 12 40 * 4096
      let r := walkFrom s ctx va fuel (level + 1) next
      (r.1, ⟨ctx, level, va / 2 ^ levelShift level, next⟩ :: r.2)

/-- The deepest table that a walker's cached entries give (R185): its level and address. -/
def walkStart (s : State) (die ctx va : Nat) : Nat × Nat :=
  let hit (level : Nat) : Option WalkEnt := (s.die die).walkCache.find? fun x => x.ctx == ctx && x.level == level && x.top == va / 2 ^ levelShift level
  match hit 2 with
  | some x => (3, x.table)
  | none => match hit 1 with
    | some x => (2, x.table)
    | none => match hit 0 with
      | some x => (1, x.table)
      | none => (0, (s.ctx ctx).ptroot)

/-- One walk by a die's walker: the result, and the state with the non-leaf entries cached. -/
def walkTable (s : State) (die ctx va : Nat) : WalkRes × State :=
  let (level, table) := walkStart s die ctx va
  let r := walkFrom s ctx va 4 level table
  (r.1, s.updDie die fun d => { d with walkCache := d.walkCache ++ r.2.filter fun x => !d.walkCache.contains x })

/-- A host address (R412). -/
def isHost (va : Addr) : Bool := va.getLsbD 55

/-- Whether an address lies on a 32 MiB page: its walk meets a leaf at level 2 (R340). -/
def bigPageFrom (s : State) (va : Nat) : Nat → Nat → Nat → Bool
  | 0, _, _ => false
  | fuel + 1, level, table =>
    let e : Addr := BitVec.ofNat 64 (natOfBytes (coherentBytes s (table + 8 * (va / 2 ^ levelShift level % 2 ^ levelBits level)) 8))
    if !e.getLsbD 63 then false
    else if e.getLsbD 62 then level == 2
    else bigPageFrom s va fuel (level + 1) (pteField e 12 40 * 4096)

/-- The name of a page: a 32 MiB page is named by its first 64 KiB (R417). -/
def pageName (s : State) (ctx page : Nat) : Nat :=
  if isHost (BitVec.ofNat 64 (page * 65536)) then page
  else if bigPageFrom s (page * 65536) 4 0 (s.ctx ctx).ptroot then page / 512 * 512 else page

/-- Whether a TLB entry translates an address of a context (R185). -/
def TlbEnt.covers (t : TlbEnt) (ctx va : Nat) : Bool :=
  t.ctx == ctx && (if t.big then va / 2 ^ 25 == t.page / 512 else va / 2 ^ 16 == t.page)

/-- The TLB entry of a leaf found for an address. -/
def tlbEntOf (ctx va : Nat) (e : Addr) (big : Bool) : TlbEnt := ⟨ctx, if big then va / 2 ^ 25 * 512 else va / 2 ^ 16, big, e⟩

/-- Put an entry in a TLB of a capacity; a full TLB replaces an entry of its choice (log 12). -/
def tlbPut (s : State) (cap : Nat) (l : List TlbEnt) (t : TlbEnt) : List TlbEnt × State :=
  if l.contains t then (l, s)
  else if l.length < cap then (t :: l, s)
  else
    let (i, s) := s.choose cap
    (t :: l.eraseIdx i, s)

/-- Fill the core TLB (64 entries). -/
def fillCoreTlb (s : State) (c : Nat) (t : TlbEnt) : State :=
  let (l, s) := tlbPut s 64 (s.core c).tlb t
  s.updCore c fun x => { x with tlb := l }

/-- The set of the cluster TLB that a translation falls in: 256 sets of 8 ways, by its page number (log 66). -/
def tlbSet (t : TlbEnt) : Nat := if t.big then t.page / 512 % 256 else t.page % 256

/-- Fill the cluster TLB (2,048 entries, 8-way). -/
def fillClusterTlb (s : State) (k : Nat) (t : TlbEnt) : State :=
  let mine (x : TlbEnt) : Bool := tlbSet x == tlbSet t
  let (l, s) := tlbPut s 8 ((s.cluster k).tlb.filter mine) t
  s.updCluster k fun x => { x with tlb := l ++ x.tlb.filter fun y => !mine y }

/-- Place of an address under a leaf: interleaved pages are dealt in 64 KiB granules over their rectangle (R343). -/
def locOf (e : Addr) (big : Bool) (va : Nat) : Loc :=
  let frame := pteField e 16 36 * 65536
  let cls := leafClass e
  if e.getLsbD 55 then
    let lr := pteField e 10 2
    let lc := pteField e 8 2
    let j := va / 65536 % 512
    let k := j % 2 ^ (lr + lc)
    let org := paDie frame
    let die := (org / 8 + k / 2 ^ lc) * 8 + org % 8 + k % 2 ^ lc
    ⟨die * dieWindow + paOff frame + j / 2 ^ (lr + lc) * 65536 + va % 65536, cls, e.getLsbD 56, die, false⟩
  else
    let pa := frame + va % pageBytes big
    ⟨pa, cls, e.getLsbD 56, paDie pa, false⟩

/-- Kinds of access (R195, R289, R341, R375). -/
inductive AccKind where
  | fetch | load | prefetch | store | atomic | wait | timedLoad | timedStore | tex | engRead | engWrite | rarith | clean | inv
deriving DecidableEq, Repr

/-- Needs read permission. -/
def AccKind.reads : AccKind → Bool
  | .load | .prefetch | .atomic | .wait | .timedLoad | .tex | .engRead | .rarith | .clean => true
  | .fetch | .store | .timedStore | .engWrite | .inv => false
/-- Needs write permission. -/
def AccKind.writes : AccKind → Bool
  | .store | .atomic | .timedStore | .engWrite | .rarith | .inv => true
  | .fetch | .load | .prefetch | .wait | .timedLoad | .tex | .engRead | .clean => false
/-- Makes the slab checks of R275 as a reader. -/
def AccKind.readsSlab : AccKind → Bool
  | .clean | .inv | .store | .timedStore | .engWrite => false
  | .fetch | .load | .prefetch | .atomic | .wait | .timedLoad | .tex | .engRead | .rarith => true

/-- The slab register of a slab (R274). -/
def slabReg (s : State) (die slab : Nat) : Word := (kvGet (s.die die).slabs slab).getD 0
/-- The slab belongs to a context. -/
def slabOwned (r : Word) (ctx : Nat) : Bool := r.getLsbD 31 && (r.extractLsb' 0 6).toNat == ctx

/-- Whether a physical address lies in a slab of a die. -/
def inSlab (die slab pa : Nat) : Bool := inShelf pa && paDie pa == die && shelfOff pa / 2 ^ 26 == slab

/-- Shelf writes already checked are on their way to a slab (R276). -/
def slabBusy (s : State) (die slab : Nat) : Bool := s.msgs.any fun x => !x.2.loc.host && inSlab die slab x.2.loc.pa

/-- Slabs of a die that a context owns and whose RUN has not risen yet, or not in full (R274, R276). -/
def slabsToRise (s : State) (d ctx : Nat) : List Nat :=
  ((s.die d).slabs.filter fun x => slabOwned x.2 ctx && (!x.2.getLsbD 30 || slabBusy s d x.1)).map fun x => x.1

/-- The permission, class and slab checks of an access with a valid leaf (R195, R275, R341, R349), in the order PERM, CLASS, slab. -/
def accessCheck (s : State) (ctx die : Nat) (super : Bool) (k : AccKind) (e : Addr) (l : Loc) : Option FaultCode :=
  let remote := l.die != die
  let shelf := inShelf l.pa
  if (!super && !e.getLsbD 52) || (k.reads && !e.getLsbD 54) || (k.writes && !e.getLsbD 53) || (k == .fetch && !e.getLsbD 15) then some .perm
  else if (l.cls == .dp && remote)
      || (l.cls == .ros && (k == .store || k == .timedStore || k == .atomic || k == .engWrite || k == .rarith))
      || (k == .atomic && l.cls == .ucr && !l.ms && remote)
      || (k == .rarith && !l.ms)
      || (shelf && (l.ms || (l.cls != .dp && l.cls != .ucr) || k == .timedLoad || k == .timedStore)) then some .cls
  else if shelf then
    let r := slabReg s l.die (shelfOff l.pa / 2 ^ 26)
    if k.readsSlab && !slabOwned r ctx then some .perm
    else if k.writes && k != .inv && !(slabOwned r ctx && !r.getLsbD 30) then some .shelfw
    else none
  else none

/-- The translation of one lane (R185, R187): a place, a walk to wait for, or a fault with its FVAL. -/
inductive Xlat where
  | ok (l : Loc)
  | miss
  | bad (c : FaultCode) (v : Addr)
deriving DecidableEq, Repr

/-- Accesses that take CLASS at a host address (R412). -/
def AccKind.notHost (k : AccKind) : Bool := k == .atomic || k == .wait || k == .timedLoad || k == .timedStore || k == .engWrite || k == .rarith

/-- A host access under the context's ATS translations (R412). -/
def xlateHost (s : State) (ctx : Nat) (k : AccKind) (f : Frag) (va : Addr) : Xlat :=
  if k.notHost then .bad .cls va
  else if f.walkFail.any (fun x => x.1 == pageOf va) then .bad .xlate va
  else match (s.ctx ctx).ats.find? fun x => x.1 == pageOf va with
    | some x => .ok ⟨x.2 * 65536 + va.toNat % 65536, .ucr, false, 64, true⟩
    | none => .miss

/-- Translate and check one access of a fragment; the address is canonical. The access that repeats a refused one is not translated (R52). -/
def xlate (s : State) (c ctx : Nat) (super : Bool) (k : AccKind) (f : Frag) (va : Addr) : Xlat :=
  if f.refused (pageOf va) then .bad .xlate va
  else if isHost va then xlateHost s ctx k f va
  else match f.walkFail.find? fun x => x.1 == pageOf va with
    | some x => .bad (if x.2 then .perm else .xlate) va
    | none =>
      match (s.core c).tlb.find? (fun t => t.covers ctx va.toNat) <|> (s.cluster (clusterOfCore c)).tlb.find? (fun t => t.covers ctx va.toNat) with
      | none => .miss
      | some t =>
        let l := locOf t.leaf t.big va.toNat
        match accessCheck s ctx (dieOfCore c) super k t.leaf l with
        | some .shelfw => .bad .shelfw (BitVec.ofNat 64 (shelfOff l.pa))
        | some code => .bad code va
        | none => .ok l

/-- The walks of a die's walker, in the order they came: the first 64 are busy, the next 256 are in its queue, the others wait at their clusters (R185, R186). Host pages are asked of the host. -/
def walkerQueue (d : Die) : List Walk := d.walks.filter fun x => !(x.page / 2 ^ 39 % 2 == 1)

/-- Walks of a die end; those that become busy are made (R186). -/
def endWalks (s : State) (d : Nat) (p : Walk → Bool) : State :=
  let old := (walkerQueue (s.die d)).take 64
  let s := s.updDie d fun x => { x with walks := x.walks.filter fun y => !p y }
  (((walkerQueue (s.die d)).take 64).filter fun y => !old.contains y).foldl (fun s y => s.post 200 (.walkCompletion d y.ctx y.page)) s

/-- A miss joins the walk of its page on the core's die, or starts one (R186); a host page is asked of the host (R412). The fragment waits for it. -/
def startWalk (s : State) (id : FragId) (ctx : Nat) (va : Addr) : State :=
  let d := dieOfKey id.key
  let page := pageOf va
  let s := s.updFrag id fun f => { f with walkWait := if f.walkWait.contains page then f.walkWait else f.walkWait ++ [page] }
  if (s.die d).walks.any fun x => x.ctx == ctx && x.page == page then
    s.updDie d fun x => { x with walks := x.walks.map fun y => if y.ctx == ctx && y.page == page && !y.who.contains id then { y with who := y.who ++ [id] } else y }
  else
    let busy := (walkerQueue (s.die d)).length
    let s := s.updDie d fun x => { x with walks := x.walks ++ [⟨ctx, page, [id]⟩] }
    if isHost va || decide (64 ≤ busy) then s else s.post 200 (.walkCompletion d ctx page)

/-- The TLB entry that served a hit in the cluster's TLB is filled in the core's. -/
def noteHit (s : State) (c ctx : Nat) (va : Addr) : State :=
  match (s.core c).tlb.find? fun t => t.covers ctx va.toNat with
  | some _ => s
  | none =>
    match (s.cluster (clusterOfCore c)).tlb.find? fun t => t.covers ctx va.toNat with
    | some t => fillCoreTlb s c t
    | none => s

/-- One lane's access to check: lane, address, and size for the ALIGN check (R195). -/
structure LaneAcc where
  lane : Nat
  va : Addr
  size : Nat
deriving DecidableEq, Repr

/-- A lane's first fault or place (R56): ALIGN, then translation and the checks. -/
def laneXlat (s : State) (c ctx : Nat) (super : Bool) (k : AccKind) (f : Frag) (a : LaneAcc) : Xlat :=
  if a.va.extractLsb' 56 8 ≠ 0 ∨ a.va.toNat % a.size ≠ 0 then .bad .align a.va else xlate s c ctx super k f a.va

/-- The places of all lanes in order, or what ends the issue: the fault of the lowest faulting lane, or walks to wait for (R195, R196). -/
def lanePlaces (s : State) (c ctx : Nat) (super : Bool) (k : AccKind) (f : Frag) : List LaneAcc → Except (Option FaultRec) (List LaneLoc)
  | [] => .ok []
  | a :: as =>
    match laneXlat s c ctx super k f a with
    | .bad code v => .error (some ⟨code, v, a.lane, k.writes, k == .fetch⟩)
    | .miss => .error none
    | .ok l =>
      match lanePlaces s c ctx super k f as with
      | .error e => .error e
      | .ok ls => .ok (⟨a.lane, a.va, l⟩ :: ls)

/-- Start a walk for every lane that misses. -/
def startWalks (s : State) (id : FragId) (ctx : Nat) (super : Bool) (k : AccKind) (f : Frag) (as : List LaneAcc) : State :=
  as.foldl (fun s a => match laneXlat s (coreOfKey id.key) ctx super k f a with | .miss => startWalk s id ctx a.va | _ => s) s

/-- Translate and check every lane of an access, then continue with the places (R49, R196). -/
def withPlaces (s : State) (w : Swell) (f : Frag) (k : AccKind) (as : List LaneAcc) (go : State → List LaneLoc → Done) : Done :=
  let c := coreOfKey s.cur.key
  match lanePlaces s c w.ctx (f.priv != 0) k f as with
  | .error (some r) => .fault s r
  | .error none => .stall (startWalks s s.cur w.ctx (f.priv != 0) k f as)
  | .ok ls => go (ls.foldl (fun s l => noteHit s c w.ctx l.va) s) ls

/-- The answer of a walk to one fragment: its wait ends, and a failure is kept for its next attempt (R187). -/
def answerWalk (s : State) (page : Nat) (fail : Option Bool) (id : FragId) : State :=
  s.updFrag id fun f => { f with walkWait := f.walkWait.erase page, walkFail := match fail with | some m => (page, m) :: f.walkFail | none => f.walkFail }

/-- WALK_COMPLETION (R187): every request of the list is answered from the one result; a leaf fills the TLBs, a malformed entry is logged once (R342). -/
def execWalkCompletion (die ctx page : Nat) (s : State) : Host.Outcome State Fault Refusal :=
  .next <|
    match (s.die die).walks.find? fun x => x.ctx == ctx && x.page == page with
    | none => s
    | some wk =>
      let s := endWalks s die fun x => x == wk
      let (r, s) := walkTable s die ctx (page * 65536)
      match r with
      | .leaf e big =>
        let t := tlbEntOf ctx (page * 65536) e big
        wk.who.foldl (fun s id => answerWalk (fillCoreTlb (fillClusterTlb s (clusterOfCore (coreOfKey id.key)) t) (coreOfKey id.key) t) page none id) s
      | .absent => wk.who.foldl (fun s id => answerWalk s page (some false) id) s
      | .malformed pa =>
        wk.who.foldl (fun s id => answerWalk s page (some true) id) (s.logError ctx ⟨4, die, BitVec.ofNat 64 pa, 0, 0, 0, 0⟩)

/-- ATS_TRANSLATION_COMPLETION (R412): a translation is kept for the context's host page and the waiting accesses go on; a failed one answers them with XLATE. -/
def execAtsTranslationCompletion (ctx page : Nat) (frame : Option Nat) (s : State) : Host.Outcome State Fault Refusal :=
  let s := match frame with
    | some fr => s.updCtx ctx fun c => { c with ats := (page, fr) :: c.ats.filter fun x => x.1 != page }
    | none => s
  .next <| (List.range 64).foldl (fun s d =>
    match (s.die d).walks.find? fun x => x.ctx == ctx && x.page == page with
    | none => s
    | some wk =>
      let s := endWalks s d fun x => x == wk
      wk.who.foldl (fun s id => answerWalk s page (if frame.isSome then none else some false) id) s) s

end Sys2Proof.Machine
end

