-- ==== Sys2Proof/Machine/Memory.lean ====
section
/-! DEFINITION. Memory at its home, directories, remote partitions and the L1: reads, writes, write-backs, acquires and releases (R182 to R184, R211, R267 to R273, R280 to R283, R344 to R348, R352, R357, R358). -/

namespace Sys2Proof.Machine

/-! ## The L1 -/

/-- Sets of an L1 of 16 ways and 256-byte lines (R182). -/
def l1Sets (c : Core) : Nat := (c.bndTop.toNat - c.bndScr.toNat) / 4096

/-- The L1 copy of a line. -/
def l1Find (s : State) (c line : Nat) : Option CacheLine := (s.core c).l1.find? fun x => x.line == line

/-- Replace the L1 copy of a line. -/
def l1Put (s : State) (c : Nat) (x : CacheLine) : State :=
  s.updCore c fun k => { k with l1 := x :: k.l1.filter fun y => y.line != x.line }

/-- Drop the L1 copy of a line. -/
def l1Drop (s : State) (c line : Nat) : State := s.updCore c fun k => { k with l1 := k.l1.filter fun y => y.line != line }

/-- Whether the L1 may hold an access (R182, R183, R344): not MS, not host, no UCR line homed on another die. -/
def l1Holds (d : Nat) (l : Loc) : Bool := !l.host && !l.ms && !(l.cls == .ucr && l.die != d)

/-! ## Bad sectors, meters and the home -/

/-- Whether a host access of a context can be carried now: the link of the primary port, which owns its function, is up, or of a port whose data function names it (R411, R418). -/
def hostUp (s : State) (ctx : Nat) : Bool := s.pkg.ports.any fun p => p.up && (p.die == s.pkg.primary || p.apsel.toNat == ctx)

/-- A place in a failed shelf or a failed HBM4E, whose every access takes DATA (R278, R432). -/
def homeFailed (s : State) (l : Loc) : Bool := !l.host && (if inShelf l.pa then (s.die l.die).shelfFailed else (s.die l.die).hbmFailed)

/-- Whether bytes have an uncorrectable error (R273), or lie where every access fails. -/
def badBytes (s : State) (l : Loc) (n : Nat) : Bool :=
  !l.host && (homeFailed s l || s.badSectors.any fun x => decide (l.pa / 32 ≤ x.1) && decide (x.1 ≤ (l.pa + n - 1) / 32))

/-- An error at the home after hand-off: the lane is not performed, and the context's error log has a record of KIND 2 (R196, R381, R416). -/
def homeError (s : State) (ctx : Nat) (l : Loc) (va : Addr) : State := s.logError ctx ⟨2, l.die, va, FaultCode.data.num, 0, 0, 0⟩

/-- Count a byte as overwritten in a bad sector (R273). -/
def clearBad (s : State) (pa : Nat) : State :=
  match kvGet s.badSectors (pa / 32) with
  | none => s
  | some m =>
    let m := m &&& ~~~(BitVec.twoPow 32 (pa % 32))
    { s with badSectors := if m = 0 then kvErase s.badSectors (pa / 32) else kvSet s.badSectors (pa / 32) m }

/-- Sectors of a mask of bytes. -/
def sectorsOf (m : BitVec 256) : Nat := ((List.range 8).filter fun i => m.extractLsb' (32 * i) 32 ≠ 0).length
/-- Bytes of a mask. -/
def maskCount (m : BitVec 256) : Nat := ((List.range 256).filter fun i => m.getLsbD i).length

/-- Add bytes to the HBM4E counters of a die for a context (R409). -/
def countHbm (s : State) (d ctx n : Nat) (write : Bool) : State :=
  if n = 0 then s
  else s.updMeter d ctx fun m => if write then { m with hbmwr := m.hbmwr + BitVec.ofNat 64 n } else { m with hbmrd := m.hbmrd + BitVec.ofNat 64 n }

/-- Bytes of a packet of a context sent from die to die: each die that it leaves counts them (R264, R409). -/
def countMesh (s : State) (ctx bytes : Nat) : Nat → Nat → Nat → State
  | 0, _, _ => s
  | fuel + 1, a, b =>
    if a = b then s
    else countMesh (s.updMeter a ctx fun m => { m with meshb := m.meshb + BitVec.ofNat 64 bytes }) ctx bytes fuel (nextDie a (routeCode s a b)) b

/-- Bytes of a packet with n data bytes: a header flit, and the data by 64 bytes (R264). -/
def packetBytes (n : Nat) : Nat := 64 * (1 + (n + 63) / 64)

/-- A request and its answer between a die and a home: a read's data come back, a write's data go there (R265, R409). -/
def countPackets (s : State) (ctx d h n : Nat) (write : Bool) : State :=
  if d = h then s
  else countMesh (countMesh s ctx (if write then packetBytes n else 64) 64 d h) ctx (if write then 64 else packetBytes n) 64 h d

/-- The condition of a value wait (R210). -/
def WaitCond.holds (c : WaitCond) (w b : Word) : Bool :=
  match c with
  | .eq => w == b
  | .ne => w != b
  | .gen => b.ule w
  | .gtn => b.ult w

/-- Write bytes to memory. -/
def memWrite (s : State) (pa : Nat) (bs : List Byte) : State :=
  let s := (List.range bs.length).foldl (fun s i => clearBad s (pa + i)) s
  { s with mem := writeBytes s.mem pa bs }

/-! ## Ways of a slice and its local partition (R268 to R270) -/

/-- Bytes of a line whose mask bit is set: offset and byte. -/
def maskedBytes (m : BitVec 256) (data : Bytes) : List (Nat × Byte) :=
  ((List.range 256).filter fun i => m.getLsbD i).map fun i => (i, byteAt data i)

/-- The mask of n bytes from an offset. -/
def rangeMask (off n : Nat) : BitVec 256 := BitVec.ofNat 256 ((2 ^ n - 1) * 2 ^ off)

/-- The mask of the 32-byte sectors that n bytes from an offset touch. -/
def sectorMask (off n : Nat) : BitVec 256 :=
  let lo := off / 32
  rangeMask (32 * lo) (32 * ((off + n - 1) / 32 - lo + 1))

/-- The configuration register of a slice (R270). -/
def sliceReg (s : State) (d slice : Nat) : Word := (kvGet (s.die d).sliceCfg slice).getD 0x400
/-- The ways of a slice that are not retired, from the highest-numbered down. -/
def liveWays (r : Word) : List Nat := ((List.range 16).filter fun w => !r.getLsbD (16 + w)).reverse
/-- The ways of the remote partition: the RPW highest-numbered ones that are not retired (R269). -/
def remoteWays (r : Word) : List Nat := (liveWays r).take (Nat.min (r.extractLsb' 8 4).toNat 8)
/-- The ways of the local partition. -/
def localWays (r : Word) : List Nat := (liveWays r).drop (Nat.min (r.extractLsb' 8 4).toNat 8)

/-- The set of a line in its slice: 1,024 sets (R268; log 12). -/
def sliceSet (line : Nat) : Nat := line / 32 % 1024

/-- Two lines of one set of one slice. -/
def sameSet (a b : Nat) : Bool := sliceOf (a * 256) == sliceOf (b * 256) && sliceSet a == sliceSet b

/-- The ways of a line's set that hold a line, of either partition. -/
def usedWays (s : State) (d line : Nat) : List Nat :=
  (((s.die d).partition.filter fun x => sameSet x.line line).map fun x => x.way) ++ ((s.die d).slices.filter fun x => sameSet x.line line).map fun x => x.way

/-- A line of the local partition leaves: its dirty bytes go to HBM4E, and its last writer is charged (R268, R409). -/
def sliceDrop (s : State) (d : Nat) (x : SliceLine) : State :=
  countHbm (s.updDie d fun k => { k with slices := k.slices.filter fun y => y.line != x.line }) d x.ctx (maskCount x.dirty) true

/-- Replace a line of the local partition. -/
def slicePut (s : State) (d : Nat) (x : SliceLine) : State :=
  s.updDie d fun k => { k with slices := x :: k.slices.filter fun y => y.line != x.line }

/-- A way for a line that a write-back brings to the local partition: a free one, else that of a local line which leaves (log 12); none when remote lines still hold every one. -/
def sliceWayLocal (s : State) (d line : Nat) : Option Nat × State :=
  let ways := localWays (sliceReg s d (sliceOf (line * 256)))
  match ways.find? fun w => !(usedWays s d line).contains w with
  | some w => (some w, s)
  | none =>
    let peers := (s.die d).slices.filter fun x => sameSet x.line line && ways.contains x.way
    if peers = [] then (none, s)
    else
      let (i, s) := s.choose peers.length
      match peers[i]? with
      | some x => (some x.way, sliceDrop s d x)
      | none => (none, s)

/-- How a line of the local partition gets a way. -/
abbrev WayPick := State → Nat → Nat → Option Nat × State

/-- A home's HBM4E access passes the local partition (R268): a read fills the sectors it lacks, a write makes its bytes dirty; without a way it goes to HBM4E. -/
def sliceAccess (pick : WayPick) (s : State) (d ctx line : Nat) (m : BitVec 256) (write : Bool) : State :=
  let go (s : State) (x : SliceLine) : State :=
    if write then slicePut s d { x with present := x.present ||| m, dirty := x.dirty ||| m, ctx := ctx }
    else
      let need := m &&& ~~~x.present
      countHbm (slicePut s d { x with present := x.present ||| m }) d ctx (32 * sectorsOf need) false
  match (s.die d).slices.find? fun x => x.line == line with
  | some x => go s x
  | none =>
    match pick s d line with
    | (some w, s) => go s ⟨line, w, 0, 0, ctx⟩
    | (none, s) => countHbm s d ctx (if write then maskCount m else 32 * sectorsOf m) write

/-- ECC corrects the correctable errors of the sectors of a line that an access meets, and the slice's count rises (R273). -/
def correctErrors (s : State) (line : Nat) (m : BitVec 256) : State :=
  let hit (x : Nat) : Bool := x / 8 == line && m.extractLsb' (32 * (x % 8)) 32 != 0
  if s.softSectors.any hit then
    let k := (s.softSectors.filter hit).length
    { s with softSectors := s.softSectors.filter fun x => !hit x }.updDie (paDie (line * 256)) fun d =>
      { d with corrected := kvSet d.corrected (sliceOf (line * 256)) (((kvGet d.corrected (sliceOf (line * 256))).getD 0) + BitVec.ofNat 32 k) }
  else s

/-- An access to masked bytes of a line at its home, of which n are carried (R268, R273, R409): HBM4E or shelf bytes. MS lines pass no slice (R269). -/
def countHome (pick : WayPick) (s : State) (ctx line : Nat) (m : BitVec 256) (n : Nat) (write ms : Bool) : State :=
  let h := paDie (line * 256)
  if inShelf (line * 256) then (if write then s else s.updMeter h ctx fun x => { x with shelfb := x.shelfb + BitVec.ofNat 64 n })
  else if ms then countHbm s h ctx n write
  else sliceAccess pick (correctErrors s line m) h ctx line m write

/-- A request of the home to a die that holds a line, and its answer with n dirty bytes (R265, R345, R409). -/
def countRecall (s : State) (ctx h d n : Nat) : State :=
  if d = h then s else countMesh (countMesh s ctx 64 64 h d) ctx (packetBytes n) 64 d h

/-! ## Lines beyond the L1 -/

/-- Replace the partition copy of a line. -/
def partPut (s : State) (d : Nat) (x : CacheLine) : State :=
  s.updDie d fun k => { k with partition := x :: k.partition.filter fun y => y.line != x.line }

/-- Drop the partition copy of a line. -/
def partDrop (s : State) (d line : Nat) : State := s.updDie d fun k => { k with partition := k.partition.filter fun y => y.line != line }

/-- Change the directory record of a COH line. -/
def dirSet (s : State) (line : Nat) (r : Option DirRec) : State :=
  s.updDie (paDie (line * 256)) fun k =>
    let rest := k.dir.filter fun x => x.line != line
    { k with dir := match r with | some x => x :: rest | none => rest }

/-- Change the outstanding instructions of an entry. -/
def Swell.mapOuts (w : Swell) (e : Nat) (g : Outst → Outst) : Swell := w.setEnt e { w.ent e with outst := (w.ent e).outst.map g }

/-- A lane of a value wait is satisfied with a value, once (R211). -/
def Outst.satisfy (o : Outst) (lane : Nat) (v : Word) : Outst :=
  match o.kind with
  | .wait (.value c g d ls) =>
    { o with kind := .wait (.value c g d (ls.map fun l => if l.lane = lane ∧ l.got.isNone then { l with got := some v } else l)) }
  | _ => o

/-- The context of a swell, wherever it is. -/
def swellCtx (s : State) (uid : Nat) : Nat :=
  match s.findUid uid with
  | some x => x.2.ctx
  | none => match s.savedSwells.find? fun w => w.uid == uid with | some w => w.ctx | none => 0

/-- A watch that a write has satisfied (R211), whose wake is a packet of the home (R265, R409): the lane keeps the value, and its instruction looks whether it is complete. A swell that is away keeps the satisfaction (R212). -/
def fireWatch (s : State) (y : Watch) (v : Word) : State :=
  ((countMesh s (swellCtx s y.fr.uid) (packetBytes 4) 64 (paDie y.pa) (dieOfKey y.fr.key)).updUid y.fr.uid fun w => w.mapOuts y.fr.ent fun o => o.satisfy y.lane v).postOnce 1 (.valueWaitArm y.fr y.lane)

/-- Evaluate the watches of a word of physical memory, whose current value is v. -/
def fireWatches (s : State) (pa : Nat) (v : Word) : State :=
  let d := paDie pa
  let hit := (s.die d).watches.filter fun y => y.pa = pa ∧ y.c.holds v y.cmp
  let s := s.updDie d fun k => { k with watches := k.watches.filter fun y => !(y.pa == pa && y.c.holds v y.cmp) }
  hit.foldl (fun s y => fireWatch s y v) s

/-- The words of a line that a mask touches. -/
def maskWords (line : Nat) (m : BitVec 256) : List Nat :=
  ((List.range 64).filter fun i => (m.extractLsb' (4 * i) 4) ≠ 0).map fun i => line * 256 + 4 * i

/-- The current value of a word for its coherence order. -/
def wordNow (s : State) (pa : Nat) : Word := wordOfList (coherentBytes s pa 4)

/-- A write to a granule with replicas: the granule is no longer ROS, and its replicas are freed (R346). -/
def notRos (s : State) (line : Nat) : State :=
  if (s.die (paDie (line * 256))).ros.any fun r => r.granule == line / 256 then
    s.updDie (paDie (line * 256)) fun k => { k with ros := k.ros.filter fun r => r.granule != line / 256 }
  else s

/-- Perform a masked write of a line at its home and evaluate its watches. -/
def homeMerge (s : State) (line : Nat) (m : BitVec 256) (data : Bytes) : State :=
  let s := (maskedBytes m data).foldl (fun s b => memWrite s (line * 256 + b.1) [b.2]) (if m = 0 then s else notRos s line)
  (maskWords line m).foldl (fun s pa => fireWatches s pa (wordNow s pa)) s

/-- Dirty bytes of a partition copy enter its home's slice, charged to their last writer (R268, R409). -/
def carryHome (s : State) (x : CacheLine) : State :=
  if x.dirty = 0 then s else countHome sliceWayLocal s x.ctx x.line x.dirty (maskCount x.dirty) true false

/-- A die's copy of a line in its partition goes or becomes shared, its dirty bytes written at home, and the directory follows (R345). -/
def giveUp (s : State) (d line : Nat) (drop : Bool) : State :=
  let s := notRos s line
  let s := match partFind s d line with
    | none => s
    | some x =>
      let s := (maskedBytes x.dirty x.data).foldl (fun s b => memWrite s (line * 256 + b.1) [b.2]) (carryHome s x)
      if drop then partDrop s d line else partPut s d { x with dirty := 0, excl := false }
  match dirFind s line with
  | none => s
  | some r =>
    let dies := if drop then r.dies &&& ~~~(BitVec.twoPow 64 d) else r.dies
    dirSet s line (if dies = 0 then none else some { r with dies := dies, excl := r.excl && !(r.dies.getLsbD d) })

/-- One die's part of a recall (R345): the home's request and its answer with the dirty bytes; the copy is dropped, or kept shared. -/
def recallOne (s : State) (d line : Nat) (drop : Bool) : State :=
  let s := match partFind s d line with
    | some x => countRecall s x.ctx (paDie (line * 256)) d (maskCount x.dirty)
    | none => s
  giveUp s d line drop

/-- Recall and invalidate every partition copy of a COH line but one die's (R345). -/
def recallOthers (s : State) (line keep : Nat) : State :=
  match dirFind s line with
  | none => s
  | some r => ((List.range 64).filter fun d => r.dies.getLsbD d && d != keep).foldl (fun s d => recallOne s d line true) s

/-- The home reads a COH line: an exclusive copy elsewhere is written back and becomes shared (R345). -/
def recallShared (s : State) (line d : Nat) : State :=
  match exclHolder s line with
  | some h => if h = d then s else recallOne s h line false
  | none => s

/-- The write-back of a die's partition copy to its home: its packets, and its way into the slice (R265, R268, R409). -/
def writeHome (s : State) (d : Nat) (x : CacheLine) : State :=
  if x.dirty = 0 then s else countPackets s x.ctx d (paDie (x.line * 256)) (maskCount x.dirty) true

/-- A partition line leaves: dirty bytes are performed at the home, and the directory forgets a COH copy (R345, R347). -/
def partEvict (s : State) (d : Nat) (x : CacheLine) : State :=
  let s := writeHome s d x
  if x.cls == .coh then giveUp s d x.line true
  else partDrop (homeMerge (carryHome s x) x.line x.dirty x.data) d x.line

/-- A way for a line of the local partition: a free one, else that of a line of either partition that stands in one of its ways and leaves (R270; log 12). -/
def sliceWay (s : State) (d line : Nat) : Option Nat × State :=
  let ways := localWays (sliceReg s d (sliceOf (line * 256)))
  match ways.find? fun w => !(usedWays s d line).contains w with
  | some w => (some w, s)
  | none =>
    let (i, s) := s.choose ways.length
    match ways[i]? with
    | none => (none, s)
    | some w =>
      match (s.die d).slices.find? fun x => sameSet x.line line && x.way == w with
      | some x => (some w, sliceDrop s d x)
      | none => (some w, match (s.die d).partition.find? fun x => sameSet x.line line && x.way == w with | some x => partEvict s d x | none => s)

/-- An access of n bytes from an address in one line at a home by a die, on behalf of a context (R268, R273, R409): its packets, and what it does there. -/
def countTraffic (s : State) (ctx d pa n : Nat) (write ms : Bool) : State :=
  countHome sliceWay (countPackets s ctx d (paDie pa) n write) ctx (pa / 256)
    (if write then rangeMask (pa % 256) n else sectorMask (pa % 256) n) n write ms

/-- A way for a line in a die's remote partition (R269): a free one, else one whose line, of either partition, leaves (log 12). -/
def partRoom (s : State) (d line : Nat) : Option Nat × State :=
  let ways := remoteWays (sliceReg s d (sliceOf (line * 256)))
  match ways.find? fun w => !(usedWays s d line).contains w with
  | some w => (some w, s)
  | none =>
    let (i, s) := s.choose ways.length
    match ways[i]? with
    | none => (none, s)
    | some w =>
      match (s.die d).partition.find? fun x => sameSet x.line line && x.way == w with
      | some x => (some w, partEvict s d x)
      | none => (some w, match (s.die d).slices.find? fun x => sameSet x.line line && x.way == w with | some x => sliceDrop s d x | none => s)

/-- The partition copy of a line for an access of a class, else a way for one: a copy placed under another class leaves first (R344, R350). -/
def partFor (s : State) (d line : Nat) (cls : PageClass) : Option CacheLine × Option Nat × State :=
  match partFind s d line with
  | some x => if x.cls == cls then (some x, some x.way, s) else let (w, s) := partRoom (partEvict s d x) d line; (none, w, s)
  | none => let (w, s) := partRoom s d line; (none, w, s)

/-- An empty line. -/
def CacheLine.empty (line : Nat) (cls : PageClass) : CacheLine :=
  { line := line, way := 0, cls := cls, present := 0, dirty := 0, data := [], victim := false, excl := false, wtime := 0, ctx := 0 }

/-- Fill the bytes of a mask that a line lacks from a reader of physical memory; bytes it has stay. -/
def CacheLine.fill (x : CacheLine) (m : BitVec 256) (rd : Nat → Byte) : CacheLine :=
  let need := m &&& ~~~x.present
  { x with present := x.present ||| m, data := ((List.range 256).filter fun i => need.getLsbD i).foldl (fun t i => putByte t i (rd (x.line * 256 + i))) x.data }

/-- Write bytes of a line for a context, marking them present and dirty; its oldest dirty byte starts the bound of R282. -/
def CacheLine.write (x : CacheLine) (m : BitVec 256) (data : Bytes) (now ctx : Nat) : CacheLine :=
  { x with ctx := ctx, present := x.present ||| m, dirty := x.dirty ||| m, wtime := if x.dirty = 0 then now else x.wtime,
           data := (maskedBytes m data).foldl (fun t b => putByte t b.1 b.2) x.data }

/-- n bytes of a line. -/
def CacheLine.bytes (x : CacheLine) (off n : Nat) : List Byte := readBytes x.data off n

/-- Bytes by offset in a line from a list. -/
def lineBytes (off : Nat) (bs : List Byte) : Bytes := writeBytes [] off bs

/-- A slice's directory takes a record; a full one first recalls the copies of one of its records (R345; log 12). -/
def dirAdd (s : State) (r : DirRec) : State :=
  let h := paDie (r.line * 256)
  let peers := (s.die h).dir.filter fun x => sliceOf (x.line * 256) == sliceOf (r.line * 256) && x.line != r.line
  if (dirFind s r.line).isSome ∨ peers.length < Config.dirRecords then dirSet s r.line (some r)
  else
    let (i, s) := s.choose peers.length
    match peers[i]? with
    | some x => dirSet (recallOthers s x.line 64) r.line (some r)
    | none => dirSet s r.line (some r)

/-- The die obtains a shared copy of a COH line (R345, COH_READ_REQUEST). -/
def cohShare (s : State) (d line : Nat) : State :=
  let s := recallShared s line d
  match dirFind s line with
  | some r => if r.dies.getLsbD d then s else dirSet s line (some { r with dies := r.dies ||| BitVec.twoPow 64 d, excl := false })
  | none => dirAdd s ⟨line, false, BitVec.twoPow 64 d⟩

/-- The home's own line of its local partition goes, its dirty bytes written to HBM4E (R345). -/
def homeLineGone (s : State) (line : Nat) : State :=
  match (s.die (paDie (line * 256))).slices.find? fun x => x.line == line with
  | some x => sliceDrop s (paDie (line * 256)) x
  | none => s

/-- The die obtains exclusive ownership of a COH line: every other copy is invalidated first, the home's own line among them (R345, COH_OWNERSHIP_REQUEST). -/
def cohOwn (s : State) (d line : Nat) : State := dirAdd (homeLineGone (recallOthers s line d) line) ⟨line, true, BitVec.twoPow 64 d⟩

/-- The request for ownership and its grant, when the die does not hold the line exclusive (R265, R345, R409). -/
def countClaim (s : State) (ctx d line : Nat) : State :=
  if exclHolder s line = some d then s else countPackets s ctx d (paDie (line * 256)) 0 true

/-- The replica area of a context on a die (R346): first die offset and granules. -/
def replicaArea (c : Ctx) : Nat × Nat := (c.field 0x20 8, c.field 0x28 4 * 16)

/-- The replica of a granule that a die holds. -/
def replicaOf (s : State) (pa d : Nat) : Option Nat :=
  match (s.die (paDie pa)).ros.find? fun r => r.granule == pa / 65536 with
  | some r => (r.copies.find? fun x => x.1 == d).map fun x => x.2
  | none => none

/-- Physical addresses of the replicas that a die holds. -/
def replicasOn (s : State) (d : Nat) : List Nat :=
  s.dies.flatMap fun x => x.2.ros.flatMap fun r => (r.copies.filter fun y => y.1 == d).map fun y => y.2

/-- Errors of a granule's sectors stand in a copy of it as well (R273). -/
def copyBad (s : State) (src dst : Nat) : State :=
  let inside (lo x : Nat) : Bool := decide (lo / 32 ≤ x) && decide (x < lo / 32 + 2048)
  let kept := s.badSectors.filter fun x => !inside dst x.1
  { s with badSectors := (s.badSectors.filter fun x => inside src x.1).foldl (fun m x => kvSet m (x.1 - src / 32 + dst / 32) x.2) kept }

/-- The first remote read of a ROS granule from a die copies it to the die's replica area when that has room, line by line (R264, R346): to the lowest granule of the area that is free, which the spec leaves open (log 76). -/
def makeReplica (s : State) (ctx pa d : Nat) : State :=
  let (base, n) := replicaArea (s.ctx ctx)
  let used := replicasOn s d
  match (List.range n).find? fun i => !used.contains (d * dieWindow + base + i * 65536) with
  | none => s
  | some i =>
    let at' := d * dieWindow + base + i * 65536
    let src := pa / 65536 * 65536
    let cells : Bytes := s.mem.filter fun (c : Host.Cell) => src ≤ c.1 && c.1 < src + 65536
    let s := countHbm (countHbm s (paDie pa) ctx 65536 false) d ctx 65536 true
    let s := copyBad ((List.range 256).foldl (fun s _ => countPackets s ctx d (paDie pa) 256 false) s) src at'
    let s := { s with mem := cells.foldl (fun (m : Bytes) (c : Host.Cell) => putByte m (c.1 - src + at') c.2) (dropRange s.mem at' (at' + 65536)) }
    s.updDie (paDie pa) fun k =>
      let g := pa / 65536
      match k.ros.find? fun r => r.granule == g with
      | some r => { k with ros := { r with copies := r.copies ++ [(d, at')] } :: k.ros.filter fun (x : RosRec) => x.granule != g }
      | none => { k with ros := ⟨g, [(d, at')]⟩ :: k.ros }

/-- Read n bytes of one line at its home, whatever copies dies hold (R183, R201, R344): an exclusive COH copy is written back first. -/
def homeRead (s : State) (ctx d : Nat) (l : Loc) (n : Nat) : List Byte × State :=
  if l.host then (readBytes s.hostMem l.pa n, s)
  else
    let s := if l.cls == .coh then recallShared s (l.pa / 256) 64 else s
    (readBytes s.mem l.pa n, countTraffic s ctx d l.pa n false l.ms)

/-- Dirty bytes of a partition copy that no directory keeps go home; the copy stays, clean (R290, R347). -/
def partClean (s : State) (d : Nat) (x : CacheLine) : State :=
  homeMerge (carryHome (writeHome (partPut s d { x with dirty := 0 }) d x) x) x.line x.dirty x.data

/-- Dirty bytes of the die's own partition copy of a line go home before an access of the die that is performed there; the copy stays, clean (R183, R347). -/
def partHome (s : State) (d line : Nat) : State :=
  match partFind s d line with
  | some x => if x.dirty = 0 then s else if x.cls == .coh then recallOne s d line false else partClean s d x
  | none => s

/-- The die's own SWM copy of a line shows what an access of the die has just found or left at the home: its clean bytes there are the home's (R184). -/
def partRefresh (s : State) (d : Nat) (l : Loc) (n : Nat) : State :=
  match partFind s d (l.pa / 256) with
  | some x =>
    if l.host || x.cls != .swm then s
    else
      let m := rangeMask (l.pa % 256) n &&& x.present &&& ~~~x.dirty
      partPut s d { x with data := ((List.range 256).filter fun i => m.getLsbD i).foldl (fun t i => putByte t i (byteAt s.mem (x.line * 256 + i))) x.data }
  | none => s

/-- Read n bytes of one line on behalf of a die, beyond the L1s (R344): at the home, through the die's partition, or from a replica, which only a ROS access reads (R350); dirty bytes of the die's copy under another class come first (R184). Bytes with an uncorrectable error fill nothing (R273). -/
def dieRead (s : State) (ctx d : Nat) (l : Loc) (n : Nat) : List Byte × State :=
  let line := l.pa / 256
  let off := l.pa % 256
  let s := if l.host || l.cls == .ros then s else notRos s line
  if l.host ∨ l.ms ∨ l.die = d then homeRead s ctx d l n
  else match l.cls with
    | .dp | .ucr => homeRead (partHome s d line) ctx d l n
    | .ros =>
      let s := partHome s d line
      let s := if (replicaOf s l.pa d).isSome then s else makeReplica s ctx l.pa d
      match replicaOf s l.pa d with
      | some r => (readBytes s.mem (r + l.pa % 65536) n, countTraffic s ctx d (r + l.pa % 65536) n false false)
      | none => homeRead s ctx d l n
    | .coh | .swm =>
      let need := sectorMask off n
      let (x, w, s) := partFor s d line l.cls
      let x := x.getD { CacheLine.empty line l.cls with way := w.getD 0 }
      if need &&& ~~~x.present = 0 then (x.bytes off n, s)
      else
        let bad := badBytes s { l with pa := line * 256 + off / 32 * 32 } (off % 32 + n)
        let s := if l.cls == .coh then (if w.isSome && !bad then cohShare s d line else recallShared s line d) else s
        let x := x.fill need fun a => byteAt s.mem a
        let s := if w.isSome && !bad then partPut s d x else s
        (x.bytes off n, countTraffic s ctx d l.pa n false false)

/-- Perform masked bytes of one line at its home on behalf of a die: the copies of a COH line are invalidated first (R183, R345). -/
def lineHome (s : State) (ctx d : Nat) (cls : PageClass) (ms : Bool) (line : Nat) (m : BitVec 256) (data : Bytes) : State :=
  if m = 0 then s
  else
    let s := if cls == .coh then recallOthers s line 64 else s
    homeMerge (countHome sliceWay (countPackets s ctx d (paDie (line * 256)) (maskCount m) true) ctx line m (maskCount m) true ms) line m data

/-- Write masked bytes of one line on behalf of a die, beyond the L1s (R344, R345, R347, R358). -/
def dieWrite (s : State) (ctx d : Nat) (cls : PageClass) (ms : Bool) (line : Nat) (m : BitVec 256) (data : Bytes) : State :=
  if m = 0 then s
  else if paDie (line * 256) = d ∨ ms then lineHome s ctx d cls ms line m data
  else match cls with
    | .dp | .ucr | .ros => lineHome s ctx d cls ms line m data
    | .coh =>
      match partFor (notRos s line) d line cls with
      | (x, some w, s) =>
        let s := cohOwn (countClaim s ctx d line) d line
        let x := (partFind s d line).getD (x.getD { CacheLine.empty line cls with way := w })
        let s := partPut s d { x.write m data s.now ctx with excl := true }
        (maskWords line m).foldl (fun s pa => fireWatches s pa (wordNow s pa)) s
      | (_, none, s) => lineHome s ctx d cls ms line m data
    | .swm =>
      match partFor (notRos s line) d line cls with
      | (x, some w, s) => partPut s d ((x.getD { CacheLine.empty line cls with way := w }).write m data s.now ctx)
      | (_, none, s) => lineHome s ctx d cls ms line m data

/-- Ticks until a bank's refresh window ends; 0 outside it. While the bank's contents are copied to the spare, until that ends (R277, R278; log 63). -/
def refreshLeft (s : State) (die bank : Nat) : Nat :=
  let t := (s.atime die).toNat % 2 ^ 18
  let w := if bank * 2 ^ 14 ≤ t ∧ t < bank * 2 ^ 14 + 2 ^ 13 then bank * 2 ^ 14 + 2 ^ 13 - t else 0
  if (s.die die).spare = some bank then Nat.max w ((s.die die).copyEnd - s.now) else w

/-- The bank of a shelf address. -/
def shelfBank (pa : Nat) : Nat := shelfOff pa / 512 % 16

/-- Ticks for which the copy of an HBM4E channel to a spare holds back what goes to the channel: memory logic, and lines that the slice does not hold (R432; log 63). -/
def channelWait (s : State) (l : Loc) : Nat :=
  let d := s.die l.die
  if d.hbmSpares.getLast? == some (sliceOf l.pa) && (l.ms || !d.slices.any fun x => x.line == l.pa / 256) then d.hbmCopyEnd - s.now else 0

/-- Ticks for which a place's shelf bank or HBM4E channel holds accesses back (R277, R432). -/
def bankWait (s : State) (l : Loc) : Nat :=
  if l.host then 0 else if inShelf l.pa then refreshLeft s l.die (shelfBank l.pa) else channelWait s l

/-- A line that an engine command holds exclusively (R254). -/
def lineHeld (s : State) (line : Nat) : Bool :=
  s.clusters.any fun x => x.2.engines.toList.any fun e => e.cmds.any fun m => m.holds line

/-- What keeps an access waiting at its home: a line held exclusively by an engine, or a shelf bank in refresh or a channel that is copied (R254, R277, R432). -/
def homeBusy (s : State) (l : Loc) : Bool := !l.host && (lineHeld s (l.pa / 256) || bankWait s l != 0)

/-- A request waits at its home, which looks at it again when its bank's window ends, or by and by (log 2). -/
def State.awaitHome (s : State) (k : Nat) (m : Msg) : State :=
  let wait := bankWait s m.loc
  let s := if wait = 0 || !inShelf m.loc.pa then s.postOnce 64 (m.event k) else s.postOnce wait (.shelfRefreshEnd m.loc.die (shelfBank m.loc.pa))
  if (s.die m.loc.die).waiting.any fun x => x.msg == k then s
  else s.updDie m.loc.die fun d => { d with waiting := d.waiting ++ [⟨k, m.line, s.now⟩] }

/-- Dirty bytes of an L1 line whose home performs them now find it taken: an engine holds the line, or its shelf bank is in refresh (R254, R277). A slice takes them without a fill (R268), so the copy of a channel holds none back. -/
def writeHeld (s : State) (d : Nat) (x : CacheLine) : Bool :=
  (paDie (x.line * 256) == d || !(x.cls == .coh || x.cls == .swm)) && (lineHeld s x.line || (inShelf (x.line * 256) && refreshLeft s (paDie (x.line * 256)) (shelfBank (x.line * 256)) != 0))

/-- Dirty bytes of a line are written beyond the L1. A home that has failed loses them, with a record as for a store (R196); its address is the line's physical one, since the L1 keeps no other (log 77). -/
def writeBeyond (s : State) (ctx d : Nat) (l : Loc) (m : BitVec 256) (data : Bytes) : State :=
  if homeFailed s l && (l.die == d || !(l.cls == .coh || l.cls == .swm)) then homeError s ctx l (BitVec.ofNat 64 l.pa)
  else dieWrite s ctx d l.cls false (l.pa / 256) m data

/-- Dirty bytes of an L1 line go beyond the L1; those that find their home taken wait there in their turn. -/
def writeBack (s : State) (c : Nat) (x : CacheLine) : State :=
  let ctx := ((s.core c).ctx).getD 0
  let l : Loc := ⟨x.line * 256, x.cls, false, paDie (x.line * 256), false⟩
  if writeHeld s (dieOfCore c) x then
    let m : Msg := ⟨⟨32 * c, 0, 0⟩, ctx, 0, 0, l, .merge x.dirty x.data⟩
    (s.numberMsg m).awaitHome s.nextMsg m
  else writeBeyond s ctx (dieOfCore c) l x.dirty x.data

/-- A write-back of a core, to one of some lines, still waits at its home. -/
def mergeWaits (s : State) (c : Nat) (p : Nat → Bool) : Bool :=
  s.msgs.any fun x => match x.2.kind with | .merge _ _ => coreOfKey x.2.fr.key == c && p x.2.line | _ => false

/-- Write back the dirty bytes of an L1 line; the line stays, clean (R182, R283). -/
def l1Clean (s : State) (c line : Nat) : State :=
  match l1Find s c line with
  | none => s
  | some x =>
    if x.dirty = 0 then s
    else writeBack (l1Put s c { x with dirty := 0 }) c x

/-- Write back and drop an L1 line. -/
def l1Flush (s : State) (c line : Nat) : State := l1Drop (l1Clean s c line) c line

/-- Every line of a core's L1 is written back and dropped (R178). -/
def l1FlushAll (s : State) (c : Nat) : State := (s.core c).l1.foldl (fun s x => l1Flush s c x.line) s

/-- Make room for a line in its set: the next victim, else a choice (R182, R183; log 12). A line's set is its number modulo the sets (log 66). -/
def l1Room (s : State) (c line : Nat) : State :=
  let sets := l1Sets (s.core c)
  let peers := (s.core c).l1.filter fun x => x.line % sets == line % sets
  if peers.length < 16 then s
  else match peers.find? fun x => x.victim with
    | some x => l1Flush s c x.line
    | none =>
      let (i, s) := s.choose peers.length
      match peers[i]? with
      | some x => l1Flush s c x.line
      | none => s

/-- The L1 copy of a line made under another class than an access has gives way, its dirty bytes written back (R344, R350). -/
def l1Match (s : State) (c : Nat) (l : Loc) : State :=
  match l1Find s c (l.pa / 256) with
  | some x => if x.cls == l.cls then s else l1Flush s c (l.pa / 256)
  | none => s

/-- An access performed at the home (R183, R184): the L1 copy's dirty bytes go out and the copy goes; dirty bytes of the die's own partition copy are carried home, and that copy stays, clean. -/
def bypassL1 (s : State) (c : Nat) (l : Loc) : State :=
  if l.host then s else partHome (l1Flush s c (l.pa / 256)) (dieOfCore c) (l.pa / 256)

/-- The dirty SWM copies of a die's partition go home. -/
def partsClean (s : State) (d : Nat) : State := ((s.die d).partition.filter fun x => x.cls == .swm && x.dirty != 0).foldl (fun s x => partClean s d x) s

/-- Bytes that a line holds for an access of a class. -/
def copyHas (x : Option CacheLine) (cls : PageClass) (m : BitVec 256) : Bool :=
  match x with | some x => x.cls == cls && m &&& ~~~x.present == 0 | none => false

/-- The L1 has the bytes of a load. -/
def l1Serves (s : State) (c : Nat) (l : Loc) (n : Nat) (cp : CachePol) : Bool :=
  l1Holds (dieOfCore c) l && cp != .memorySide && copyHas (l1Find s c (l.pa / 256)) l.cls (rangeMask (l.pa % 256) n)

/-- The die's remote partition has the bytes of a load that does not bypass (R201). -/
def partServes (s : State) (c : Nat) (l : Loc) (n : Nat) (cp : CachePol) : Bool :=
  cp != .memorySide && (l.cls == .coh || l.cls == .swm) && !l.ms && !l.host && l.die != dieOfCore c &&
    copyHas (partFind s (dieOfCore c) (l.pa / 256)) l.cls (rangeMask (l.pa % 256) n)

/-- A miss of the line is outstanding in its slice, or waits in the ingress queue (R271). -/
def lineMissing (s : State) (l : Loc) : Bool :=
  (kvGet (s.die l.die).misses (l.pa / 256)).isSome || (s.die l.die).missWait.any fun r => r.line == l.pa / 256

/-- Requests of a line are at its home that have not been served (R271). -/
def lineQueued (s : State) (l : Loc) : Bool := lineMissing s l || (s.die l.die).waiting.any fun x => x.line == l.pa / 256

/-- The home has bytes without a fill (R268, R271): it is no slice, or the slice holds them. -/
def homeHas (s : State) (l : Loc) (n : Nat) : Bool :=
  l.host || l.ms || inShelf l.pa || (s.die l.die).slices.any fun x => x.line == l.pa / 256 && rangeMask (l.pa % 256) n &&& ~~~x.present == 0

/-- Whether a load can be served at once on the accessing die (R199): the L1, the partition or a replica has the bytes, or its home is there, has them and is not busy, and no earlier request to the line waits (R271). -/
def servedHere (s : State) (c : Nat) (l : Loc) (n : Nat) (cp : CachePol) : Bool :=
  !l.host && (l1Serves s c l n cp || partServes s c l n cp
    || (l.die == dieOfCore c && homeHas s l n && !homeBusy s l && !lineQueued s l)
    || (l.cls == .ros && cp != .memorySide && (replicaOf s l.pa (dieOfCore c)).isSome))

/-- A load of n bytes of one line by a core (R182, R183, R201, R280): one that bypasses the L1 is performed at the home. Bytes with an uncorrectable error, or of a home that has failed, fill nothing (R273, R278). -/
def coreRead (s : State) (ctx c : Nat) (l : Loc) (n : Nat) (cp : CachePol) : List Byte × State :=
  let d := dieOfCore c
  let line := l.pa / 256
  let off := l.pa % 256
  if !l1Holds d l || cp == .memorySide then
    let (bs, s) := homeRead (bypassL1 s c l) ctx d l n
    (bs, partRefresh s d l n)
  else
    let s := l1Match s c l
    let lo := off / 32 * 32
    let k := (off + n - 1) / 32 * 32 + 32 - lo
    match l1Find s c line with
    | some x =>
      if rangeMask off n &&& ~~~x.present = 0 then (x.bytes off n, s)
      else
        let bad := badBytes s { l with pa := line * 256 + lo } k
        let (bs, s) := dieRead s ctx d { l with pa := line * 256 + lo } k
        let y := x.fill (rangeMask lo k) fun a => (bs[a - line * 256 - lo]?).getD 0
        (y.bytes off n, if bad then s else l1Put s c y)
    | none =>
      if l1Sets (s.core c) = 0 ∨ cp == .noAllocate ∨ badBytes s { l with pa := line * 256 + lo } k then dieRead s ctx d l n
      else
        let s := l1Room s c line
        let (bs, s) := dieRead s ctx d { l with pa := line * 256 + lo } k
        let x := { CacheLine.empty line l.cls with victim := cp == CachePol.stream }
        let x := x.fill (rangeMask lo k) fun a => (bs[a - line * 256 - lo]?).getD 0
        (x.bytes off n, l1Put s c x)

/-- A store of bytes of one line by a core into its L1, or beyond it (R182, R183): a store that bypasses the L1, or misses under no-allocate, is performed at the home. The write-back deadline of R282 starts when a clean line becomes dirty. -/
def coreWrite (s : State) (ctx c : Nat) (l : Loc) (bs : List Byte) (cp : CachePol) : State :=
  let d := dieOfCore c
  let line := l.pa / 256
  let off := l.pa % 256
  let m := rangeMask off bs.length
  let data := lineBytes off bs
  if l.host then { s with hostMem := writeBytes s.hostMem l.pa bs }
  else if !l1Holds d l || cp == .memorySide then partRefresh (lineHome (bypassL1 s c l) ctx d l.cls l.ms line m data) d l bs.length
  else
    let s := l1Match s c l
    let keep (s : State) (x : CacheLine) : State :=
      let s := if x.dirty = 0 then s.post 65536 (.l1WritebackDeadline c line) else s
      l1Put s c (x.write m data s.now ctx)
    match l1Find s c line with
    | some x => keep s x
    | none =>
      if cp == .noAllocate then partRefresh (lineHome (bypassL1 s c l) ctx d l.cls l.ms line m data) d l bs.length
      else if l1Sets (s.core c) = 0 then dieWrite s ctx d l.cls l.ms line m data
      else keep (l1Room s c line) { CacheLine.empty line l.cls with victim := cp == CachePol.stream }

/-- An atomic or timed access, performed at the home (R183, R208, R345): copies of the line give way first. -/
def atHome (s : State) (c : Nat) (l : Loc) : State :=
  let s := bypassL1 s c l
  if l.cls == .coh then recallOthers s (l.pa / 256) 64 else s

/-- A write of bytes performed at the home for an access that is already there. -/
def homeWrite (s : State) (ctx d : Nat) (l : Loc) (bs : List Byte) : State :=
  if l.host then { s with hostMem := writeBytes s.hostMem l.pa bs }
  else lineHome s ctx d l.cls l.ms (l.pa / 256) (rangeMask (l.pa % 256) bs.length) (lineBytes (l.pa % 256) bs)

/-- A store of bytes of one line that a die makes itself, with no L1 (R327): its partition takes those of a SWM line of another die (R347). -/
def deviceWrite (s : State) (ctx d : Nat) (l : Loc) (bs : List Byte) : State :=
  if l.host then homeWrite s ctx d l bs
  else dieWrite s ctx d l.cls l.ms (l.pa / 256) (rangeMask (l.pa % 256) bs.length) (lineBytes (l.pa % 256) bs)

/-- The release action on a core's L1 (R283, R357): dirty bytes of the chosen classes are written back. -/
def l1Release (s : State) (c : Nat) (p : PageClass → Bool) : State :=
  ((s.core c).l1.filter fun x => p x.cls && x.dirty != 0).foldl (fun s x => l1Clean s c x.line) s

/-- The acquire action on a core's L1: write back, then invalidate (R283, R357). -/
def l1Acquire (s : State) (c : Nat) (p : PageClass → Bool) : State :=
  ((s.core c).l1.filter fun x => p x.cls).foldl (fun s x => l1Flush s c x.line) s

/-- Classes that a release writes back: SH lines at every scope, DP lines from CLUSTER on (R283, R357). -/
def relClasses (dp : Bool) (k : PageClass) : Bool := dp || k != .dp
/-- Classes that an acquire drops: as a release, but no ROS line (R357). -/
def acqClasses (dp : Bool) (k : PageClass) : Bool := k != .ros && (dp || k != .dp)

end Sys2Proof.Machine
end

