-- ==== Sys2Proof/Machine/Outstanding.lean ====
section
/-! DEFINITION. Outstanding long instructions: their footprints, completion, the faults that arrive with a response, and the withdrawal of a wait (R60, R61, R70, R72, R196, R199). -/

namespace Sys2Proof.Machine

/-- Registers from r up. -/
def regsFrom (r n : Nat) : List Nat := (List.range n).map fun i => r + i

/-- The S register that a lane selection reads. -/
def pmRegs : Pm → List Nat
  | .all => [] | .s1 => [1] | .s2 => [2] | .s3 => [3]

/-- An outstanding instruction by its identity, with its entry. -/
def Swell.findOp (w : Swell) (op : Nat) : Option (Nat × Outst) :=
  (List.range 8).findSome? fun e => ((w.ent e).outst.find? fun o => o.id == op).map fun o => (e, o)

/-- An outstanding instruction of a resident swell. -/
def State.opAt (s : State) (sw : SwellId) (op : Nat) : Option (Swell × Nat × Outst) :=
  match s.swellAt sw with
  | some w => (w.findOp op).map fun x => (w, x.1, x.2)
  | none => none

/-- The identity of the swell's next operation. -/
def Swell.takeOp (w : Swell) : Nat × Swell := (w.nextOp, { w with nextOp := w.nextOp + 1 })

/-- Add an outstanding instruction of the issuing unit with lookahead `la` (R70). The window counts the unit itself, which has still to end. -/
def State.addOutst (s : State) (id : FragId) (kind : OutKind) (la : Nat) (reads writes : Foot) : Nat × State :=
  match s.fragAt id with
  | none => (0, s)
  | some (w, f) =>
    let op := w.nextOp
    let o : Outst := { id := op, unit := f.unitPc, pc := f.pc, kind := kind, window := la + 1, reads := reads, writes := writes, sent := s.now, fail := none }
    (op, s.updSwell id.swell fun w => { w with nextOp := op + 1 }.setEnt id.ent { f with outst := f.outst ++ [o] })

/-- Change an outstanding instruction. -/
def State.updOp (s : State) (sw : SwellId) (op : Nat) (g : Outst → Outst) : State :=
  match s.opAt sw op with
  | some (_, e, _) => s.updFrag ⟨sw.key, sw.uid, e⟩ fun f => { f with outst := f.outst.map fun o => if o.id = op then g o else o }
  | none => s

/-- WKIND of a wait (R41). -/
def WaitKind.code : WaitKind → BitVec 4
  | .tag _ _ _ _ _ _ => 1 | .bwait _ _ => 2 | .arrive _ _ _ _ => 2 | .enter _ _ _ => 3 | .value _ _ _ _ => 5

/-- WADDR of a wait: the lowest lane's address, or the barrier or the key. -/
def WaitKind.addr : WaitKind → Addr
  | .tag _ _ _ ls _ _ => match ls with | l :: _ => l.sa.setWidth 64 | [] => 0
  | .bwait sa _ => sa.setWidth 64
  | .arrive sa _ _ _ => sa.setWidth 64
  | .enter k _ _ => k
  | .value _ _ _ ls => match ls.find? fun l => l.got.isNone with | some l => l.va | none => 0

/-- WVAL of a wait: the mask of performed lanes, a comparand, a generation or a sequence number; 0 for an arrival waiting for PEND, to which the spec gives WKIND only (log 70). -/
def WaitKind.val : WaitKind → Addr
  | .tag _ _ _ _ _ done => done.setWidth 64
  | .bwait _ g => g.setWidth 64
  | .arrive _ _ _ _ => 0
  | .enter _ q _ => q.setWidth 64
  | .value _ _ _ ls => match ls.find? fun l => l.got.isNone with | some l => l.cmp.setWidth 64 | none => 0

/-- Whether the instruction after the waiting one begins a region (R47). -/
def WaitKind.breaks : WaitKind → Bool
  | .tag m _ _ _ _ _ => m != .ldf
  | .bwait _ _ => false
  | .arrive _ _ _ _ => true
  | .enter _ _ _ => true
  | .value _ _ _ _ => false

/-- Whether the waiting instruction is an acquire (R211, R234, R241, R307). -/
def WaitKind.acquires : WaitKind → Bool
  | .tag m _ _ _ _ _ => m == .ldf || m == .ldc
  | .bwait _ _ => true
  | .arrive _ _ _ _ => false
  | .enter _ _ _ => true
  | .value _ _ _ _ => true

/-- WKIND, WADDR and WVAL of a fragment that waits for an outstanding instruction (R41, R199, R381). -/
def Outst.wake (o : Outst) : BitVec 4 × Addr × Addr :=
  match o.kind with
  | .wait k => (k.code, k.addr, k.val)
  | .load x =>
    let va : Addr := match x.lanes.find? fun l => !x.got.any fun g => g.1 == l.lane with | some l => l.va | none => 0
    match x.notBefore with | some n => (7, va, n) | none => (4, va, 0)
  | _ => (0, 0, 0)

/-- A swell wherever it is: its key when it is resident. -/
def anySwell (s : State) (uid : Nat) : Option (Option Nat × Swell) :=
  match s.findUid uid with
  | some (k, w) => some (some k, w)
  | none => (s.savedSwells.find? fun w => w.uid == uid).map fun w => (none, w)

/-- WADDR and WVAL of a fragment in STATE 1 follow its wait (R199, R211, R381). -/
def Frag.followWait (f : Frag) : Frag :=
  match f.wait with
  | some (.op k) =>
    match f.outst.find? fun o => o.id == k with
    | some o => if f.st = 1 then { f with wkind := o.wake.1, waddr := o.wake.2.1, wval := o.wake.2.2 } else f
    | none => f
  | _ => f

/-- An entry's WADDR and WVAL follow its wait. -/
def Swell.refreshWait (w : Swell) (e : Nat) : Swell := w.setEnt e (w.ent e).followWait

/-- STATE of a running fragment: 5 in the handler, else 0 (R41). -/
def Swell.runState (w : Swell) (e : Nat) : BitVec 3 := if w.busy && w.busyEnt.toNat == e then 5 else 0

/-- The fragment leaves STATE 1 and is ready again, at the PC it has. -/
def State.wakeFrag (s : State) (id : FragId) : State :=
  s.updSwell id.swell fun w =>
    w.setEnt id.ent { w.ent id.ent with st := w.runState id.ent, wkind := 0, waddr := 0, wval := 0, wait := none, age := 0, readyAt := s.now }

/-- An outstanding instruction completes (R70): it is forgotten, values held of the registers it wrote go (R69), and a fragment that waited for it goes on. -/
def State.completeOp (s : State) (sw : SwellId) (op : Nat) : State :=
  match s.opAt sw op with
  | none => s
  | some (_, e, o) =>
    let id : FragId := ⟨sw.key, sw.uid, e⟩
    let s := (s.updFrag id fun f => { f with outst := f.outst.filter fun o => o.id != op }).dropHeld sw.key o.writes.v
    match s.fragAt id with
    | some (_, f) => match f.wait with
      | some (.op k) => if k = op then s.wakeFrag id else s
      | _ => s
    | none => s

/-- The fragment waits for an outstanding instruction (R41): STATE 1 with its WKIND, WADDR and WVAL. -/
def State.blockOn (s : State) (id : FragId) (o : Outst) : State :=
  s.updFrag id fun f => { f with st := 1, wkind := o.wake.1, waddr := o.wake.2.1, wval := o.wake.2.2, wait := some (.op o.id), age := 0 }

/-- Add a wait of the issuing unit (R61). With no window, or when the next instruction begins a region, the fragment waits at once; else when its window is used up. -/
def State.addWait (s : State) (id : FragId) (k : WaitKind) (la : Nat) (reads writes : Foot) : Nat × State :=
  let (op, s) := s.addOutst id (.wait k) la reads writes
  if la = 0 ∨ k.breaks then
    match s.fragAt id with
    | some (_, f) => match f.outst.find? fun o => o.id == op with
      | some o => (op, s.blockOn id o)
      | none => (op, s)
    | none => (op, s)
  else (op, s)

/-- Whether a lane of a load has been performed. -/
def LoadOp.has (o : LoadOp) (lane : Nat) : Bool := o.got.any fun g => g.1 == lane

/-- A load with a lane not yet performed. -/
def Outst.loading (o : Outst) : Bool :=
  match o.kind with
  | .load x => x.lanes.any fun l => !x.has l.lane
  | _ => false

/-- A remote load of a die's core, or a timed one (R199, R381): waiting for it is a blocking point, and it can be cancelled (R61). -/
def LoadOp.remote (x : LoadOp) (d : Nat) : Bool := x.notBefore.isSome || x.lanes.any fun l => l.loc.die != d

/-- An acquire that is not complete holds later accesses (R198, R283). -/
def Frag.acquiring (f : Frag) : Bool :=
  f.outst.any fun o => match o.kind with | .load x => x.acq | .atomic _ acq _ _ _ => acq | .wait k => k.acquires | _ => false

/-- An earlier load of the fragment to one of these lines is under way: the access keeps behind it (R184, R281). -/
def behindLoads (f : Frag) (ls : List LaneLoc) : Bool :=
  f.outst.any fun o => match o.kind with
    | .load x => x.lanes.any fun l => !x.has l.lane && ls.any fun k => k.loc.host == l.loc.host && k.loc.pa / 256 == l.loc.pa / 256
    | _ => false

/-- Take the fragment out of every waiter list: tag waiters of its cluster, watches and arms of every home (R60, R212). -/
def State.dropWaits (s : State) (id : FragId) : State :=
  { s with
    dies := s.dies.map fun (x : Nat × Die) => (x.1, { x.2 with
      watches := x.2.watches.filter fun y => !y.fr.same id
      armQueue := x.2.armQueue.filter fun y => !y.fr.same id }) }.dropWaiters fun y => y.fr.same id

/-- Whether a section's answer is already on its way to the fragment (R60). -/
def answered (s : State) (id : FragId) : Bool :=
  s.due.any (fun x => match x.2 with | .sectionGrantReply r _ => r.fr.same id | _ => false)
    || s.dies.any fun x => x.2.sluice.waits.any fun y => y.req.fr.same id && (y.granted.isSome || y.stalled)

/-- Withdraw an ENTER of which nothing has been answered: its waiter record, its place at the ingress or the request itself goes. -/
def State.dropEnter (s : State) (id : FragId) : State :=
  State.sluiceLook { s with
    due := s.due.filter fun (x : Nat × Internal) => match x.2 with | .enterRequest r => !r.fr.same id | _ => true
    dies := s.dies.map fun (x : Nat × Die) => (x.1, { x.2 with sluice := { x.2.sluice with
      waits := x.2.sluice.waits.filter fun y => !y.req.fr.same id
      ingress := x.2.sluice.ingress.filter fun y => !y.req.fr.same id } })
    msgs := s.msgs.filter fun (x : Nat × Msg) => match x.2.kind with | .sect .enter r => !r.fr.same id | _ => true }

/-- Whether a wait can still be withdrawn (R60): nothing of it has been performed or answered. -/
def WaitKind.open (s : State) (id : FragId) : WaitKind → Bool
  | .tag _ _ _ _ _ done => done == 0
  | .bwait _ _ => true
  | .arrive _ _ _ _ => true
  | .enter _ _ _ => !answered s id
  | .value _ _ _ ls => !ls.all fun l => l.got.isSome

/-- Cancel an outstanding instruction and the fragment's younger ones: the PC goes back to its unit, which runs again in full. -/
def State.cancelFrom (s : State) (id : FragId) (o : Outst) : State :=
  (s.updFrag id fun f => { f with pc := o.unit, hints := ⟨none, []⟩, outst := f.outst.filter (fun x => x.id < o.id), breakDue := false }).wakeFrag id

/-- Withdraw the fragment's wait so that it can take a fault (R60); none while the wait has been answered or partly performed. FPC is then the waiting instruction. -/
def State.withdraw (s : State) (id : FragId) : Option State :=
  match s.fragAt id with
  | none => none
  | some (_, f) =>
    if f.st ≠ 1 then none
    else match f.wait with
      | some (.op op) =>
        match f.outst.find? fun o => o.id == op with
        | none => some (s.wakeFrag id)
        | some o =>
          match o.kind with
          | .wait k => if k.open s id then some (((s.dropWaits id).dropEnter id).cancelFrom id o) else none
          | _ => some (s.cancelFrom id o)
      | _ => some (s.wakeFrag id)

/-- The fault that came with a response is taken once every other outstanding instruction of the fragment has completed or failed, a wait among them being withdrawn: the earliest in program order, with FPC at its unit; the others recur (R72). -/
def State.settleFails (s : State) (id : FragId) : State :=
  match s.fragAt id with
  | none => s
  | some (_, f) =>
    match f.outst with
    | [] => s
    | o :: rest =>
      match o.fail with
      | none => s
      | some r =>
        if rest.all fun x => x.fail.isSome || (match x.kind with | .wait k => k.open s id | _ => false) then
          (((((s.dropWaits id).dropEnter id).wakeFrag id).updFrag id fun f => { f with pc := o.unit, hints := ⟨none, []⟩, outst := [], breakDue := false }).takeFault id r)
        else s

/-- An outstanding instruction has met a fault with its response (R72). -/
def State.failOp (s : State) (sw : SwellId) (op : Nat) (r : FaultRec) : State :=
  match s.opAt sw op with
  | none => s
  | some (_, e, _) => (s.updOp sw op fun o => { o with fail := some r }).settleFails ⟨sw.key, sw.uid, e⟩

/-- An instruction has completed: a failure that waited for it may now be taken. -/
def State.finishOp (s : State) (sw : SwellId) (op : Nat) : State :=
  match s.opAt sw op with
  | none => s
  | some (_, e, _) => (s.completeOp sw op).settleFails ⟨sw.key, sw.uid, e⟩

/-- A wait has been performed (R61): its results are written, and the fragment goes on behind it, in a new region where R47 says so. -/
def State.finishWait (s : State) (id : FragId) (o : Outst) (k : WaitKind) (g : Swell → Swell) : State :=
  let s := (s.updSwell id.swell g).completeOp id.swell o.id
  let s := if k.breaks then s.updSwell id.swell fun w => w.newRegion id.ent else s
  s.settleFails id

/-- The wait of a fragment that is under way. -/
def Frag.waitOf (f : Frag) : Option (Outst × WaitKind) :=
  f.outst.findSome? fun o => match o.kind with | .wait k => some (o, k) | _ => none

end Sys2Proof.Machine
end

