-- ==== Sys2Proof/Machine/Packets.lean ====
section
/-! DEFINITION. Requests at their homes: the order of a fragment's accesses, loads with their miss lists, stores, atomics, and the requests that a home holds (R184, R196, R198, R206 to R209, R254, R265 to R271, R277, R281, R283, R377). -/

namespace Sys2Proof.Machine

/-! ## Atomic operations (R206, R207) -/

/-- An atomic operation: the old value, the operand (CAS: the comparand and the new value), and what is written, if anything. -/
abbrev AtomFn := Word → Word → Word → Option Word

/-- The operations of R206 and R207. -/
def atomFn : AtomCode → AtomFn
  | .add => fun old a _ => some (old + a)
  | .and => fun old a _ => some (old &&& a)
  | .or => fun old a _ => some (old ||| a)
  | .xor => fun old a _ => some (old ^^^ a)
  | .min => fun old a _ => some (smin old a)
  | .max => fun old a _ => some (smax old a)
  | .minn => fun old a _ => some (nmin old a)
  | .maxn => fun old a _ => some (nmax old a)
  | .xchg => fun _ a _ => some a
  | .cas => fun old a b => if old = a then some b else none
  | .fadd => fun old a _ => some (fadd atomicEnv old a).1
  | .fmin => fun old a _ => some (fmin old a).1
  | .fmax => fun old a _ => some (fmax old a).1
  | .inc => fun old a _ => some (if a.ule old then 0 else old + 1)

/-! ## Earlier requests of a fragment -/

/-- An earlier request of the fragment's swell to the line is still to be performed, or a write-back of its core, or a timed store of the fragment to one of the bytes (R184, R208, R281, R377). -/
def behindOwn (s : State) (fr : FragId) (before : Nat) (l : Loc) (n : Nat) : Bool :=
  s.msgs.any fun x => decide (x.1 < before) && x.2.loc.host == l.host &&
    match x.2.kind with
    | .timedStore bs _ => x.2.fr.same fr && decide (x.2.loc.pa < l.pa + n) && decide (l.pa < x.2.loc.pa + bs.length)
    | .store _ | .atomic _ _ _ _ _ => x.2.fr.uid == fr.uid && x.2.line == l.pa / 256
    | .merge _ _ => coreOfKey x.2.fr.key == coreOfKey fr.key && x.2.line == l.pa / 256
    | .load _ _ _ | .arm _ | .prefetch _ | .sect _ _ | .prim _ | .marker _ | .timedLoad _ _ _ _ => false

/-- A request of a swell that writes memory. -/
def Msg.writes (m : Msg) : Bool := match m.kind with | .store _ | .timedStore _ _ | .atomic _ _ _ _ _ => true | _ => false

/-- Every earlier access of the fragment has been performed (R283): no load is under way, no store, atomic or timed store is on its way or held, and no write-back of its core waits at its home. -/
def relReady (s : State) (id : FragId) (f : Frag) : Bool :=
  !f.outst.any Outst.loading && !(s.msgs.any fun x => x.2.fr.uid == id.uid && x.2.writes) && !mergeWaits s (coreOfKey id.key) fun _ => true

/-- The L1 action of a release (R283, R357). -/
def releaseAll (s : State) (id : FragId) (dp : Bool) : State := l1Release s (coreOfKey id.key) (relClasses dp)

/-- The L1 action of an acquire (R283, R357). -/
def acquireAll (s : State) (id : FragId) (dp : Bool) : State := l1Acquire s (coreOfKey id.key) (acqClasses dp)

/-- A release goes on behind its L1 action when every byte that it wrote back is at its home (R283). -/
def releasing (s : State) (id : FragId) (dp : Bool) (go : State → Done) : Done :=
  let s := releaseAll s id dp
  if mergeWaits s (coreOfKey id.key) fun _ => true then .stall s else go s

/-- The issue of a memory access: an unfinished acquire holds it, a release waits until what came before has been performed, and an earlier load of the line holds it back (R184, R198); then the access is performed with its places. -/
def memAccess (s : State) (w : Swell) (f : Frag) (k : AccKind) (as : List LaneAcc) (rel : Bool) (go : State → List LaneLoc → Done) : Done :=
  if f.acquiring then .stall s
  else withPlaces s w f k as fun s ls =>
    if (rel && !relReady s s.cur f) || behindLoads f ls then .stall s
    else if rel then releasing s s.cur true fun s => go s ls
    else go s ls

/-! ## Answers -/

/-- A fault that comes with a response: the lowest lane's stands (R56, R72). -/
def Outst.failAt (o : Outst) (r : FaultRec) : Outst :=
  { o with fail := match o.fail with | some q => if q.lane ≤ r.lane then some q else some r | none => some r }

/-- The answer to one lane of an outstanding instruction of a fragment: it is noted, WADDR follows, and with the last one the response is on its way (R199, R208, R381). -/
def answerAt (s : State) (fr : FragId) (op delay : Nat) (g : Outst → Outst) (done : Outst → Bool) (e : Internal) : State :=
  match s.fragAt fr with
  | some (_, f) =>
    let outst := f.outst.map fun o => if o.id = op then g o else o
    let s := s.updFrag fr fun f => Frag.followWait { f with outst := outst }
    if outst.any fun o => o.id == op && done o then s.postOnce delay e else s
  | none => s

/-- The answer to one lane, by the identity of the instruction in its swell. -/
def answerLane (s : State) (sw : SwellId) (op delay : Nat) (g : Outst → Outst) (done : Outst → Bool) (e : Internal) : State :=
  match s.opAt sw op with
  | some (_, i, _) => answerAt s ⟨sw.key, sw.uid, i⟩ op delay g done e
  | none => s

/-- The bytes of one lane of a load, with DATA where they cannot be corrected (R273). -/
def Outst.gotLane (bs : List Byte) (bad : Bool) (va : Addr) (lane : Nat) (o : Outst) : Outst :=
  match o.kind with
  | .load x =>
    if x.has lane then o
    else
      let o : Outst := { o with kind := .load { x with got := x.got ++ [(lane, bs)] } }
      if bad then o.failAt ⟨.data, va, lane, false, false⟩ else o
  | _ => o

/-- Old values of lanes of an atomic have come (R208). -/
def Outst.oldValues (old : List (Nat × Word)) (o : Outst) : Outst :=
  match o.kind with
  | .atomic g acq d vals ls => { o with kind := .atomic g acq d (vals ++ old) ls }
  | _ => o

/-- Every lane of an atomic has its old value. -/
def Outst.atomDone (o : Outst) : Bool := match o.kind with | .atomic _ _ _ vals ls => vals.length == ls.length | _ => false

/-- Whether a load consumes bytes with an uncorrectable error (R273): a copy in the L1 or the partition has none. -/
def loadBad (s : State) (c : Nat) (l : Loc) (n : Nat) (cp : CachePol) : Bool := badBytes s l n && !l1Serves s c l n cp && !partServes s c l n cp

/-- Read lanes one after another: lane and bytes. -/
def readLanes (s : State) (ctx c n : Nat) (cp : CachePol) : List LaneLoc → List (Nat × List Byte) × State
  | [] => ([], s)
  | l :: ls =>
    let (bs, s) := coreRead s ctx c l.loc n cp
    let (r, s) := readLanes s ctx c n cp ls
    ((l.lane, bs) :: r, s)

/-- Ticks from the performance of a load or atomic at its home to its response (R181; log 2). -/
def answerTicks : Nat := 160

/-- Perform one lane of a load at its home. -/
def fillLane (s : State) (r : MissReq) : State :=
  match s.opAt r.sw r.op with
  | none => s
  | some (w, _, o) =>
    match o.kind with
    | .load x =>
      match x.lanes.find? fun l => l.lane == r.lane && l.loc.pa / 256 == r.line with
      | none => s
      | some l =>
        if x.has l.lane then s
        else
          let c := coreOfKey r.sw.key
          let bad := loadBad s c l.loc (sizeBytes x.sz) x.cp
          let (bs, s) := coreRead s w.ctx c l.loc (sizeBytes x.sz) x.cp
          answerLane s r.sw r.op answerTicks (Outst.gotLane bs bad l.va l.lane) (fun o => !o.loading) (.loadResponse r.sw r.op)
    | _ => s

/-! ## Miss-status registers (R271) -/

/-- Lines of a slice with a miss-status register. -/
def missRegs (s : State) (d slice : Nat) : KV (List MissReq) := (s.die d).misses.filter fun x => sliceOf (x.1 * 256) == slice

/-- Whether a miss finds its place now: on its line's list while the request store of 1,024 entries has one, else in one of 128 registers; never past a waiting request of its line, nor a new line past a waiting one. -/
def missRoom (s : State) (d : Nat) (r : MissReq) (ahead : List MissReq) : Bool :=
  let regs := missRegs s d (sliceOf (r.line * 256))
  if (kvGet (s.die d).misses r.line).isSome then decide ((regs.map fun x => x.2.length - 1).sum < 1024) && !ahead.any fun y => y.line == r.line
  else decide (regs.length < 128) && ahead == []

/-- The request of a message that has missed in its slice. -/
def Msg.miss (m : Msg) (k now : Nat) : MissReq :=
  match m.kind with
  | .load op lane _ => ⟨m.fr.swell, op, lane, m.line, now, none⟩
  | _ => ⟨m.fr.swell, 0, 0, m.line, now, some k⟩

/-- A miss takes its place; the first of its line starts the fill. -/
def takeMiss (s : State) (d : Nat) (r : MissReq) : State :=
  let first := (kvGet (s.die d).misses r.line).isNone
  let s := s.updDie d fun k => { k with misses := kvSet k.misses r.line (((kvGet k.misses r.line).getD []) ++ [r]) }
  if first then s.post 270 (.sliceMissFill d (sliceOf (r.line * 256)) r.line) else s

/-- Requests of a slice that wait in its ingress queue and before it. -/
def missQueue (s : State) (d slice : Nat) : List MissReq := (s.die d).missWait.filter fun y => sliceOf (y.line * 256) == slice

/-- A request misses in its slice (R271). -/
def joinMiss (s : State) (d : Nat) (r : MissReq) : State :=
  if missRoom s d r (missQueue s d (sliceOf (r.line * 256))) then takeMiss s d r else s.updDie d fun k => { k with missWait := k.missWait ++ [r] }

/-- Requests of the ingress queue move on, first in first out, as places become free. -/
def admitMisses (s : State) (d slice : Nat) : Nat → State
  | 0 => s
  | n + 1 =>
    match missQueue s d slice with
    | [] => s
    | r :: _ =>
      if missRoom s d r [] then admitMisses (takeMiss (s.updDie d fun k => { k with missWait := k.missWait.erase r }) d r) d slice n else s

/-- The ingress queue of 64 entries of the slice of a request's place is full: the slice accepts none (R271). Render packets, which a die never refuses (R323), and section requests pass no slice. -/
def sliceFull (s : State) (m : Msg) : Bool :=
  let l := m.loc
  match m.kind with
  | .prim _ | .marker _ | .sect _ _ => false
  | _ => !l.host && !l.ms && !inShelf l.pa && decide (64 ≤ (missQueue s l.die (sliceOf l.pa)).length)

/-! ## Requests at their home -/

/-- Whether a request has to read its slice: a write of bytes needs no fill (R268). -/
def Msg.fills (m : Msg) : Bool :=
  match m.kind with
  | .load _ _ _ | .atomic _ _ _ _ _ | .arm _ | .prefetch _ => true
  | .store _ | .merge _ _ | .sect _ _ | .prim _ | .marker _ | .timedStore _ _ | .timedLoad _ _ _ _ => false

/-- The home holds a request (R202, R254, R277, R377, R412): its line is an engine's, its bank is in refresh or its channel is copied, or an earlier request of the fragment to it is not performed; or the host's links are down. -/
def msgHeld (s : State) (k : Nat) (m : Msg) : Bool :=
  match m.kind with
  | .prim _ | .marker _ | .sect _ _ => false
  | _ => homeBusy s m.loc || behindOwn s m.fr k m.loc m.size || (m.loc.host && !hostUp s m.ctx)

/-- A message is gone. -/
def State.dropMsg (s : State) (k : Nat) : State := { s with msgs := kvErase s.msgs k }

/-- A posted store is performed (R281); where its home has failed, it is lost and logged (R196). The sender's own SWM copy shows it (R184). -/
def performStore (s : State) (m : Msg) (bs : List Byte) : State :=
  if homeFailed s m.loc then homeError s m.ctx m.loc m.va else partRefresh (homeWrite s m.ctx m.src m.loc bs) m.src m.loc bs.length

/-- One lane of an atomic at its home: read, operate and write in one step; the old value read and the state after it (R206, R208). -/
def atomAct (s : State) (fr : FragId) (ctx : Nat) (l : Loc) (code : AtomCode) (a b : Word) : Word × State :=
  let s := atHome s (coreOfKey fr.key) l
  let s := countHome sliceWay s ctx (l.pa / 256) (sectorMask (l.pa % 256) 4) 4 false l.ms
  let old : Word := BitVec.ofNat 32 (readNat s.mem l.pa 4)
  let s := match atomFn code old a b with
    | some x => homeWrite s ctx (dieOfKey fr.key) l (wordBytes x)
    | none => s
  (old, partRefresh s (dieOfKey fr.key) l 4)

/-- One lane of an atomic is performed at its home (R196, R208): its old value goes back, a RED's does not; bytes that cannot be corrected make the lane fail, and a RED's loss is logged. -/
def performAtomic (s : State) (m : Msg) (op : Option Nat) (lane : Nat) (code : AtomCode) (a b : Word) : State :=
  let bad := badBytes s m.loc 4
  let (old, s) := if bad then (0, s) else atomAct s m.fr m.ctx m.loc code a b
  match op with
  | none => if bad then homeError s m.ctx m.loc m.va else s
  | some op =>
    answerLane s m.fr.swell op answerTicks
      (fun o => if bad then (o.oldValues [(lane, 0)]).failAt ⟨.data, m.va, lane, true, false⟩ else o.oldValues [(lane, old)]) Outst.atomDone (.atomicReply m.fr.swell op)

/-- A line that PF has asked for (R203): it comes into the L1 of its core, unless that may not hold it, and into its home slice; bytes with an error fill nothing (R273). -/
def performPrefetch (s : State) (m : Msg) (cp : CachePol) : State :=
  let c := coreOfKey m.fr.key
  if badBytes s m.loc 256 then s
  else if cp == .noAllocate ∨ !l1Holds (dieOfCore c) m.loc then countTraffic s m.ctx m.src m.loc.pa 256 false m.loc.ms
  else (coreRead s m.ctx c m.loc 256 cp).2

/-- The event of a section request at its home. -/
def SectMsg.event (r : SectReq) : SectMsg → Internal
  | .seqtake => .seqtakeRequest r
  | .enter => .enterRequest r
  | .leave k => .leaveRequest r k
  | .sectq => .sectqRequest r

/-- A request that nothing holds is performed. A timed lane arrives then, a render packet or an arm is handed on. -/
def performMsg (s : State) (k : Nat) (m : Msg) : State :=
  match m.kind with
  | .store bs => performStore (s.dropMsg k) m bs
  | .load _ _ _ => fillLane (s.dropMsg k) (m.miss k s.now)
  | .prefetch cp => performPrefetch (s.dropMsg k) m cp
  | .atomic op lane code a b => performAtomic (s.dropMsg k) m op lane code a b
  | .arm lane => (s.dropMsg k).post 0 (.valueWaitArm m.fr lane)
  | .merge mask data => writeBeyond (s.dropMsg k) m.ctx m.src m.loc mask data
  | .sect op req => (s.dropMsg k).post 0 (op.event req)
  | .prim p => (s.dropMsg k).post 0 (.primitivePacket m.loc.die m.launch p)
  | .marker g => (s.dropMsg k).post 0 (.endOfGroupMarker m.loc.die m.launch g)
  | .timedStore _ _ | .timedLoad _ _ _ _ => s.post 0 (.timedLaneArrival k)

/-- The wait of a request at a bank in refresh does not count toward its TIMEOUT (R277): of the lanes that wait in one window, the first moves the time of sending; that of a value wait is its fragment's. -/
def excuseWait (s : State) (m : Msg) (wait : Nat) : State :=
  let opOf (x : Msg) : Option Nat := match x.kind with
    | .load op _ _ => some op
    | .atomic op _ _ _ _ => op
    | .arm _ => match s.fragAt x.fr with | some (_, f) => f.waitOf.map fun y => y.1.id | none => none
    | _ => none
  let same (x : HomeWait) : Bool := match kvGet s.msgs x.msg with
    | some y => opOf y == opOf m && y.fr.uid == m.fr.uid && bankWait s y.loc != 0
    | none => false
  match opOf m with
  | some op => if wait = 0 || (s.die m.loc.die).waiting.any same then s else s.updOp m.fr.swell op fun o => { o with sent := o.sent + wait }
  | none => s

/-- The home holds a request. -/
def holdMsg (s : State) (k : Nat) (m : Msg) : State :=
  let first := !(s.die m.loc.die).waiting.any fun x => x.msg == k
  (if first && inShelf m.loc.pa then excuseWait s m (bankWait s m.loc) else s).awaitHome k m

/-- A request is no longer held. -/
def unholdMsg (s : State) (k : Nat) (m : Msg) : State :=
  { s with due := s.due.filter fun (x : Nat × Internal) => x.2 != m.event k }.updDie m.loc.die fun d => { d with waiting := d.waiting.filter fun x => x.msg != k }

/-- Insert a request behind those that came no later. -/
def insertSince (t : Nat) (x : Sum Nat MissReq) : List (Nat × Sum Nat MissReq) → List (Nat × Sum Nat MissReq)
  | [] => [(t, x)]
  | y :: r => if t < y.1 then (t, x) :: y :: r else y :: insertSince t x r

/-- The requests of a line at its home, in the order of their arrival: those it holds, and those on the line's miss list or before it (R271). -/
def lineQueue (s : State) (d line : Nat) : List (Nat × Sum Nat MissReq) :=
  let held := ((s.die d).waiting.filter fun x => x.line == line).map fun x => (x.since, Sum.inl x.msg)
  (((kvGet (s.die d).misses line).getD []) ++ (s.die d).missWait.filter fun r => r.line == line).foldl (fun l r => insertSince r.arrives (.inr r) l) held

/-- A request that nothing holds, at its home in its turn (R271): behind a miss of its line it joins that line's list, and one that has to read what the slice lacks is a miss; the others are performed. -/
def serveMsg (s : State) (k : Nat) (m : Msg) : State :=
  let through := match m.kind with | .sect _ _ | .prim _ | .marker _ | .timedStore _ _ | .timedLoad _ _ _ _ => true | _ => false
  if through then performMsg s k m
  else if !m.loc.host && (lineMissing s m.loc || (m.fills && !homeHas s m.loc m.size)) then
    joinMiss (match m.kind with | .load _ _ _ => s.dropMsg k | _ => s) m.loc.die (m.miss k s.now)
  else performMsg s k m

/-- The requests of a line that its home holds are looked at in the order of their arrival; one that is still held stays. -/
def serveWaiting (s : State) (d line : Nat) : State :=
  ((s.die d).waiting.filter fun x => x.line == line).foldl (fun s x =>
    match kvGet s.msgs x.msg with
    | none => s.updDie d fun y => { y with waiting := y.waiting.filter fun z => z.msg != x.msg }
    | some m => if msgHeld s x.msg m || sliceFull s m then s else serveMsg (unholdMsg s x.msg m) x.msg m) s

/-- A line's fill has come: its requests are served in the order of their arrival (R271); one that its home holds stays. -/
def serveLine (s : State) (d line : Nat) : State :=
  let q := lineQueue s d line
  let s := s.updDie d fun k => { k with misses := kvErase k.misses line, missWait := k.missWait.filter fun r => r.line != line }
  let go (s : State) (k : Nat) : State :=
    match kvGet s.msgs k with
    | none => s.updDie d fun y => { y with waiting := y.waiting.filter fun z => z.msg != k }
    | some m => if msgHeld s k m then holdMsg s k m else performMsg (unholdMsg s k m) k m
  q.foldl (fun s x =>
    match x.2 with
    | .inr r => (match r.msg with | none => fillLane s r | some k => go s k)
    | .inl k => go s k) s

/-- A request that is not timed has come to its home, or is looked at again there: what the home holds of its line comes first, and it is held or served in its turn (R202, R254, R271, R277, R281). -/
def arriveMsg (s : State) (k : Nat) (m : Msg) : State :=
  if (s.die m.loc.die).waiting.any fun x => x.msg == k then
    let s := serveWaiting s m.loc.die m.line
    match kvGet s.msgs k with
    | some m => if (s.die m.loc.die).waiting.any fun x => x.msg == k then holdMsg s k m else s
    | none => s
  else
    let s := serveWaiting s m.loc.die m.line
    if msgHeld s k m || sliceFull s m then holdMsg s k m else serveMsg s k m

/-- A core sends a request: to its own die it is there at once. -/
def request (s : State) (m : Msg) : State :=
  if m.loc.die = m.src ∧ !m.loc.host then arriveMsg (s.numberMsg m) s.nextMsg m else s.sendMsg m

/-- Send a store that is performed at its home, or at memory logic (R183, R184, R344): the dirty bytes of the die's own copies of the line go there first. -/
def postStore (s : State) (fr : FragId) (ctx : Nat) (va : Addr) (l : Loc) (bs : List Byte) : State :=
  request (bypassL1 s (coreOfKey fr.key) l) ⟨fr, ctx, swellLaunch s fr.uid, va, l, .store bs⟩

end Sys2Proof.Machine
end

