-- ==== Sys2Proof/Machine/Access.lean ====
section
/-! DEFINITION. LD, ST, SLD, SST and PF, and the events of their lines: responses, slice fills, requests at their homes, write-back deadlines, time-outs and the package's coherence messages (R194 to R204, R271, R273, R281, R282, R345, R346). -/

namespace Sys2Proof.Machine

/-- The virtual address of a lane of a MEM word (R194). -/
def memEa (w : Swell) (o : MemOp) (wide : Option (BitVec 23)) (l : Fin 32) : Addr := w.vpair o.a l + memOffset o.off (sizeBytes o.sz) wide
/-- The virtual address of a group MEM word (R194). -/
def memEaG (w : Swell) (o : MemOp) (wide : Option (BitVec 23)) : Addr := w.spair o.a + memOffset o.off (sizeBytes o.sz) wide

/-- Registers that a lane MEM word must have (R66), D before A. -/
def memRegs (o : MemOp) : List Nat := [o.d.toNat + sizeRegs o.sz - 1, o.a.toNat + 1]
/-- The data registers of a MEM word. -/
def dataRegs (o : MemOp) : List Nat := regsFrom o.d.toNat (sizeRegs o.sz)

/-- Form of a lane MEM word. -/
def memForm (o : MemOp) (load : Bool) : Form :=
  { wide := true, pmx := true, acq := load, rel := !load, cp := true,
    writes := if load then (List.range (sizeRegs o.sz)).map fun i => o.d + BitVec.ofNat 7 i else [] }
/-- Form of a group MEM word. -/
def memFormG (load : Bool) : Form := { wide := true, acq := load, rel := !load, cp := true }

/-- Write a load's results (R201): each lane's registers, or the S registers of a group form. -/
def Swell.writeLoad (w : Swell) (group : Bool) (sz : MemSize) (d : Reg) (got : List (Nat × List Byte)) : Swell :=
  got.foldl (fun w g => if group then w.setSList d (loadWords sz g.2) else w.setLane ⟨g.1 % 32, Nat.mod_lt _ (by decide)⟩ d (loadWords sz g.2)) w

/-- Whether a lane of a load is served at once on the die: nothing of the fragment's own to its line is still to be performed (R184). -/
def laneNow (s : State) (fr : FragId) (n : Nat) (cp : CachePol) (l : LaneLoc) : Bool :=
  servedHere s (coreOfKey fr.key) l.loc n cp && !behindOwn s fr s.nextMsg l.loc n

/-- Send an outstanding load (R199, R266, R271): the lanes served at once are read, the others' requests set out for their homes, and its time-out runs. A load behind the fragment's own request to a line is performed at the home (R184). -/
def sendLoad (s : State) (fr : FragId) (ctx op : Nat) (x : LoadOp) : State :=
  let sw := fr.swell
  let c := coreOfKey sw.key
  let n := sizeBytes x.sz
  let cp := if x.lanes.any fun l => behindOwn s fr s.nextMsg l.loc n then .memorySide else x.cp
  let here := x.lanes.filter fun l => laneNow s fr n cp l
  let far := x.lanes.filter fun l => !laneNow s fr n cp l
  let bad := (here.find? fun l => loadBad s c l.loc n cp).map fun l => (⟨.data, l.va, l.lane, false, false⟩ : FaultRec)
  let (got, s) := readLanes s ctx c n cp here
  let s := s.updFrag fr fun f => { f with outst := f.outst.map fun o => if o.id = op then { o with kind := .load { x with got := got, cp := cp }, fail := bad, sent := s.now } else o }
  let s := far.foldl (fun s l => request s ⟨fr, ctx, swellLaunch s fr.uid, l.va, l.loc, .load op l.lane n⟩) s
  let s := if far = [] then s.post 450 (.loadResponse sw op) else s
  s.post (2 ^ 24) (.accessTimeout sw op)

/-- Perform a load with its places (R199, R201): at once when every lane is served on the die, else as an outstanding load. -/
def performLoad (s : State) (w : Swell) (f : Frag) (sz : MemSize) (group : Bool) (d a : Reg) (disp : Addr) (la : Nat) (reads writes : Foot) (ls : List LaneLoc) : Done :=
  let c := coreOfKey s.cur.key
  let n := sizeBytes sz
  if ls.all fun l => laneNow s s.cur n f.cp l then
    match ls.find? fun l => loadBad s c l.loc n f.cp with
    | some l => .fault s ⟨.data, l.va, l.lane, false, false⟩
    | none =>
      let (got, s) := readLanes s w.ctx c n f.cp ls
      let s := if f.acq then acquireAll s s.cur true else s
      .next (s.updSwell s.cur.swell fun w => w.writeLoad group sz d got)
  else
    let x : LoadOp := { sz := sz, group := group, d := d, a := a, disp := disp, lanes := ls, got := [], notBefore := none, acq := f.acq, cp := f.cp }
    let (op, s) := s.addOutst s.cur (.load x) la reads writes
    .next (sendLoad s s.cur w.ctx op x)

/-- LD (R200, R201). -/
def execLd (o : MemOp) (s : State) : Host.Outcome State Fault Refusal :=
  issue (memForm o true) (memRegs o) s fun w f =>
    let as := (lanesOf (lanesActive w f f.pmx)).map fun l => LaneAcc.mk l.val (memEa w o f.hints.wide l) (sizeBytes o.sz)
    memAccess s w f .load as false fun s ls =>
      performLoad s w f o.sz false o.d o.a (memOffset o.off (sizeBytes o.sz) f.hints.wide) o.la.toNat ⟨regsFrom o.a.toNat 2, pmRegs f.pmx⟩ ⟨dataRegs o, []⟩ ls

/-- SLD (R204). -/
def execSld (o : MemOp) (s : State) : Host.Outcome State Fault Refusal :=
  issue (memFormG true) [] s fun w f =>
    memAccess s w f .load [⟨0, memEaG w o f.hints.wide, sizeBytes o.sz⟩] false fun s ls =>
      performLoad s w f o.sz true o.d o.a (memOffset o.off (sizeBytes o.sz) f.hints.wide) o.la.toNat ⟨[], regsFrom o.a.toNat 2⟩ ⟨[], dataRegs o⟩ ls

/-- Perform one lane's store (R183, R196, R202): posted to a home elsewhere, or behind what its home holds or has still to serve; else into the L1, or at the home. -/
def storeLane (s : State) (id : FragId) (ctx : Nat) (cp : CachePol) (va : Addr) (l : Loc) (bs : List Byte) : State :=
  let c := coreOfKey id.key
  let d := dieOfCore c
  if l.host || (l.die != d && !l1Holds d l) || homeBusy s l || lineQueued s l || behindOwn s id s.nextMsg l bs.length then postStore s id ctx va l bs
  else if homeFailed s l then homeError s ctx l va
  else coreWrite s ctx c l bs cp

/-- Perform the lanes of a store in ascending order (R197). -/
def performStores (s : State) (w : Swell) (f : Frag) (data : Nat → List Byte) (ls : List LaneLoc) : Done :=
  .next (ls.foldl (fun s l => storeLane s s.cur w.ctx f.cp l.va l.loc (data l.lane)) s)

/-- The data words of a lane. -/
def laneData (w : Swell) (o : MemOp) (lane : Nat) : List Word :=
  (List.range (sizeRegs o.sz)).map fun i => (w.vreg (o.d + BitVec.ofNat 7 i))[lane % 32]'(Nat.mod_lt _ (by decide))

/-- The data words of a group form. -/
def groupData (w : Swell) (o : MemOp) : List Word := (List.range (sizeRegs o.sz)).map fun i => w.sreg (o.d + BitVec.ofNat 7 i)

/-- ST (R200, R202). -/
def execSt (o : MemOp) (s : State) : Host.Outcome State Fault Refusal :=
  issue (memForm o false) (memRegs o) s fun w f =>
    let as := (lanesOf (lanesActive w f f.pmx)).map fun l => LaneAcc.mk l.val (memEa w o f.hints.wide l) (sizeBytes o.sz)
    memAccess s w f .store as f.rel fun s ls =>
      performStores s w f (fun lane => storeBytes o.sz (laneData w o lane)) ls

/-- SST (R204). -/
def execSst (o : MemOp) (s : State) : Host.Outcome State Fault Refusal :=
  issue (memFormG false) [] s fun w f =>
    memAccess s w f .store [⟨0, memEaG w o f.hints.wide, sizeBytes o.sz⟩] f.rel fun s ls =>
      performStores s w f (fun _ => storeBytes o.sz (groupData w o)) ls

/-- Bring one lane's line nearer (R203); a lane that the rule names is dropped. What the die cannot serve at once is asked of the home, in its turn there. -/
def prefetchLane (s : State) (w : Swell) (f : Frag) (va : Addr) : State :=
  let c := coreOfKey s.cur.key
  if va.extractLsb' 56 8 ≠ 0 then s
  else match xlate s c w.ctx (f.priv != 0) .prefetch f va with
    | .ok l =>
      let l := { l with pa := l.pa / 256 * 256 }
      let m : Msg := ⟨s.cur, w.ctx, swellLaunch s s.cur.uid, va, l, .prefetch f.cp⟩
      if l.ms || l.host || f.cp == .memorySide then s
      else if f.cp != .noAllocate && servedHere s c l 256 f.cp && !behindOwn s s.cur s.nextMsg l 256 then performPrefetch s m f.cp
      else request s m
    | .miss | .bad _ _ => s

/-- PF (R200, R203): it waits for the walks it starts, and never faults on an address. -/
def execPf (o : PrefetchOp) (s : State) : Host.Outcome State Fault Refusal :=
  issue { wide := true, pmx := true, cp := true } [o.a.toNat + 1] s fun w f =>
    let c := coreOfKey s.cur.key
    let vas := (lanesOf (lanesActive w f f.pmx)).map fun l => w.vpair o.a l + memOffset o.off 1 f.hints.wide
    let misses := vas.filter fun va => va.extractLsb' 56 8 == 0 && (match xlate s c w.ctx (f.priv != 0) .prefetch f va with | .miss => true | _ => false)
    if misses ≠ [] then .stall (misses.foldl (fun s va => startWalk s s.cur w.ctx va) s)
    else .next (vas.foldl (fun s va => prefetchLane s w f va) s)

/-! ## Events of loads and stores -/

/-- LOAD_RESPONSE (R201, R72): with every lane performed the registers are written, an acquire takes effect and the load completes; bytes that cannot be corrected take DATA in program order. -/
def execLoadResponse (sw : SwellId) (op : Nat) (s : State) : Host.Outcome State Fault Refusal :=
  .next <|
    match s.opAt sw op with
    | none => s
    | some (_, e, o) =>
      match o.kind, o.fail with
      | .load x, none =>
        if o.loading then s
        else
          let s := s.updSwell sw fun w => w.writeLoad x.group x.sz x.d x.got
          let s := if x.acq then acquireAll s ⟨sw.key, sw.uid, e⟩ true else s
          s.finishOp sw op
      | .load _, some r =>
        let s := s.failOp sw op r
        if (s.opAt sw op).isSome then s.post 16 (.loadResponse sw op) else s
      | _, _ => s

/-- SLICE_MISS_FILL (R271): the requests of a line are served in the order in which they came, and waiting misses take the places that become free. The fill waits while an engine holds the line or its channel is copied (R254, R432). -/
def execSliceMissFill (die slice line : Nat) (s : State) : Host.Outcome State Fault Refusal :=
  .next <|
    if (kvGet (s.die die).misses line).isNone then s
    else if lineHeld s line || channelWait s ⟨line * 256, .dp, false, die, false⟩ != 0 then s.post 64 (.sliceMissFill die slice line)
    else admitMisses (serveLine s die line) die slice (s.die die).missWait.length

/-- HOME_WRITE (R281): a request reaches its home, or is looked at again there, and is ordered there. -/
def execHomeWrite (msg : Nat) (s : State) : Host.Outcome State Fault Refusal :=
  .next <|
    match kvGet s.msgs msg with
    | some m => if m.timed then s else arriveMsg s msg m
    | none => s

/-- L1_WRITEBACK_DEADLINE (R282): a line's dirty bytes go home 2^16 cycles after the first of them was written, so none is later than the bound from its own last write; a line cleaned and written since waits for its own time. -/
def execL1WritebackDeadline (core line : Nat) (s : State) : Host.Outcome State Fault Refusal :=
  .next <|
    match l1Find s core line with
    | none => s
    | some x =>
      if x.dirty = 0 then s
      else if s.now < x.wtime + 65536 then s.post (x.wtime + 65536 - s.now) (.l1WritebackDeadline core line)
      else l1Clean s core line

/-- ACCESS_TIMEOUT (R196): a request unanswered 2^24 ticks after it was sent takes TIMEOUT with the address of the lowest lane outstanding; a time-out of an operation that is complete finds nothing. -/
def execAccessTimeout (sw : SwellId) (op : Nat) (s : State) : Host.Outcome State Fault Refusal :=
  .next <|
    match s.opAt sw op with
    | some (_, e, o) =>
      match o.kind with
      | .load x =>
        match x.lanes.find? fun l => !x.has l.lane with
        | some l =>
          let since := match x.notBefore with
            | some n => (s.now : Int) + ((n.toNat : Int) - (s.atime (dieOfKey sw.key)).toNat)
            | none => o.sent
          let due := (Nat.max o.sent since.toNat) + 2 ^ 24
          if s.now < due then s.post (due - s.now) (.accessTimeout sw op)
          else
            let s := s.failOp sw op ⟨.timeout, l.va, l.lane, false, false⟩
            if (s.opAt sw op).isSome then s.post 16 (.loadResponse sw op) else s
        | none => s
      | .atomic _ _ _ vals ls =>
        match ls.find? fun l => !vals.any fun v => v.1 == l.1 with
        | some l =>
          if s.now < o.sent + 2 ^ 24 then s.post (o.sent + 2 ^ 24 - s.now) (.accessTimeout sw op)
          else
            let s := s.failOp sw op ⟨.timeout, l.2, l.1, false, false⟩
            if (s.opAt sw op).isSome then s.post 16 (.atomicReply sw op) else s
        | none => s
      | .wait (.value _ _ _ ls) =>
        let fr : FragId := ⟨sw.key, sw.uid, e⟩
        match ls.find? fun l => l.got.isNone && !s.dies.any fun x => x.2.watches.any fun y => y.fr.same fr && y.lane == l.lane with
        | some l => (s.dropWaits fr).failOp sw op ⟨.timeout, l.va, l.lane, false, false⟩
        | none => s
      | _ => s
    | none => s

/-! ## Coherence messages of the package (R345, R346) -/

/-- COH_READ_REQUEST (R345): the die obtains a shared copy of the line; a die that holds it exclusive writes back first and keeps a shared copy. A line that an engine holds gives none (R254), and bytes with an error fill nothing (R273). -/
def execCohReadRequest (die line : Nat) (s : State) : Host.Outcome State Fault Refusal :=
  .next <|
    if lineHeld s line then s
    else
    let s := recallShared s line die
    if paDie (line * 256) = die ∨ badBytes s ⟨line * 256, .coh, false, paDie (line * 256), false⟩ 256 then s
    else
      match partFor s die line .coh with
      | (x, some w, s) =>
        let x := (x.getD { CacheLine.empty line .coh with way := w }).fill (BitVec.allOnes 256) fun a => byteAt s.mem a
        partPut (cohShare s die line) die x
      | (_, none, s) => s

/-- COH_OWNERSHIP_REQUEST (R345): every other copy is invalidated and acknowledged before the grant; a grant to a remote die makes its copy exclusive. A line that an engine holds is not granted (R254). -/
def execCohOwnershipRequest (die line : Nat) (s : State) : Host.Outcome State Fault Refusal :=
  .next <|
    if lineHeld s line then s
    else if paDie (line * 256) = die then recallOthers s line 64
    else
      match partFor s die line .coh with
      | (x, some w, s) =>
        let s := cohOwn s die line
        partPut s die { (partFind s die line).getD (x.getD { CacheLine.empty line .coh with way := w }) with excl := true }
      | (_, none, s) => recallOthers s line 64

/-- COH_RECALL (R345): the die's dirty bytes go home, and its copy is dropped or kept shared. -/
def execCohRecall (die line : Nat) (drop : Bool) (s : State) : Host.Outcome State Fault Refusal := .next (recallOne s die line drop)

/-- ROS_REPLICA_FILL (R346): a remote read of the context copies the whole granule to the reader die's replica area, when that has room. -/
def execRosReplicaFill (ctx die granule : Nat) (s : State) : Host.Outcome State Fault Refusal :=
  .next <| if paDie (granule * 65536) = die ∨ (replicaOf s (granule * 65536) die).isSome then s else makeReplica s ctx (granule * 65536) die

/-- Free the replica of a granule that a die holds. -/
def freeReplica (s : State) (die granule : Nat) : State :=
  let drop (r : RosRec) : RosRec := if r.granule == granule then { r with copies := r.copies.filter fun x => x.1 != die } else r
  s.updDie (paDie (granule * 65536)) fun k => { k with ros := (k.ros.map drop).filter fun (r : RosRec) => r.copies != [] }

/-- REPLICA_FREE (R346): the replica's place in the die's area is free again. -/
def execReplicaFree (die granule : Nat) (s : State) : Host.Outcome State Fault Refusal := .next (freeReplica s die granule)

end Sys2Proof.Machine
end

