-- ==== Sys2Proof/Machine/Atomic.lean ====
section
/-! DEFINITION. ATOM, RED and SATOM performed at the home (R205 to R209), value waits (R210 to R212), and the events of their replies and arms. -/

namespace Sys2Proof.Machine

/-! ## Performing lanes -/

/-- Put the lanes of a list in an order that free choices make. -/
def shuffleLanes (s : State) : Nat → List LaneLoc → List LaneLoc × State
  | 0, ls => (ls, s)
  | _ + 1, [] => ([], s)
  | n + 1, ls =>
    let (i, s) := s.choose ls.length
    match ls[i]? with
    | none => (ls, s)
    | some l =>
      let (r, s) := shuffleLanes s n (ls.eraseIdx i)
      (l :: r, s)

/-- The order of an atomic's lanes (R209): ascending under AORD or when no address repeats, else any order. -/
def atomOrder (s : State) (aord : Bool) (ls : List LaneLoc) : List LaneLoc × State :=
  if aord ∨ (ls.map fun l => l.loc.pa).Nodup then (ls, s) else shuffleLanes s ls.length ls

/-- Perform an atomic's lanes (R206, R208, R266): one whose home is the die's own, has the word and holds nothing back is performed in one step there; the others' requests set out. The old values of the lanes performed. -/
def atomLanes (s : State) (id : FragId) (ctx : Nat) (op : Option Nat) (code : AtomCode) (operand : Nat → Word × Word) : List LaneLoc → List (Nat × Word) × State
  | [] => ([], s)
  | l :: ls =>
    let ab := operand l.lane
    if l.loc.die = dieOfKey id.key ∧ homeHas s l.loc 4 ∧ !homeBusy s l.loc ∧ !lineQueued s l.loc ∧ !behindOwn s id s.nextMsg l.loc 4 then
      let (old, s) := atomAct s id ctx l.loc code ab.1 ab.2
      let (r, s) := atomLanes s id ctx op code operand ls
      ((l.lane, old) :: r, s)
    else
      let s := request (bypassL1 s (coreOfKey id.key) l.loc) ⟨id, ctx, swellLaunch s id.uid, l.va, l.loc, .atomic op l.lane code ab.1 ab.2⟩
      atomLanes s id ctx op code operand ls

/-- The body of an atomic (R196, R198, R208): DATA of an ATOM or SATOM before anything is performed (log 38), while a lane of a RED that meets it is lost and logged; then the lanes. The reply of an ATOM or SATOM comes when the last of its lanes has been performed. -/
def atomBody (s : State) (w : Swell) (f : Frag) (as : List LaneAcc) (code : AtomCode) (operand : Nat → Word × Word)
    (reply : Option (Bool × Reg)) (reads writes : Foot) : Done :=
  memAccess s w f .atomic as f.rel fun s ls =>
    match if reply.isSome then ls.find? (fun l => badBytes s l.loc 4) else none with
    | some l => .fault s ⟨.data, l.va, l.lane, true, false⟩
    | none =>
      let lost := ls.filter fun l => badBytes s l.loc 4
      let s := lost.foldl (fun s l => homeError s w.ctx l.loc l.va) s
      let (order, s) := atomOrder s (w.scfg.getLsbD 0) (ls.filter fun l => !lost.contains l)
      match reply, ls with
      | some (group, d), _ :: _ =>
        let all := ls.map fun l => (l.lane, l.va)
        let (op, s) := s.addOutst s.cur (.atomic group f.acq d [] all) f.lav reads writes
        let (old, s) := atomLanes s s.cur w.ctx (some op) code operand order
        let s := answerAt s s.cur op 180 (fun o => o.oldValues old) Outst.atomDone (.atomicReply s.cur.swell op)
        .next (s.post (2 ^ 24) (.accessTimeout s.cur.swell op))
      | _, _ => .next (atomLanes s s.cur w.ctx none code operand order).2

/-- The lane accesses of a word form whose A is a V pair. -/
def wordAccs (w : Swell) (f : Frag) (a : Reg) : List LaneAcc := (lanesOf (lanesActive w f f.pmx)).map fun l => LaneAcc.mk l.val (w.vpair a l) 4

/-- A lane of a V register by number. -/
def laneWord (w : Swell) (r : Reg) (lane : Nat) : Word := (w.vreg r)[lane % 32]'(Nat.mod_lt _ (by decide))

/-- ATOM (R205). `cas` reads the operand pair. -/
def atomOp (cas : Bool) (g : AtomCode) (o : Reg3) (s : State) : Host.Outcome State Fault Refusal :=
  let bs := regsFrom o.b.toNat (if cas then 2 else 1)
  issue { pmx := true, acq := true, rel := true, lae := true, brk := true, writes := [o.d] }
    [o.d.toNat, o.a.toNat + 1, if cas then o.b.toNat + 1 else o.b.toNat] s fun w f =>
    atomBody s w f (wordAccs w f o.a) g (fun l => (laneWord w o.b l, laneWord w (o.b + 1) l)) (some (false, o.d))
      ⟨regsFrom o.a.toNat 2 ++ bs, pmRegs f.pmx⟩ ⟨[o.d.toNat], []⟩

/-- RED (R205): it completes at hand-off and returns nothing. -/
def redOp (g : AtomCode) (o : RedOp) (s : State) : Host.Outcome State Fault Refusal :=
  issue { pmx := true, rel := true, lae := true, brk := true } [o.a.toNat + 1, o.b.toNat] s fun w f =>
    atomBody s w f (wordAccs w f o.a) g (fun l => (laneWord w o.b l, 0)) none ⟨[], []⟩ ⟨[], []⟩

/-- SATOM (R205). -/
def satomOp (cas : Bool) (g : AtomCode) (o : Reg3) (s : State) : Host.Outcome State Fault Refusal :=
  let bs := regsFrom o.b.toNat (if cas then 2 else 1)
  issue { acq := true, rel := true, lae := true, brk := true } [] s fun w f =>
    atomBody s w f [⟨0, w.spair o.a, 4⟩] g (fun _ => (w.sreg o.b, w.sreg (o.b + 1))) (some (true, o.d))
      ⟨[], regsFrom o.a.toNat 2 ++ bs⟩ ⟨[], [o.d.toNat]⟩

/-- ATOM_ADD (R206). -/
def execAtomAdd (o : Reg3) (s : State) : Host.Outcome State Fault Refusal := atomOp false .add o s

/-- ATOM_AND (R206). -/
def execAtomAnd (o : Reg3) (s : State) : Host.Outcome State Fault Refusal := atomOp false .and o s

/-- ATOM_OR (R206). -/
def execAtomOr (o : Reg3) (s : State) : Host.Outcome State Fault Refusal := atomOp false .or o s

/-- ATOM_XOR (R206). -/
def execAtomXor (o : Reg3) (s : State) : Host.Outcome State Fault Refusal := atomOp false .xor o s

/-- ATOM_MIN (R206). -/
def execAtomMin (o : Reg3) (s : State) : Host.Outcome State Fault Refusal := atomOp false .min o s

/-- ATOM_MAX (R206). -/
def execAtomMax (o : Reg3) (s : State) : Host.Outcome State Fault Refusal := atomOp false .max o s

/-- ATOM_MINN (R206). -/
def execAtomMinn (o : Reg3) (s : State) : Host.Outcome State Fault Refusal := atomOp false .minn o s

/-- ATOM_MAXN (R206). -/
def execAtomMaxn (o : Reg3) (s : State) : Host.Outcome State Fault Refusal := atomOp false .maxn o s

/-- ATOM_XCHG (R206). -/
def execAtomXchg (o : Reg3) (s : State) : Host.Outcome State Fault Refusal := atomOp false .xchg o s

/-- ATOM_CAS (R206). -/
def execAtomCas (o : Reg3) (s : State) : Host.Outcome State Fault Refusal := atomOp true .cas o s

/-- ATOM_FADD (R207). -/
def execAtomFadd (o : Reg3) (s : State) : Host.Outcome State Fault Refusal := atomOp false .fadd o s

/-- ATOM_FMIN (R207). -/
def execAtomFmin (o : Reg3) (s : State) : Host.Outcome State Fault Refusal := atomOp false .fmin o s

/-- ATOM_FMAX (R207). -/
def execAtomFmax (o : Reg3) (s : State) : Host.Outcome State Fault Refusal := atomOp false .fmax o s

/-- ATOM_INC (R206). -/
def execAtomInc (o : Reg3) (s : State) : Host.Outcome State Fault Refusal := atomOp false .inc o s

/-- RED_ADD (R206). -/
def execRedAdd (o : RedOp) (s : State) : Host.Outcome State Fault Refusal := redOp .add o s

/-- RED_AND (R206). -/
def execRedAnd (o : RedOp) (s : State) : Host.Outcome State Fault Refusal := redOp .and o s

/-- RED_OR (R206). -/
def execRedOr (o : RedOp) (s : State) : Host.Outcome State Fault Refusal := redOp .or o s

/-- RED_XOR (R206). -/
def execRedXor (o : RedOp) (s : State) : Host.Outcome State Fault Refusal := redOp .xor o s

/-- RED_MIN (R206). -/
def execRedMin (o : RedOp) (s : State) : Host.Outcome State Fault Refusal := redOp .min o s

/-- RED_MAX (R206). -/
def execRedMax (o : RedOp) (s : State) : Host.Outcome State Fault Refusal := redOp .max o s

/-- RED_MINN (R206). -/
def execRedMinn (o : RedOp) (s : State) : Host.Outcome State Fault Refusal := redOp .minn o s

/-- RED_MAXN (R206). -/
def execRedMaxn (o : RedOp) (s : State) : Host.Outcome State Fault Refusal := redOp .maxn o s

/-- RED_FADD (R207). -/
def execRedFadd (o : RedOp) (s : State) : Host.Outcome State Fault Refusal := redOp .fadd o s

/-- RED_FMIN (R207). -/
def execRedFmin (o : RedOp) (s : State) : Host.Outcome State Fault Refusal := redOp .fmin o s

/-- RED_FMAX (R207). -/
def execRedFmax (o : RedOp) (s : State) : Host.Outcome State Fault Refusal := redOp .fmax o s

/-- RED_INC (R206). -/
def execRedInc (o : RedOp) (s : State) : Host.Outcome State Fault Refusal := redOp .inc o s

/-- SATOM_ADD (R206). -/
def execSatomAdd (o : Reg3) (s : State) : Host.Outcome State Fault Refusal := satomOp false .add o s

/-- SATOM_AND (R206). -/
def execSatomAnd (o : Reg3) (s : State) : Host.Outcome State Fault Refusal := satomOp false .and o s

/-- SATOM_OR (R206). -/
def execSatomOr (o : Reg3) (s : State) : Host.Outcome State Fault Refusal := satomOp false .or o s

/-- SATOM_XOR (R206). -/
def execSatomXor (o : Reg3) (s : State) : Host.Outcome State Fault Refusal := satomOp false .xor o s

/-- SATOM_MIN (R206). -/
def execSatomMin (o : Reg3) (s : State) : Host.Outcome State Fault Refusal := satomOp false .min o s

/-- SATOM_MAX (R206). -/
def execSatomMax (o : Reg3) (s : State) : Host.Outcome State Fault Refusal := satomOp false .max o s

/-- SATOM_MINN (R206). -/
def execSatomMinn (o : Reg3) (s : State) : Host.Outcome State Fault Refusal := satomOp false .minn o s

/-- SATOM_MAXN (R206). -/
def execSatomMaxn (o : Reg3) (s : State) : Host.Outcome State Fault Refusal := satomOp false .maxn o s

/-- SATOM_XCHG (R206). -/
def execSatomXchg (o : Reg3) (s : State) : Host.Outcome State Fault Refusal := satomOp false .xchg o s

/-- SATOM_CAS (R206). -/
def execSatomCas (o : Reg3) (s : State) : Host.Outcome State Fault Refusal := satomOp true .cas o s

/-- SATOM_FADD (R207). -/
def execSatomFadd (o : Reg3) (s : State) : Host.Outcome State Fault Refusal := satomOp false .fadd o s

/-- SATOM_FMIN (R207). -/
def execSatomFmin (o : Reg3) (s : State) : Host.Outcome State Fault Refusal := satomOp false .fmin o s

/-- SATOM_FMAX (R207). -/
def execSatomFmax (o : Reg3) (s : State) : Host.Outcome State Fault Refusal := satomOp false .fmax o s

/-- SATOM_INC (R206). -/
def execSatomInc (o : Reg3) (s : State) : Host.Outcome State Fault Refusal := satomOp false .inc o s

/-- Write old or satisfying values: each lane's D, or the S register of a group form. -/
def Swell.writeWords (w : Swell) (group : Bool) (d : Reg) (vals : List (Nat × Word)) : Swell :=
  vals.foldl (fun w x => if group then w.setS d x.2 else w.setLane ⟨x.1 % 32, Nat.mod_lt _ (by decide)⟩ d [x.2]) w

/-- ATOMIC_REPLY (R198, R208): with every lane performed the old values are written, an acquire takes effect and the atomic completes; a lane that failed takes its fault in program order (R72). -/
def execAtomicReply (sw : SwellId) (op : Nat) (s : State) : Host.Outcome State Fault Refusal :=
  .next <|
    match s.opAt sw op with
    | some (_, e, o) =>
      match o.kind, o.fail with
      | .atomic group acq d vals ls, none =>
        if vals.length ≠ ls.length then s
        else
          let s := s.updSwell sw fun w => w.writeWords group d vals
          (if acq then acquireAll s ⟨sw.key, sw.uid, e⟩ true else s).finishOp sw op
      | .atomic _ _ _ _ _, some r =>
        let s := s.failOp sw op r
        if (s.opAt sw op).isSome then s.post 16 (.atomicReply sw op) else s
      | _, _ => s
    | none => s

/-! ## Value waits -/

/-- The issue of a value wait (R211): each lane's compare-and-arm goes to its home, and the fragment waits with WKIND 5 once its window is used up. -/
def waitBody (s : State) (w : Swell) (f : Frag) (c : WaitCond) (group : Bool) (d : Reg) (as : List LaneAcc) (cmp : Nat → Word) (reads writes : Foot) : Done :=
  memAccess s w f .wait as false fun s ls =>
    match ls with
    | [] => .next s
    | _ :: _ =>
      let s := ls.foldl (fun s l => bypassL1 s (coreOfKey s.cur.key) l.loc) s
      let vs := ls.map fun l => ValueLane.mk l.lane l.va l.loc (cmp l.lane) none
      let (op, s) := s.addWait s.cur (.value c group d vs) f.lav reads writes
      let s := ls.foldl (fun s l => s.sendMsg ⟨s.cur, w.ctx, swellLaunch s s.cur.uid, l.va, l.loc, .arm l.lane⟩) s
      .next (s.post (2 ^ 24) (.accessTimeout s.cur.swell op))

/-- WAITV (R210). -/
def waitvOp (c : WaitCond) (o : Reg3) (s : State) : Host.Outcome State Fault Refusal :=
  issue { pmx := true, acq := true, lae := true, noTpe := true, writes := [o.d] } [o.d.toNat, o.a.toNat + 1, o.b.toNat] s fun w f =>
    waitBody s w f c false o.d (wordAccs w f o.a) (laneWord w o.b) ⟨regsFrom o.a.toNat 2 ++ [o.b.toNat], pmRegs f.pmx⟩ ⟨[o.d.toNat], []⟩

/-- SWAITV (R210). -/
def swaitvOp (c : WaitCond) (o : Reg3) (s : State) : Host.Outcome State Fault Refusal :=
  issue { acq := true, lae := true, noTpe := true } [] s fun w f =>
    waitBody s w f c true o.d [⟨0, w.spair o.a, 4⟩] (fun _ => w.sreg o.b) ⟨[], regsFrom o.a.toNat 2 ++ [o.b.toNat]⟩ ⟨[], [o.d.toNat]⟩

/-- WAITV_EQ (R211). -/
def execWaitvEq (o : Reg3) (s : State) : Host.Outcome State Fault Refusal := waitvOp .eq o s
/-- WAITV_NE (R211). -/
def execWaitvNe (o : Reg3) (s : State) : Host.Outcome State Fault Refusal := waitvOp .ne o s
/-- WAITV_GEN (R211). -/
def execWaitvGen (o : Reg3) (s : State) : Host.Outcome State Fault Refusal := waitvOp .gen o s
/-- WAITV_GTN (R211). -/
def execWaitvGtn (o : Reg3) (s : State) : Host.Outcome State Fault Refusal := waitvOp .gtn o s
/-- SWAITV_EQ (R211). -/
def execSwaitvEq (o : Reg3) (s : State) : Host.Outcome State Fault Refusal := swaitvOp .eq o s
/-- SWAITV_NE (R211). -/
def execSwaitvNe (o : Reg3) (s : State) : Host.Outcome State Fault Refusal := swaitvOp .ne o s
/-- SWAITV_GEN (R211). -/
def execSwaitvGen (o : Reg3) (s : State) : Host.Outcome State Fault Refusal := swaitvOp .gen o s
/-- SWAITV_GTN (R211). -/
def execSwaitvGtn (o : Reg3) (s : State) : Host.Outcome State Fault Refusal := swaitvOp .gtn o s

/-- Watch entries in use at the slice or memory logic of a word (R212): lanes of one instruction with one address and comparand share an entry. -/
def watchUse (s : State) (die pa : Nat) (ms : Bool) : Nat :=
  (((s.die die).watches.filter fun y => sliceOf y.pa == sliceOf pa && y.ms == ms).map fun y => (y.fr.uid, y.fr.ent, y.pa, y.cmp)).eraseDups.length

/-- A value wait with every lane satisfied completes (R211): D receives the values, and the wait acquires. -/
def completeValue (s : State) (id : FragId) : State :=
  match s.fragAt id with
  | some (_, f) =>
    match f.waitOf with
    | some (o, .value c g d ls) =>
      if ls.all fun l => l.got.isSome then
        acquireAll (s.finishWait id o (.value c g d ls) fun w => w.writeWords g d (ls.map fun l => (l.lane, l.got.getD 0))) id true
      else s
    | _ => s
  | none => s

/-- VALUE_WAIT_ARM (R211, R212): the home compares and arms in one step; a satisfied lane keeps its value; without a free entry the arm waits its turn at the ingress. A word that cannot be read takes DATA, at resume where the swell is away. -/
def execValueWaitArm (fr : FragId) (lane : Nat) (s : State) : Host.Outcome State Fault Refusal :=
  .next <|
    match anySwell s fr.uid with
    | none => s
    | some (key, w) =>
      let id : FragId := { fr with key := key.getD fr.key }
      match (w.ent fr.ent).waitOf with
      | some (o, .value c _ _ ls) =>
        let s := match ls.find? fun l => l.lane == lane with
          | none => s
          | some l =>
            let d := l.loc.die
            let queued (y : Watch) : Bool := y.fr.same fr && y.lane == lane
            if l.got.isSome || (s.die d).watches.any queued then s
            else if homeBusy s l.loc then s.post 64 (.valueWaitArm fr lane)
            else
              let v := wordNow s l.loc.pa
              let s := if (s.die d).armQueue.any queued then s
                else countHome sliceWay (countPackets s w.ctx (dieOfKey fr.key) d 4 true) w.ctx (l.loc.pa / 256) (sectorMask (l.loc.pa % 256) 4) 4 false l.loc.ms
              if badBytes s l.loc 4 then
                (if key.isSome then (s.dropWaits id).failOp id.swell o.id ⟨.data, l.va, l.lane, false, false⟩
                 else s.updUid fr.uid fun w => w.mapOuts fr.ent fun x => if x.id = o.id then x.failAt ⟨.data, l.va, l.lane, false, false⟩ else x)
              else if c.holds v l.cmp then
                (s.updDie d fun k => { k with armQueue := k.armQueue.filter fun y => !queued y }).updUid fr.uid fun w => w.mapOuts fr.ent fun o => o.satisfy lane v
              else
                let y : Watch := ⟨fr, lane, l.loc.pa, l.loc.ms, c, l.cmp⟩
                let ahead := (s.die d).armQueue.takeWhile fun z => !queued z
                let mine (z : Watch) : Bool := sliceOf z.pa == sliceOf y.pa && z.ms == y.ms
                let shared := (s.die d).watches.any fun z => z.fr.same fr && z.pa == y.pa && z.cmp == y.cmp
                if shared || (watchUse s d y.pa y.ms < 1024 && !ahead.any mine) then
                  s.updDie d fun k => { k with watches := k.watches ++ [y], armQueue := k.armQueue.filter fun z => !queued z }
                else
                  (s.updDie d fun k => { k with armQueue := if k.armQueue.any queued then k.armQueue else k.armQueue ++ [y] }).post 256 (.valueWaitArm fr lane)
        let s := s.updUid fr.uid fun w => w.refreshWait fr.ent
        if key.isSome then completeValue s id else s
      | _ => s

end Sys2Proof.Machine
end

