-- ==== Sys2Proof/Machine/Scratch.lean ====
section
/-! DEFINITION. Cluster scratch: addresses and their checks, LDS and STS, full/empty tags, barrier objects, and the service of their waiters at the owning core (R222 to R241). -/

namespace Sys2Proof.Machine

/-! ## Scratch addresses (R222) -/

/-- The core that owns a scratch address, seen from a core. -/
def scratchCore (c : Nat) (sa : Word) : Nat := clusterOfCore c * 64 + (sa.extractLsb' 19 6).toNat
/-- Byte offset in the owning core's scratch part. -/
def scratchOff (sa : Word) : Nat := sa.toNat % 2 ^ 19
/-- Bytes of a core's scratch part (R176). -/
def scratchPart (c : Core) : Nat := c.bndScr.toNat - c.bndReg.toNat

/-- A core in use: its die is live and it is enabled (R385 to R387). -/
def coreEnabled (s : State) (c : Nat) : Bool := (s.die (dieOfCore c)).live && (s.die (dieOfCore c)).enabled.getLsbD (c % 256)

/-- A core of the launch's bay (R395). -/
def Launch.inBay (l : Launch) (c : Nat) : Bool :=
  decide (l.prow ≤ coreRow c) && decide (coreRow c < l.prow + l.bay.rows) && decide (l.pcol ≤ coreCol c) && decide (coreCol c < l.pcol + l.bay.cols)

/-- A launch accepted and not yet complete (R222, R404). -/
def Launch.active (l : Launch) : Bool := l.st == .queued || l.st == .running

/-- Whether a core is in the bay of a launch of the context that is still running (R222). -/
def coreOfCtx (s : State) (ctx c : Nat) : Bool := s.launches.any fun x => x.2.ctx == ctx && x.2.active && x.2.inBay c

/-- The SCRATCH conditions of R222 for n bytes; `writes` marks a write, a consume, SETE or a barrier action, which may not touch a wake word. -/
def scratchBad (s : State) (c ctx : Nat) (sa : Word) (n : Nat) (writes : Bool) : Bool :=
  let own := scratchCore c sa
  let part := scratchPart (s.core own)
  sa.extractLsb' 25 7 != 0 || !coreEnabled s own || !coreOfCtx s ctx own || decide (part < scratchOff sa + n)
    || (writes && decide (part < scratchOff sa + n + 128))

/-- The first check of one lane: ALIGN to `al` before SCRATCH (R56, R222). -/
def scratchFault (s : State) (c ctx : Nat) (lane : Nat) (sa : Word) (n al : Nat) (writes : Bool) : Option FaultRec :=
  if sa.toNat % al ≠ 0 then some ⟨.align, sa.setWidth 64, lane, writes, false⟩
  else if scratchBad s c ctx sa n writes then some ⟨.scratch, sa.setWidth 64, lane, writes, false⟩
  else none

/-- n bytes of scratch. -/
def scratchRead (s : State) (c : Nat) (sa : Word) (n : Nat) : List Byte := readBytes (s.core (scratchCore c sa)).scratch (scratchOff sa) n
/-- Write bytes of scratch; tags stay. A word written whole has no error any more. -/
def scratchWrite (s : State) (c : Nat) (sa : Word) (bs : List Byte) : State :=
  s.updCore (scratchCore c sa) fun k =>
    { k with scratch := writeBytes k.scratch (scratchOff sa) bs
             badWords := k.badWords.filter fun w => !(decide (scratchOff sa ≤ 4 * w) && decide (4 * w + 4 ≤ scratchOff sa + bs.length)) }
/-- Whether a word that n bytes touch has an uncorrectable error (R225). -/
def scratchErr (s : State) (c : Nat) (sa : Word) (n : Nat) : Bool :=
  (s.core (scratchCore c sa)).badWords.any fun w => decide (4 * w < scratchOff sa + n) && decide (scratchOff sa < 4 * w + 4)

/-! ## LDS and STS (R224, R225) -/

/-- Lanes and scratch addresses of an LDS or STS. -/
def scratchLanes (w : Swell) (f : Frag) (o : MemOp) : List (Nat × Word) :=
  (lanesOf (lanesActive w f f.pmx)).map fun l => (l.val, (w.vreg o.a)[l] + (memOffset o.off (sizeBytes o.sz) f.hints.wide).setWidth 32)

/-- LDS (R225). -/
def execLds (o : MemOp) (s : State) : Host.Outcome State Fault Refusal :=
  issue { wide := true, pmx := true, writes := (List.range (sizeRegs o.sz)).map fun i => o.d + BitVec.ofNat 7 i }
    [o.d.toNat + sizeRegs o.sz - 1, o.a.toNat] s fun w f =>
    let c := coreOfKey s.cur.key
    let n := sizeBytes o.sz
    let ls := scratchLanes w f o
    match ls.findSome? fun l => scratchFault s c w.ctx l.1 l.2 n n false with
    | some r => .fault s r
    | none =>
      if f.acquiring then .stall s
      else match ls.find? fun l => scratchErr s c l.2 n with
        | some l => .fault s ⟨.data, l.2.setWidth 64, l.1, false, false⟩
        | none => .next (s.updSwell s.cur.swell fun w => w.writeLoad false o.sz o.d (ls.map fun l => (l.1, scratchRead s c l.2 n)))

/-! ## Barrier objects (R235) -/

/-- The fields of a barrier object. -/
structure Barrier where
  err : Bool
  outb : Nat
  inb : Nat
  exp : Nat
  pend : Nat
  gen : Nat
deriving DecidableEq, Repr

/-- Read a barrier object at a scratch offset. -/
def barRead (c : Core) (off : Nat) : Barrier :=
  let x := readNat c.scratch off 16
  ⟨x.testBit 100, x / 2 ^ 68 % 2 ^ 32, x / 2 ^ 36 % 2 ^ 32, x / 2 ^ 20 % 65536, x / 16 % 65536, x % 16⟩

/-- Write a barrier object; the reserved bits above ERR keep what they hold. -/
def barWrite (c : Core) (off : Nat) (b : Barrier) : Core :=
  let top := readNat c.scratch off 16 / 2 ^ 101
  { c with scratch := writeBytes c.scratch off (bytesOfNat
      (b.gen % 16 + b.pend % 65536 * 16 + b.exp % 65536 * 2 ^ 20 + b.inb % 2 ^ 32 * 2 ^ 36 + b.outb % 2 ^ 32 * 2 ^ 68 + (if b.err then 2 ^ 100 else 0) + top * 2 ^ 101) 16) }

/-- complete_if_ready of R239 on an object: when nothing is pending the generation advances and the phase word is filled. -/
def barComplete (c : Core) (off : Nat) : Core :=
  let b := barRead c off
  if b.pend = 0 ∧ b.inb = 0 ∧ b.outb = 0 then
    let g := (b.gen + 1) % 16
    (barWrite c off { b with gen := g, pend := b.exp }).setWord (off + 16) (BitVec.ofNat 32 g) true
  else c

/-- An arrival on an object whose PEND is not 0 (R238): the generation it returns, and the core afterwards. -/
def barArrive (c : Core) (off : Nat) (x : Word) (ex : Bool) : Word × Core :=
  let b := barRead c off
  let b' := { b with inb := if ex then (b.inb + x.toNat) % 2 ^ 32 else b.inb, pend := b.pend - 1 }
  (BitVec.ofNat 32 b.gen, barComplete (barWrite c off b') off)

/-! ## Waiters at the owning core (R231) -/

/-- The action of a TAG member on a word (R228): the value it yields and the core afterwards, when its condition holds. -/
def tagAct (c : Core) (m : TagMember) (off : Nat) (data : Word) : Option (Word × Core) :=
  let full := c.full.contains (off / 4)
  let v := wordOfList (readBytes c.scratch off 4)
  match m with
  | .ldf => if full then some (v, c) else none
  | .ldc => if full then some (v, { c with full := c.full.filter fun n => n != off / 4 }) else none
  | .stp => if full then none else some (data, c.setWord off data true)
  | .stf => some (data, c.setWord off data true)
  | .sete => some (0, { c with full := c.full.filter fun n => n != off / 4 })

/-- Members that read a word's value into D. -/
def TagMember.loads : TagMember → Bool
  | .ldf | .ldc => true
  | .stp | .stf | .sete => false
/-- Members that store a word. -/
def TagMember.stores : TagMember → Bool
  | .stp | .stf => true
  | .ldf | .ldc | .sete => false

/-- Write a lane's value of a tagged load: its lane of D, or D of every lane the instruction acts on (R229). -/
def Swell.writeTag (w : Swell) (m : TagMember) (bs : Bool) (d : Reg) (lanes : Word) (lane : Nat) (v : Word) : Swell :=
  if m.loads then
    if bs then w.setV lanes d (Vector.replicate 32 v) else w.setLane ⟨lane % 32, Nat.mod_lt _ (by decide)⟩ d [v]
  else w

/-- The wait after a lane has been performed: it leaves the list and joins the mask. -/
def WaitKind.perform (lane : Nat) : WaitKind → WaitKind
  | .tag m bs d todo lanes done => .tag m bs d (todo.filter fun l => l.lane != lane) lanes (done ||| BitVec.twoPow 32 (lane % 32))
  | k => k

/-- BWAIT's condition (R240): the phase word is full and holds another value than g. -/
def barPassed (c : Core) (off : Nat) (g : Word) : Bool :=
  c.full.contains ((off + 16) / 4) && wordOfList (readBytes c.scratch (off + 16) 4) != g

/-- Whether a waiter could be performed now, at its owning core. -/
def waiterReady (s : State) (y : TagWaiter) : Bool :=
  let c := s.core y.core
  match s.fragAt y.fr with
  | none => false
  | some (_, f) =>
    match f.waitOf with
    | some (_, .tag m _ _ todo _ _) =>
      match todo.find? fun l => l.lane == y.lane with
      | some l => (tagAct c m (scratchOff l.sa) l.data).isSome && !(m.stores && sourceUnread (s.cluster (clusterOfCore y.core)) l.sa.toNat 4)
      | none => false
    | some (_, .bwait sa g) => barPassed c (scratchOff sa) g
    | some (_, .arrive sa _ _ _) => (barRead c (scratchOff sa)).pend != 0
    | _ => false

/-- The acquire of a tagged load or a BWAIT: cluster scope, lines of every page class (R234, R241, R283). -/
def clusterAcquire (s : State) (id : FragId) : State := l1Acquire s (coreOfKey id.key) fun _ => true
/-- The release of a producer or an arrival (R234, R241, R283). -/
def clusterRelease (s : State) (id : FragId) : State := l1Release s (coreOfKey id.key) fun _ => true

/-- Perform a ready waiter's part (R230, R238, R240), and complete its instruction when it was the last. -/
def performWaiter (s : State) (y : TagWaiter) : State :=
  match s.fragAt y.fr with
  | none => s
  | some (_, f) =>
    let id := y.fr
    match f.waitOf with
    | some (o, .tag m bs d todo lanes done) =>
      match todo.find? fun l => l.lane == y.lane with
      | none => s
      | some l =>
        match tagAct (s.core y.core) m (scratchOff l.sa) l.data with
        | none => s
        | some (v, c) =>
          if m.loads && (s.core y.core).badWords.contains (scratchOff l.sa / 4) then
            (s.dropWaits id).failOp id.swell o.id ⟨.data, l.sa.setWidth 64, l.lane, false, false⟩
          else
            let k := (WaitKind.tag m bs d todo lanes done).perform l.lane
            let s := (s.setCore y.core c).updSwell id.swell fun w =>
              (((w.writeTag m bs d lanes l.lane v).mapOuts id.ent fun x => if x.id = o.id then { x with kind := .wait k } else x).refreshWait id.ent)
            if (todo.filter fun x => x.lane != l.lane) = [] then
              s.finishWait id o k fun w => w
            else s
    | some (o, .bwait sa g) => s.finishWait id o (.bwait sa g) fun w => w
    | some (o, .arrive sa x ex d) =>
      let (g, c) := barArrive (s.core y.core) (scratchOff sa) x ex
      (s.setCore y.core c).finishWait id o (.arrive sa x ex d) fun w => w.setS d g
    | _ => s

/-- Whether the completed wait of a fragment acquired: a tagged load or a BWAIT whose wait is over. -/
def acquireDone (s t : State) (id : FragId) : State :=
  match s.fragAt id, t.fragAt id with
  | some (_, f), some (_, g) => if f.acquiring && !g.acquiring then clusterAcquire t id else t
  | _, _ => t

/-- Take a waiter off its list (R231). -/
def dropWaiter (s : State) (y : TagWaiter) : State := s.dropWaiters fun z => z == y

/-- Serve the waiters of a word: consumers and producers in the order of their requests while one can be performed, arrivals behind them (R231, R237, R239). -/
def serveWord (core word : Nat) : Nat → State → State
  | 0, s => s
  | n + 1, s =>
    let ws := (s.cluster (clusterOfCore core)).waiters
    let mine := ws.filter fun y => y.core == core && y.word == word && waiterArmed ws y && waiterReady s y
    match (mine.find? fun y => !y.arrival) <|> mine.head? with
    | none => s
    | some y => serveWord core word n (acquireDone s (performWaiter (dropWaiter s y) y) y.fr)

/-- Serve a word's waiters until none can be performed. -/
def State.serve (s : State) (core word : Nat) : State := serveWord core word ((s.cluster (clusterOfCore core)).waiters.length) s

/-- Fill a scratch word and serve its waiters: STF's action, the fault service's and the host's (R52, R226, R399). -/
def State.fillWord (s : State) (core off : Nat) (v : Word) : State := (s.updCore core fun c => c.setWord off v true).serve core (off / 4)

/-- TAG_WAITER_SERVICE (R231): the owning core looks at the waiters of a word. -/
def execTagWaiterService (core word : Nat) (s : State) : Host.Outcome State Fault Refusal := .next (s.serve core word)

/-- Words that n bytes at a scratch address lie in, by owning core. -/
def wordsAt (core : Nat) (sa : Word) (n : Nat) : List (Nat × Nat) :=
  (List.range ((scratchOff sa % 4 + n + 3) / 4)).map fun i => (scratchCore core sa, scratchOff sa / 4 + i)

/-- Store bytes in scratch: a BWAIT on a word that now holds another value is served (R240). -/
def scratchStore (s : State) (core : Nat) (sa : Word) (bs : List Byte) : State :=
  (wordsAt core sa bs.length).foldl (fun s x => s.serve x.1 x.2) (scratchWrite s core sa bs)

/-- STS (R225): bytes that an engine command has still to read hold it back (R252). -/
def execSts (o : MemOp) (s : State) : Host.Outcome State Fault Refusal :=
  issue { wide := true, pmx := true } [o.d.toNat + sizeRegs o.sz - 1, o.a.toNat] s fun w f =>
    let c := coreOfKey s.cur.key
    let n := sizeBytes o.sz
    let ls := scratchLanes w f o
    match ls.findSome? fun l => scratchFault s c w.ctx l.1 l.2 n n true with
    | some r => .fault s r
    | none =>
      if f.acquiring || ls.any fun l => sourceUnread (s.cluster (clusterOfCore c)) l.2.toNat n then .stall s
      else .next (ls.foldl (fun s l => scratchStore s c l.2 (storeBytes o.sz (laneData w o l.1))) s)

/-! ## The TAG family (R227 to R234) -/

/-- The lanes of a tagged instruction (R229): one per active lane, or one for all with BS. -/
def tagLanes (w : Swell) (f : Frag) (bs : Bool) (d : Option Reg) (a : Reg) : List TagLane :=
  let act := lanesOf (lanesActive w f f.pmx)
  let data (l : Fin 32) : Word := match d with | some d => (w.vreg d)[l] | none => 0
  if bs then match act with | l :: _ => [⟨l.val, w.sreg a, data l⟩] | [] => []
  else act.map fun l => ⟨l.val, (w.vreg a)[l], data l⟩

/-- Perform the lanes of a tagged instruction in ascending order, as far as each can be performed at once: a lane that has to wait, or that finds an earlier request for its word waiting, is left over. -/
def tagPerform (core : Nat) (sw : SwellId) (m : TagMember) (bs : Bool) (d : Reg) (lanes : Word) : State → List TagLane → State × List TagLane
  | s, [] => (s, [])
  | s, l :: ls =>
    let own := scratchCore core l.sa
    let word := scratchOff l.sa / 4
    let queued := m != .stf && m != .sete && (s.cluster (clusterOfCore core)).waiters.any fun y => y.core == own && y.word == word && !y.arrival &&
      (match s.fragAt y.fr with
        | some (_, f) => (match f.waitOf with | some (_, .tag k _ _ _ _ _) => k.loads == m.loads | _ => false)
        | none => false)
    match (if queued then none else tagAct (s.core own) m (scratchOff l.sa) l.data) with
    | none =>
      let (s, r) := tagPerform core sw m bs d lanes s ls
      (s, l :: r)
    | some (v, c) =>
      let s := ((s.setCore own c).updSwell sw fun w => w.writeTag m bs d lanes l.lane v).serve own word
      tagPerform core sw m bs d lanes s ls

/-- The issue of LDF, LDC, STP, STF or SETE (R228 to R231): checks of every lane, the release, the lanes that can be performed, and a wait for the rest. -/
def tagOp (m : TagMember) (d : Option Reg) (a : Reg) (bs : Bool) (la : BitVec 4) (s : State) : Host.Outcome State Fault Refusal :=
  let regs := (match d with | some d => [d.toNat] | none => []) ++ if bs then [] else [a.toNat]
  issue { pmx := true, brk := m != .ldf, writes := if m.loads then d.toList else [] } regs s fun w f =>
    let c := coreOfKey s.cur.key
    let lanes := lanesActive w f f.pmx
    let todo := tagLanes w f bs d a
    match todo.findSome? fun l => scratchFault s c w.ctx l.lane l.sa 4 4 (m != .ldf) with
    | some r => .fault s r
    | none =>
      if f.acquiring || (m.stores && todo.any fun l => sourceUnread (s.cluster (clusterOfCore c)) l.sa.toNat 4) || (m.stores && !relReady s s.cur f) then .stall s
      else
        let full (l : TagLane) : Bool := (s.core (scratchCore c l.sa)).full.contains (scratchOff l.sa / 4)
        match (if m.loads then todo.find? fun l => full l && scratchErr s c l.sa 4 else none) with
        | some l => .fault s ⟨.data, l.sa.setWidth 64, l.lane, false, false⟩
        | none =>
          if todo = [] then .next s
          else
            let dr := d.getD 0
            let s := if m.stores then clusterRelease s s.cur else s
            let (s, rest) := tagPerform c s.cur.swell m bs dr lanes s todo
            if rest = [] then .next (if m.loads then clusterAcquire s s.cur else s)
            else
              let done : Word := todo.foldl (fun x l => if rest.contains l then x else x ||| BitVec.twoPow 32 l.lane) 0
              let reads : Foot := ⟨(if m.stores then [dr.toNat] else []) ++ (if bs then [] else [a.toNat]), pmRegs f.pmx ++ if bs then [a.toNat] else []⟩
              let writes : Foot := ⟨if m.loads then [dr.toNat] else [], []⟩
              let (_, s) := s.addWait s.cur (.tag m bs dr rest lanes done) la.toNat reads writes
              .next (rest.foldl (fun s l =>
                s.updCluster (clusterOfCore c) fun k => { k with waiters := k.waiters ++ [⟨s.cur, scratchCore c l.sa, scratchOff l.sa / 4, l.lane, false⟩] }) s)

/-- LDF (R228). -/
def execLdf (o : TagOp) (s : State) : Host.Outcome State Fault Refusal := tagOp .ldf (some o.d) o.a o.bs o.la s
/-- LDC (R228). -/
def execLdc (o : TagOp) (s : State) : Host.Outcome State Fault Refusal := tagOp .ldc (some o.d) o.a o.bs o.la s
/-- STP (R228). -/
def execStp (o : TagOp) (s : State) : Host.Outcome State Fault Refusal := tagOp .stp (some o.d) o.a o.bs o.la s
/-- STF (R228). -/
def execStf (o : TagOp) (s : State) : Host.Outcome State Fault Refusal := tagOp .stf (some o.d) o.a o.bs o.la s
/-- SETE (R228). -/
def execSete (o : TagAddrOp) (s : State) : Host.Outcome State Fault Refusal := tagOp .sete none o.a o.bs o.la s

/-- The words a TAGQ reads, by result bit (R228). -/
def tagqWords (w : Swell) (f : Frag) (o : TagOp) : List (Nat × Word) :=
  let act := lanesOf (lanesActive w f f.pmx)
  if o.bs then (if act = [] then [] else (List.range 32).map fun i => (i, w.sreg o.a + BitVec.ofNat 32 (4 * i)))
  else act.map fun l => (l.val, (w.vreg o.a)[l])

/-- TAGQ (R228): the tags of the lanes' words, or of 32 words in a row, as a mask in an S register. -/
def execTagq (o : TagOp) (s : State) : Host.Outcome State Fault Refusal :=
  issue { pmx := true } (if o.bs then [] else [o.a.toNat]) s fun w f =>
    let c := coreOfKey s.cur.key
    let ws := tagqWords w f o
    match ws.findSome? fun l => scratchFault s c w.ctx (if o.bs then 0 else l.1) l.2 4 4 false with
    | some r => .fault s r
    | none =>
      if f.acquiring then .stall s
      else if ws = [] then .next s
      else
        let bit (l : Nat × Word) : Word := if (s.core (scratchCore c l.2)).full.contains (scratchOff l.2 / 4) then BitVec.twoPow 32 l.1 else 0
        .next (s.updSwell s.cur.swell fun w => w.setS o.d (ws.foldl (fun x l => x ||| bit l) 0))

/-! ## The BAR family (R236 to R241) -/

/-- The checks of a barrier object's address (R236), and of the n bytes of it that the member reads, from `lo` on (R261). -/
def barFault (s : State) (c ctx : Nat) (sa : Word) (lo n : Nat) : Option FaultRec :=
  match scratchFault s c ctx 0 sa 20 16 true with
  | some r => some r
  | none => if scratchErr s c (sa + BitVec.ofNat 32 lo) n then some ⟨.data, sa.setWidth 64, 0, false, false⟩ else none

/-- The issue of a BAR word with the owning core and the object's offset. -/
def barOp (fm : Form) (lo n : Nat) (o : Reg2LA) (s : State) (body : Swell → Frag → Word → Nat → Nat → Done) : Host.Outcome State Fault Refusal :=
  issue fm [] s fun w f =>
    let c := coreOfKey s.cur.key
    let sa := w.sreg o.a
    match barFault s c w.ctx sa lo n with
    | some r => .fault s r
    | none => if f.acquiring then .stall s else body w f sa (scratchCore c sa) (scratchOff sa)

/-- BINIT (R237): waiters are looked at again against the new fields. -/
def execBinit (o : Reg2LA) (s : State) : Host.Outcome State Fault Refusal :=
  barOp { brk := true } 0 0 o s fun w _ sa own off =>
    let n := w.sreg o.d
    if n = 0 ∨ 65535 < n.toNat then .fault s (plainFault .scratch (sa.setWidth 64))
    else
      let s := s.updCore own fun k =>
        ({ k with scratch := writeBytes k.scratch off (bytesOfNat (n.toNat * 16 + n.toNat * 2 ^ 20) 16)
                  badWords := k.badWords.filter fun w => !(decide (off / 4 ≤ w) && decide (w < off / 4 + 4)) }.setWord (off + 16) 0 true)
      .next (s.serve own ((off + 16) / 4))

/-- ARRIVE and ARRIVEX (R238): with PEND 0 the arrival waits for a completion or a BINIT. -/
def arriveOp (ex : Bool) (o : Reg2LA) (s : State) : Host.Outcome State Fault Refusal :=
  barOp { brk := true } 0 16 o s fun w f sa own off =>
    if !relReady s s.cur f then .stall s
    else
      let s := clusterRelease s s.cur
      let x := w.sreg o.d
      if (barRead (s.core own) off).pend = 0 then
        let (_, s) := s.addWait s.cur (.arrive sa x ex o.d) o.la.toNat ⟨[], [o.a.toNat, o.d.toNat]⟩ ⟨[], [o.d.toNat]⟩
        .next (s.updCluster (clusterOfCore own) fun k => { k with waiters := k.waiters ++ [⟨s.cur, own, (off + 16) / 4, 0, true⟩] })
      else
        let (g, k) := barArrive (s.core own) off x ex
        .next (((s.setCore own k).updSwell s.cur.swell fun w => w.setS o.d g).serve own ((off + 16) / 4))

/-- ARRIVE (R238). -/
def execArrive (o : Reg2LA) (s : State) : Host.Outcome State Fault Refusal := arriveOp false o s
/-- ARRIVEX (R238). -/
def execArrivex (o : Reg2LA) (s : State) : Host.Outcome State Fault Refusal := arriveOp true o s

/-- BWAIT (R240). -/
def execBwait (o : Reg2LA) (s : State) : Host.Outcome State Fault Refusal :=
  barOp {} 16 4 o s fun w _ sa own off =>
    let g := w.sreg o.d
    if barPassed (s.core own) off g then .next (clusterAcquire s s.cur)
    else
      let (_, s) := s.addWait s.cur (.bwait sa g) o.la.toNat ⟨[], [o.a.toNat, o.d.toNat]⟩ ⟨[], []⟩
      .next (s.updCluster (clusterOfCore own) fun k => { k with waiters := k.waiters ++ [⟨s.cur, own, (off + 16) / 4, 0, false⟩] })

/-- Count bytes into a barrier object (R250), and complete it when that is due. -/
def barCount (s : State) (own off : Nat) (outbound : Bool) (n : Nat) (err : Bool) : State :=
  let sub (x : Nat) : Nat := (x + 2 ^ 32 - n % 2 ^ 32) % 2 ^ 32
  (s.updCore own fun c =>
    let b := barRead c off
    let b := { b with inb := if outbound then b.inb else sub b.inb, outb := if outbound then sub b.outb else b.outb, err := b.err || err }
    barComplete (barWrite c off b) off).serve own ((off + 16) / 4)

end Sys2Proof.Machine
end

