-- ==== Sys2Proof/Machine/Engine.lean ====
section
/-! DEFINITION. The copy engines and the gather/scatter engine: acceptance, tickets, the range scoreboard, steps, barrier counts and transfer errors; COPY, GATHER, SCATTER, RARITH and EQRY (R242 to R256, R353 to R355). -/

namespace Sys2Proof.Machine

/-! ## Engines and commands -/

/-- An engine of a cluster. -/
def State.engine (s : State) (cl e : Nat) : Engine := ((s.cluster cl).engines[e]?).getD Engine.init
/-- Change an engine. -/
def State.updEngine (s : State) (cl e : Nat) (g : Engine → Engine) : State :=
  s.updCluster cl fun k => { k with engines := k.engines.setIfInBounds e (g ((k.engines[e]?).getD Engine.init)) }
/-- Change an accepted command. -/
def State.updCmd (s : State) (cl e : Nat) (seq : BitVec 24) (g : EngCmd → EngCmd) : State :=
  s.updEngine cl e fun x => { x with cmds := x.cmds.map fun m => if m.seq = seq then g m else m }
/-- An accepted command that has not ended. -/
def State.cmdAt (s : State) (cl e : Nat) (seq : BitVec 24) : Option EngCmd := (s.engine cl e).cmds.find? fun m => m.seq = seq

/-- Bytes queued on an engine (R242). -/
def Engine.queued (x : Engine) : Nat :=
  x.cmds.foldl (fun n m => match m.kind with | .coll => n | _ => n + (m.total - m.counted)) 0

/-- The copy engine with the fewest bytes queued, the lowest number on a tie (R242). -/
def pickEngine (s : State) (cl : Nat) : Nat :=
  (List.range 4).foldl (fun b e => if (s.engine cl e).queued < (s.engine cl b).queued then e else b) 0

/-- A ticket (R244). -/
def ticketWord (seq : BitVec 24) (e : Nat) : Word := seq ++ BitVec.ofNat 8 e

/-- BE and BAR of a command: the barrier's scratch address (R245, R248, R354). -/
def cmdBar (kind : EngKind) (b : List Word) : Option Word :=
  match kind with
  | .copy | .rarith => if blkField b 7 25 1 = 1 then some (blkWord b 8) else none
  | .gather | .scatter => if blkField b 4 25 1 = 1 then some (blkWord b 5) else none
  | .wsend | .wsig | .coll => none

/-- Whether a command counts outbound: its destination is not the cluster scratch (R250). -/
def cmdOutbound (kind : EngKind) (b : List Word) : Bool :=
  match kind with
  | .copy => copyDsp b != 1
  | .gather => false
  | _ => true

/-- FVAL of a command's ENGINE fault: its barrier's address or 0 (R255). -/
def cmdFval (m : EngCmd) : Addr := match cmdBar m.kind m.block with | some sa => sa.setWidth 64 | none => 0

/-- What is wrong with a barrier address: 0, or the REASON of the transfer error (R249, R250). -/
def barReason (s : State) (core ctx : Nat) (sa : Option Word) : Nat :=
  match sa with
  | none => 0
  | some sa => if sa.toNat % 16 ≠ 0 then 6 else if scratchBad s core ctx sa 20 true then 5 else 0

/-- Count bytes of a command into its barrier, when that can be counted into (R250). -/
def cmdCount (s : State) (m : EngCmd) (n : Nat) (err : Bool) : State :=
  match cmdBar m.kind m.block with
  | none => s
  | some sa =>
    if barReason s m.core m.ctx (some sa) = 0 then barCount s (scratchCore m.core sa) (scratchOff sa) (cmdOutbound m.kind m.block) n err else s

/-! ## Acceptance (R244, R250, R251, R253) -/

/-- SEQ of the next command (R244). -/
def nextSeq (q : BitVec 24) : BitVec 24 := if q = BitVec.allOnes 24 then 1 else q + 1

/-- Whether an engine can accept a command: its queue has room and the scoreboard has (R244, R251). -/
def engineRoom (s : State) (cl e : Nat) : Bool :=
  decide ((s.engine cl e).cmds.length < 16) && decide (((List.range 5).map fun i => (s.engine cl i).cmds.length).foldl (· + ·) 0 < 64)

/-- The copies of the lines that a command takes go, their dirty bytes to the home (R254): from then on accesses to them wait there. No directory keeps SWM copies, so those that a die's partition or a core of another die than the home holds stay (R347, R359); the dirty bytes of the issuing die's own go home before its write (R183). -/
def claimLines (s : State) (m : EngCmd) : State :=
  let away (d : Nat) (y : CacheLine) : Bool := y.cls == .swm && d != paDie (y.line * 256)
  let s := s.cores.foldl (fun s (x : Nat × Core) =>
    (x.2.l1.filter fun y => m.holds y.line && !away (dieOfCore x.1) y).foldl (fun s y => l1Flush s x.1 y.line) s) s
  s.dies.foldl (fun s (x : Nat × Die) => (x.2.partition.filter fun y => m.holds y.line).foldl (fun s y =>
    if !away x.1 y then partEvict s x.1 y else if x.1 = dieOfCore m.core then partHome s x.1 y.line else s) s) s

/-- Another command holds a line that this one comes to (R254): ownership is exclusive, and of several that want a line the one accepted first has it. -/
def heldBefore (s : State) (m : EngCmd) (line : Nat) : Bool :=
  s.clusters.any fun x => x.2.engines.toList.any fun e => e.cmds.any fun y => decide (y.order < m.order) && y.holds line

/-- Accept a command: it gets the next ticket, its outbound bytes are added to OUTB of its barrier (R239, R250), and the engine looks at its queue. -/
def acceptCmd (s : State) (w : Swell) (f : Frag) (e : Nat) (kind : EngKind) (b : List Word) (total : Nat) (src dst : List Span) (held : List (Nat × Nat)) : Word × State :=
  let core := coreOfKey s.cur.key
  let cl := clusterOfCore core
  let seq := nextSeq (s.engine cl e).seq
  let m : EngCmd :=
    { seq := seq, order := s.nextMsg, kind := kind, ctx := w.ctx, fr := s.cur, core := core, user := f.priv == 0, launch := w.launch, block := b,
      st := .queued, done := 0, total := total, counted := 0, stall := none, denied := none, since := none, idx := [], buf := [], src := src, dst := dst, held := held, handed := false }
  let s := claimLines { s with nextMsg := s.nextMsg + 1 } m
  let s := s.updEngine cl e fun x => { x with seq := seq, cmds := x.cmds ++ [m] }
  let s := match cmdBar kind b with
    | some sa =>
      if cmdOutbound kind b && barReason s core w.ctx (some sa) == 0 then
        if total % 2 ^ 32 = 0 then s else barCount s (scratchCore core sa) (scratchOff sa) true (2 ^ 32 - total % 2 ^ 32) false
      else s
    | none => s
  (ticketWord seq e, s.postOnce 1 (.engineStep cl e))

/-- Registers of a command block. -/
def blockAt (w : Swell) (a : Reg) (n : Nat) : List Word := (List.range n).map fun i => w.sreg (a + BitVec.ofNat 7 i)

/-- The issue of an accepting ENG function (R243, R244, R253): it waits for the swell's earlier stores and for room, and releases; then the ticket is written. -/
def engIssue (s : State) (w : Swell) (f : Frag) (d : Reg) (e : Nat) (kind : EngKind) (b : List Word) (total : Nat) (src dst : List Span) (pages : State → List (Nat × Nat) × State) : Done :=
  if f.acquiring || !relReady s s.cur f || !engineRoom s (clusterOfCore (coreOfKey s.cur.key)) e then .stall s
  else
    releasing s s.cur true fun s =>
      let (held, s) := pages s
      let (t, s) := acceptCmd s w f e kind b total src dst held
      .next (s.updSwell s.cur.swell fun w => w.setS d t)

/-- The virtual pages of a list of byte ranges. -/
def rangePages (rs : List (Nat × Nat)) : List Nat :=
  (rs.flatMap fun r => (List.range ((r.1 + r.2 - 1) / 65536 - r.1 / 65536 + 1)).map fun i => r.1 / 65536 + i).eraseDups

/-- Physical pages of the resident pages among some (R254); each walk that finds a malformed entry writes its record (R342). -/
def heldPages (s : State) (die ctx : Nat) (ps : List Nat) : List (Nat × Nat) × State :=
  ps.foldl (fun (r : List (Nat × Nat) × State) p =>
    if isHost (BitVec.ofNat 64 (p * 65536)) then r
    else match walkTable r.2 die ctx (p * 65536) with
      | (.leaf e big, s) => (r.1 ++ [(p, (locOf e big (p * 65536)).pa / 65536)], s)
      | (.malformed pa, s) => (r.1, s.logError ctx ⟨4, die, BitVec.ofNat 64 pa, 0, 0, 0, 0⟩)
      | (.absent, s) => (r.1, s)) ([], s)

/-- Byte ranges that a COPY writes, row by row (R246). -/
def copyDstRanges (b : List Word) : List (Nat × Nat) :=
  let (rows, len) := copyDstShape b
  if len = 0 then [] else (List.range rows).map fun r => ((blkPair b 2 + r * copyDstr b) % 2 ^ 64, len)

/-- COPY (R244 to R246): SHELFW for a destination in the shelf. -/
def execCopy (o : Reg2LA) (s : State) : Host.Outcome State Fault Refusal :=
  issue { brk := true } [] s fun w f =>
    let b := blockAt w o.a 9
    let cl := clusterOfCore (coreOfKey s.cur.key)
    if copyDsp b = 2 then .fault s (plainFault .shelfw (w.spair (o.a + 2)))
    else
      engIssue s w f o.d (pickEngine s cl) .copy b (copyBytes b)
        [copySrcSpan b] [copyDstSpan b]
        fun s => if copyDsp b = 0 then heldPages s (dieOfCluster cl) w.ctx (rangePages (copyDstRanges b)) else ([], s)

/-- The scratch spans of GATHER or SCATTER, known at acceptance (R248). -/
def gathSpans (b : List Word) : Span × Span :=
  (rowsSpan 1 (gathIdx b) 0 (4 * gathN b) 1, rowsSpan 1 (gathDat b) 0 (gathN b * gathElem b) 1)

/-- GATHER (R248). -/
def execGather (o : Reg2LA) (s : State) : Host.Outcome State Fault Refusal :=
  issue { brk := true } [] s fun w f =>
    let b := blockAt w o.a 6
    engIssue s w f o.d 4 .gather b (gathN b * gathElem b) [(gathSpans b).1] [(gathSpans b).2] fun s => ([], s)

/-- SCATTER (R248). -/
def execScatter (o : Reg2LA) (s : State) : Host.Outcome State Fault Refusal :=
  issue { brk := true } [] s fun w f =>
    let b := blockAt w o.a 6
    engIssue s w f o.d 4 .scatter b (gathN b * gathElem b) [(gathSpans b).1, (gathSpans b).2] [] fun s => ([], s)

/-- RARITH (R353 to R355). -/
def execRarith (o : Reg2LA) (s : State) : Host.Outcome State Fault Refusal :=
  issue { brk := true } [] s fun w f =>
    let b := blockAt w o.a 9
    let n := rarN b * rarElem b
    let src2 : List Span := if blkField b 7 18 2 = 2 then [⟨0, blkPair b 4, blkPair b 4 + n - 1⟩] else []
    engIssue s w f o.d (pickEngine s (clusterOfCore (coreOfKey s.cur.key))) .rarith b n
      (⟨0, blkPair b 2, blkPair b 2 + n - 1⟩ :: src2) [⟨0, blkPair b 0, blkPair b 0 + n - 1⟩] fun s => ([], s)

/-! ## EQRY (R249) -/

/-- REMAIN of R249. -/
def remainField (n : Nat) : Nat := Nat.min ((n + 255) / 256) (2 ^ 24 - 1)

/-- Whether a ticket is one of an engine's last 256 (R244, R249): SEQ runs from 1 to 2^24 - 1. -/
def ticketKept (x : Engine) (seq : BitVec 24) : Bool := decide ((x.seq.toNat + (2 ^ 24 - 1) - seq.toNat) % (2 ^ 24 - 1) < 256)

/-- The status word of a ticket of a cluster for a context (R249). -/
def ticketStatus (s : State) (cl ctx : Nat) (t : Word) : Word :=
  let e := t.toNat % 256
  let seq : BitVec 24 := t.extractLsb' 8 24
  let known := decide (e < 5) && ticketKept (s.engine cl e) seq
  match (if known then (s.engine cl e).cmds.find? fun m => m.seq = seq && m.ctx == ctx else none) with
  | some m => BitVec.ofNat 32 (remainField (m.total - m.counted) * 256 + (if m.st == .queued then 0 else 1))
  | none =>
    match (if known then (s.engine cl e).ended.find? fun r => r.seq = seq && r.ctx == ctx else none) with
    | some r => BitVec.ofNat 32 (remainField r.remain * 256 + r.reason * 16 + if r.failed then 3 else 2)
    | none => BitVec.ofNat 32 (15 * 16 + 3)

/-- EQRY (R249): reading done acquires the command's writes. -/
def execEqry (o : Reg2LA) (s : State) : Host.Outcome State Fault Refusal :=
  issue { brk := true } [] s fun w _ =>
    let x := ticketStatus s (clusterOfCore (coreOfKey s.cur.key)) w.ctx (w.sreg o.a)
    let s := if x.extractLsb' 0 2 = 2 then acquireAll s s.cur true else s
    .next (s.updSwell s.cur.swell fun w => w.setS o.d x)

/-! ## Ends and transfer errors (R255) -/

/-- An ENGINE fault becomes pending on a swell (R60): one at a time. -/
def raiseEngine (s : State) (fr : FragId) (fval : Addr) : State :=
  let s := s.updUid fr.uid fun w =>
    if w.pend.engine then w
    else { w with pend := { w.pend with engine := true, engineVal := fval, engineTarget := BitVec.ofNat 3 fr.ent, engineFirst := !w.pend.late || w.pend.lateAt == s.now } }
  match s.findUid fr.uid with
  | some (k, _) => s.postOnce 1 (.asyncFaultDelivery ⟨k, fr.uid⟩)
  | none => s

/-- Whether a swell has not ended. -/
def swellLives (s : State) (uid : Nat) : Bool := (s.findUid uid).isSome || s.savedSwells.any fun w => w.uid == uid

/-- Producers that wait for a source to be read look again (R252). -/
def wakeProducers (s : State) (cl : Nat) : State :=
  (s.cluster cl).waiters.foldl (fun s y => if y.arrival then s else s.postOnce 1 (.tagWaiterService y.core y.word)) s

/-- A command ends: its record and lines go, its ticket keeps its status, the cluster's engines look at their queues, producers that waited for its source look again, and its launch may be complete. -/
def endCmd (s : State) (cl e : Nat) (m : EngCmd) (failed : Bool) (reason : Nat) : State :=
  let s := s.updEngine cl e fun x =>
    { x with cmds := x.cmds.filter fun y => y.seq != m.seq
             ended := ((⟨m.seq, m.ctx, failed, reason, m.total - m.counted⟩ : TicketRec) :: x.ended).take 272 }
  let s := (List.range 5).foldl (fun s i => s.postOnce 1 (.engineStep cl i)) s
  (wakeProducers s cl).nudge m.core m.launch m.ctx

/-- A transfer error (R255): the rest is counted with ERR, the ticket fails, and ENGINE is raised on the issuing swell or the error is logged. -/
def failCmd (s : State) (cl e : Nat) (m : EngCmd) (reason : Nat) : State :=
  let s := cmdCount s m (m.total - m.counted) true
  let s := endCmd s cl e m true reason
  if swellLives s m.fr.uid then raiseEngine s m.fr (cmdFval m)
  else s.logError m.ctx ⟨3, dieOfCluster cl, cmdFval m, FaultCode.engine.num, reason, coreCoords m.core, (ticketWord m.seq e).setWidth 64⟩

/-- A command has moved on by n bytes, of which `landed` have been written: they are counted, and the last end it (R250). -/
def moveCmd (s : State) (cl e : Nat) (m : EngCmd) (n landed : Nat) : State :=
  let m' : EngCmd := { m with st := .running, done := m.done + n, counted := m.counted + landed, since := none }
  let s := s.updMeter (dieOfCluster cl) m.ctx fun x => { x with copyb := x.copyb + BitVec.ofNat 64 landed }
  let s := s.updCmd cl e m.seq fun _ => m'
  let s := if landed = 0 then s else cmdCount s m landed false
  if m'.done = m'.total then endCmd s cl e m' false 0 else s.postOnce 1 (.engineStep cl e)

/-- Bytes of a command have been performed (R250). -/
def advanceCmd (s : State) (cl e : Nat) (m : EngCmd) (n : Nat) : State := moveCmd s cl e m n n

/-! ## Accesses of an engine -/

/-- What an engine's access to a global address comes to: a place, a REASON, a page to wait for, or a wait of some ticks. -/
inductive EngPlace where
  | ok (l : Loc)
  | fail (reason : Nat)
  | page (p : Nat)
  | later (ticks : Nat)
deriving DecidableEq, Repr

/-- Translate and check an access of an agent of a die on behalf of a context (R249, R255, R273, R277, R339, R412); `n` bytes are read when the access reads. A page refused to the agent is not asked for again. -/
def agentPlace (s : State) (die ctx : Nat) (user : Bool) (k : AccKind) (va n : Nat) (denied : Option Nat) : EngPlace × State :=
  if 2 ^ 56 ≤ va then (.fail 6, s)
  else if isHost (BitVec.ofNat 64 va) then
    if k.notHost then (.fail 4, s)
    else
      match (s.ctx ctx).ats.find? fun x => x.1 == va / 65536 with
      | some x => (if hostUp s ctx then .ok ⟨x.2 * 65536 + va % 65536, .ucr, false, 64, true⟩ else .later 4096, s)
      | none => (if denied = some (va / 65536) then .fail 2 else .page (va / 65536), s)
  else
    let (r, s) := walkTable s die ctx va
    match r with
    | .absent => (if denied = some (va / 65536) then .fail 2 else .page (va / 65536), s)
    | .malformed pa => (.fail 3, s.logError ctx ⟨4, die, BitVec.ofNat 64 pa, 0, 0, 0, 0⟩)
    | .leaf e big =>
      let l := locOf e big va
      match accessCheck s ctx die (!user) k e l with
      | some .cls => (.fail 4, s)
      | some _ => (.fail 3, s)
      | none =>
        let wait := bankWait s l
        if wait ≠ 0 then (.later wait, s)
        else if (k.reads && badBytes s l n) || homeFailed s l then (.fail 7, s)
        else (.ok l, s)

/-- The page of an address when it has been refused to an access of the device, as `agentPlace` takes it. -/
def devRefused (s : State) (ctx : Nat) (u : DevUser) (va : Nat) : Option Nat :=
  if (s.ctx ctx).devDenied.contains (pageName s ctx (va / 65536), u) then some (va / 65536) else none

/-- The device asks for a page on a context's behalf, once for each use of it. -/
def devAsk (s : State) (die ctx page : Nat) (write : Bool) (u : DevUser) : State :=
  let x := (pageName s ctx page, u)
  if (s.ctx ctx).devWaits.contains x then s
  else (s.updCtx ctx fun c => { c with devWaits := c.devWaits ++ [x] }).post 1 (.faultServiceRequest die ctx page ⟨write, false, false, false⟩ none)

/-- What the device wanted pages for is done: a later access asks anew. -/
def devDone (s : State) (ctx : Nat) (u : DevUser) : State :=
  s.updCtx ctx fun c => { c with devWaits := c.devWaits.filter fun x => x.2 != u, devDenied := c.devDenied.filter fun x => x.2 != u }

/-- A page of the device's accesses is there, or refused to those that wait for it. -/
def devAnswer (s : State) (ctx page : Nat) (refused : Bool) : State :=
  s.updCtx ctx fun c => { c with devWaits := c.devWaits.filter fun x => x.1 != page,
                                 devDenied := if refused then c.devDenied ++ c.devWaits.filter fun x => x.1 == page else c.devDenied }

/-- An access that the device itself makes for a context: as an agent's, and it waits while an engine holds the line (R254). -/
def devPlace (s : State) (die ctx : Nat) (user : Bool) (k : AccKind) (va n : Nat) (u : DevUser) : EngPlace × State :=
  match agentPlace s die ctx user k va n (devRefused s ctx u va) with
  | (.ok l, s) => if !l.host && lineHeld s (l.pa / 256) then (.later 64, s) else (.ok l, s)
  | r => r

/-- A command's wait at a bank or a channel does not count toward its time-out (R277): that begins behind it. -/
def excuseCmd (s : State) (cl : Nat) (m : EngCmd) (t : Nat) : State :=
  s.updCluster cl fun k => { k with engines := k.engines.map fun (x : Engine) =>
    { x with cmds := x.cmds.map fun y => if y.order = m.order then { y with since := some (m.since.getD s.now + t) } else y } }

/-- A message is on its way, or in a spill region: it has not come to its home. -/
def underWay (s : State) (k : Nat) (m : Msg) : Bool :=
  !((s.die m.loc.die).waiting.any fun x => x.msg == k)
    && (s.due.any (fun y => y.2 == m.event k) || s.dies.any fun x => x.2.links.any fun y => y.spilled.contains k || y.blocked.contains k)

/-- Requests of a die are on their way to another, in front of which its engines' accesses there do not pass (R266, R363). -/
def packetsAhead (s : State) (d h : Nat) : Bool := d != h && s.msgs.any fun x => x.2.src == d && x.2.loc.die == h && underWay s x.1 x.2

/-- The place of a command's global access: it waits for a line that another command holds, and behind the requests that its die has sent to the same home (R254, R266). -/
def cmdPlace (s : State) (cl : Nat) (m : EngCmd) (k : AccKind) (va n : Nat) : EngPlace × State :=
  match agentPlace s (dieOfCluster cl) m.ctx m.user k va n m.denied with
  | (.ok l, s) => if !l.host && (heldBefore s m (l.pa / 256) || packetsAhead s (dieOfCluster cl) l.die) then (.later 64, s) else (.ok l, s)
  | (.later t, s) => (.later t, if isHost (BitVec.ofNat 64 va) then s else excuseCmd s cl m t)
  | r => r

/-- A byte range by its pieces within lines: address and length. -/
def linePieces (va : Nat) : Nat → Nat → List (Nat × Nat)
  | 0, _ => []
  | fuel + 1, n => if n = 0 then [] else
    let k := Nat.min n (256 - va % 256)
    (va, k) :: linePieces (va + k) fuel (n - k)

/-- Add a word of 32 bits at its home, in one step (R206, R422). -/
def addWordAt (s : State) (ctx d : Nat) (l : Loc) (v : Word) : State :=
  let s := if l.cls == .coh then recallOthers s (l.pa / 256) 64 else s
  homeWrite s ctx d l (wordBytes (wordOfList (readBytes s.mem l.pa 4) + v))

/-- The command waits for a page: the die's fault service is asked (R255, R293). -/
def stallCmd (s : State) (cl e : Nat) (m : EngCmd) (p : Nat) (write : Bool) : State :=
  (s.updCmd cl e m.seq fun x => { x with st := .running, stall := some p }).post 1
    (.faultServiceRequest (dieOfCluster cl) m.ctx p ⟨write, false, true, false⟩ none)

/-- What a command does when an access cannot be made now; one without an answer for 2^24 ticks is a time-out (R255). -/
def cmdRefuse (s : State) (cl e : Nat) (m : EngCmd) (write : Bool) : EngPlace → State
  | .ok _ => s
  | .fail r => failCmd s cl e m r
  | .page p => stallCmd s cl e m p write
  | .later t =>
    match ((s.cmdAt cl e m.seq).getD m).since with
    | none => (s.updCmd cl e m.seq fun x => { x with since := some s.now }).postOnce t (.engineStep cl e)
    | some n => if n + 2 ^ 24 ≤ s.now then failCmd s cl e m 8 else s.postOnce t (.engineStep cl e)

/-- n bytes at a scratch address by the parts of the cores that own them (R222). -/
def scratchPieces (sa : Word) (n : Nat) : List (Word × Nat) :=
  let k := Nat.min n (2 ^ 19 - scratchOff sa)
  (sa, k) :: if k < n then [(sa + BitVec.ofNat 32 k, n - k)] else []

/-- Bytes read by an engine, or what prevents it: a source in the global space, the scratch or the shelf (R245, R253). -/
def engRead (s : State) (cl : Nat) (m : EngCmd) (space va n : Nat) : Except EngPlace (List Byte) × State :=
  let die := dieOfCluster cl
  match space with
  | 0 =>
    match cmdPlace s cl m .engRead va n with
    | (.ok l, s) =>
      let (bs, s) := dieRead s m.ctx die l n
      (.ok bs, s)
    | (r, s) => (.error r, s)
  | 1 =>
    let parts := scratchPieces (BitVec.ofNat 32 va) n
    if parts.any fun p => scratchBad s m.core m.ctx p.1 p.2 false then (.error (.fail 5), s)
    else if parts.any fun p => scratchErr s m.core p.1 p.2 then (.error (.fail 7), s)
    else (.ok (parts.flatMap fun p => scratchRead s m.core p.1 p.2), s)
  | _ =>
    let l : Loc := ⟨die * dieWindow + shelfBase + va, .dp, false, die, false⟩
    if shelfEnd - shelfBase < va + n ∨ !slabOwned (slabReg s die (va / 2 ^ 26)) m.ctx then (.error (.fail 3), s)
    else if refreshLeft s die (shelfBank l.pa) ≠ 0 then (.error (.later (refreshLeft s die (shelfBank l.pa))), excuseCmd s cl m (refreshLeft s die (shelfBank l.pa)))
    else if badBytes s l n then (.error (.fail 7), s)
    else
      let (bs, s) := dieRead s m.ctx die l n
      (.ok bs, s)

/-- A write of an engine into scratch: a BWAIT on a word that now holds another value is served (R240); with FILL each word whose last byte lands is set full and its waiters are served (R247). -/
def engScratch (s : State) (m : EngCmd) (sa : Nat) (bs : List Byte) (fill : Bool) : State :=
  let a : Word := BitVec.ofNat 32 sa
  let s := (scratchPieces a bs.length).foldl (fun s (p : Word × Nat) => scratchStore s m.core p.1 ((bs.drop (p.1 - a).toNat).take p.2)) s
  if fill then
    ((List.range bs.length).filter fun i => (sa + i) % 4 = 3).foldl (fun s i =>
      let w : Word := BitVec.ofNat 32 (sa + i)
      let own := scratchCore m.core w
      (s.updCore own fun c => { c with full := insertNat (scratchOff w / 4) c.full }).serve own (scratchOff w / 4)) s
  else s

/-- A write of an engine to a global page: performed at the home (R254, R359). The page is held from now on if it was not. -/
def engGlobal (s : State) (cl e : Nat) (m : EngCmd) (va : Nat) (l : Loc) (bs : List Byte) : State :=
  let h := (va / 65536, l.pa / 65536)
  let held := if m.held.contains h then m.held else h :: m.held.filter fun x => x.1 != h.1
  let s := if m.held.contains h then s else claimLines s { m with held := held }
  (homeWrite s m.ctx (dieOfCluster cl) l bs).updCmd cl e m.seq fun x => { x with held := held }

/-! ## Checks of a block (R246 to R248, R355) -/

/-- The first REASON that holds. Where a block breaks several checks R249 gives no order: the model takes a reserved field (1) before a misshapen block (6), and the block's checks before those of its barrier and its addresses (log 78). -/
def firstReason (l : List (Bool × Nat)) : Nat := (l.findSome? fun x => if x.1 then some x.2 else none).getD 0

/-- Spans that share bytes. -/
def spansMeet (a b : List Span) : Bool := a.any fun x => b.any fun y => x.space == y.space && decide (x.lo ≤ y.hi) && decide (y.lo ≤ x.hi)

/-- Ranges that overlap. -/
def overlaps (a n b m : Nat) : Bool := decide (a < b + m) && decide (b < a + n)

/-- What is wrong with a COPY block: 0 or a REASON (R246, R247, R249). -/
def copyReason (b : List Word) : Nat :=
  let src := blkPair b 0
  let dst := blkPair b 2
  let x := copyXp b
  let rows := copyRows b
  let rlen := copyRlen b
  let fill := blkField b 7 24 1 == 1
  firstReason [
    (blkField b 4 24 8 != 0 || blkField b 7 26 6 != 0 || x == 3 || decide (3 ≤ copyDsp b) || decide (3 ≤ copySsp b)
      || (copySsp b != 0 && blkWord b 1 != 0) || (copyDsp b != 0 && blkWord b 3 != 0), 1),
    (rows == 0 || rlen == 0 || decide (2 ^ 32 ≤ rows * rlen), 6),
    (x == 1 && (decide (4096 < rows) || decide (4096 < rlen)), 6),
    (x == 2 && (decide (4096 < rows) || decide (8192 < rlen) || rlen % 2 != 0 || src % 2 != 0 || dst % 2 != 0 || copySstr b % 2 != 0 || copyDstr b % 2 != 0), 6),
    (fill && (copyDsp b != 1 || dst % 4 != 0 || copyDstr b % 4 != 0 || (x == 0 && rlen % 4 != 0) || (x == 1 && rows % 4 != 0) || (x == 2 && rows % 2 != 0)), 6),
    (spansMeet [copySrcSpan b] [copyDstSpan b], 6)]

/-- What is wrong with a GATHER or SCATTER block (R248). -/
def gathReason (scatter : Bool) (b : List Word) : Nat :=
  let fill := blkField b 4 24 1 == 1
  firstReason [
    (blkField b 4 26 6 != 0 || blkField b 4 20 4 != 0, 1),
    (gathN b == 0 || decide (8 < gathEsz b) || gathIdx b % 4 != 0, 6),
    (fill && (scatter || decide (gathEsz b < 2) || gathDat b % 4 != 0), 6)]

/-- What is wrong with a RARITH block (R355). -/
def rarReason (b : List Word) : Nat :=
  let e := rarElem b
  let n := rarN b * e
  let fma := blkField b 7 18 2 == 2
  let clash (a : Nat) : Bool := a != blkPair b 0 && overlaps a n (blkPair b 0) n
  firstReason [
    (blkField b 6 24 8 != 0 || blkField b 7 26 6 != 0 || blkField b 7 23 2 != 0 || blkField b 7 0 17 != 0 || (!fma && blkPair b 4 != 0), 1),
    (n == 0 || blkPair b 0 % e != 0 || blkPair b 2 % e != 0 || (fma && blkPair b 4 % e != 0) || clash (blkPair b 2) || (fma && clash (blkPair b 4)), 6)]

/-- Whether the scoreboard holds a command back: an earlier command of the cluster that has not ended overlaps it (R251). Global spans are compared within a context. -/
def boardHolds (s : State) (cl : Nat) (m : EngCmd) : Bool :=
  (s.cluster cl).engines.toList.any fun x => x.cmds.any fun y =>
    let mine (l : List Span) : List Span := l.filter fun p => p.space != 0 || y.ctx == m.ctx
    decide (y.order < m.order) && (spansMeet (mine m.src) y.dst || spansMeet (mine m.dst) y.src || spansMeet (mine m.dst) y.dst)

/-! ## Steps -/

/-- What a COPY with FILL lands when it has read source bytes (R247): the scratch address, the bytes of whole words, and the bytes kept of words whose last byte is still to come. -/
def fillLand (b : List Word) (k dst : Nat) (buf bs : List Byte) : Nat × List Byte × List Byte :=
  if copyXp b = 0 then
    let x := buf ++ bs
    let n := x.length / 4 * 4
    (dst - buf.length, x.take n, x.drop n)
  else
    let e := copyElem b
    let len := copyRlen b
    if (k / len + 1) % (4 / e) = 0 then
      (dst - (4 - e), ((List.range (4 / e - 1)).flatMap fun i => (buf.drop (i * len + k % len)).take e) ++ bs, if k % len + e = len then [] else buf)
    else (dst, [], buf ++ bs)

/-- One step of a COPY (R246): up to 64 bytes of a row, or one element of a transpose. -/
def copyStep (s : State) (cl e : Nat) (m : EngCmd) : State :=
  let b := m.block
  let k := m.done
  let wrap (sp a : Nat) : Nat := a % spaceSize sp
  let src := wrap (copySsp b) (blkPair b 0 + copySrcOff b k)
  let dst := wrap (copyDsp b) (blkPair b 2 + copyDstOff b k)
  let n := if copyXp b = 0 then Nat.min 64 (Nat.min (copyRlen b - k % copyRlen b) (Nat.min (256 - src % 256) (256 - dst % 256))) else copyElem b
  match engRead s cl m (copySsp b) src n with
  | (.error r, s) => cmdRefuse s cl e m false r
  | (.ok bs, s) =>
    if copyDsp b = 1 then
      if scratchBad s m.core m.ctx (BitVec.ofNat 32 dst) n true then failCmd s cl e m 5
      else
        let fill := blkField b 7 24 1 == 1
        let (base, out, keep) := if fill then fillLand b k dst m.buf bs else (dst, bs, m.buf)
        let s := moveCmd (engScratch s m base out fill) cl e { m with buf := keep } n out.length
        if copySsp b = 1 then wakeProducers s cl else s
    else
      match cmdPlace s cl m .engWrite dst n with
      | (.ok l, s) =>
        let s := engGlobal s cl e m dst l bs
        let s := advanceCmd s cl e ((s.cmdAt cl e m.seq).getD m) n
        if copySsp b = 1 then wakeProducers s cl else s
      | (r, s) => cmdRefuse s cl e m true r

/-- Read up to 16 indices of a GATHER or SCATTER; behind the last the global span is known (R248). -/
def indexStep (s : State) (cl e : Nat) (m : EngCmd) : State :=
  let b := m.block
  let i := m.idx.length
  let n := Nat.min 16 (gathN b - i)
  let sa : Word := BitVec.ofNat 32 (gathIdx b + 4 * i)
  if (List.range n).any fun j => scratchBad s m.core m.ctx (sa + BitVec.ofNat 32 (4 * j)) 4 false then failCmd s cl e m 5
  else if (List.range n).any fun j => scratchErr s m.core (sa + BitVec.ofNat 32 (4 * j)) 4 then failCmd s cl e m 7
  else
    let idx := m.idx ++ (List.range n).map fun j => wordOfList (scratchRead s m.core (sa + BitVec.ofNat 32 (4 * j)) 4)
    let ea (x : Word) : Nat := (blkPair b 0 + x.toNat * gathElem b) % 2 ^ 64
    let eas := idx.map ea
    let span : Span := ⟨0, eas.foldl Nat.min (2 ^ 64), eas.foldl Nat.max 0 + gathElem b - 1⟩
    let full := idx.length = gathN b
    let (held, s) := if full ∧ m.kind == .scatter then heldPages s (dieOfCluster cl) m.ctx (rangePages (eas.map fun a => (a, gathElem b))) else (m.held, s)
    let known (x : EngCmd) : EngCmd :=
      { x with st := .running, idx := idx
               src := if full ∧ m.kind == .gather then x.src ++ [span] else x.src
               dst := if full ∧ m.kind == .scatter then x.dst ++ [span] else x.dst
               held := held }
    let s := if full then claimLines s (known m) else s
    let s := s.updCmd cl e m.seq known
    (wakeProducers s cl).postOnce 1 (.engineStep cl e)

/-- One step of a GATHER or SCATTER: up to 64 bytes of an element (R248). -/
def gathStep (s : State) (cl e : Nat) (m : EngCmd) : State :=
  let b := m.block
  let sz := gathElem b
  let ea := (blkPair b 0 + ((m.idx[m.done / sz]?).getD 0).toNat * sz) % 2 ^ 64
  let n := Nat.min 64 sz
  let dat : Word := BitVec.ofNat 32 (gathDat b + m.done)
  if ea % sz ≠ 0 then failCmd s cl e m 6
  else if (List.range n).any fun j => scratchBad s m.core m.ctx (dat + BitVec.ofNat 32 j) 1 (m.kind == .gather) then failCmd s cl e m 5
  else if m.kind == .gather then
    match engRead s cl m 0 (ea + m.done % sz) n with
    | (.error r, s) => cmdRefuse s cl e m false r
    | (.ok bs, s) => advanceCmd (engScratch s m dat.toNat bs (blkField b 4 24 1 == 1)) cl e m n
  else
    match engRead s cl m 1 dat.toNat n with
    | (.error r, s) => cmdRefuse s cl e m false r
    | (.ok bs, s) =>
      match cmdPlace s cl m .engWrite (ea + m.done % sz) n with
      | (.ok l, s) =>
        let s := engGlobal s cl e m ea l bs
        wakeProducers (advanceCmd s cl e ((s.cmdAt cl e m.seq).getD m) n) cl
      | (r, s) => cmdRefuse s cl e m true r

/-- The result of one RARITH element (R355): no flag is raised. -/
def rarValue (b : List Word) (x y w : Nat) : Nat :=
  let f : FFmt := if blkField b 7 17 1 = 0 then .fp32 else .bf16
  let env : FEnv := ⟨Rm.ofBits (BitVec.ofNat 2 (blkField b 7 21 2)), blkField b 7 20 1 == 1, false⟩
  match blkField b 7 18 2 with
  | 0 => (addVal f env (unpackF f x) (unpackF f y)).1
  | 1 => (mulVal f env (unpackF f x) (unpackF f y)).1
  | 2 => (fmaVal f env (unpackF f y) (unpackF f w) (unpackF f x)).1
  | _ => (maxOfBits f x y).1

/-- One step of RARITH: the elements of up to 64 bytes, each performed in one step at the memory logic of its address (R355). -/
def rarStep (s : State) (cl e : Nat) (m : EngCmd) : State :=
  let b := m.block
  let k := m.done
  let sz := rarElem b
  let dst := (blkPair b 0 + k) % 2 ^ 64
  let s1 := (blkPair b 2 + k) % 2 ^ 64
  let s2 := (blkPair b 4 + k) % 2 ^ 64
  let fma := blkField b 7 18 2 == 2
  let n := Nat.min (Nat.min 64 (m.total - k)) (Nat.min (256 - dst % 256) (Nat.min (256 - s1 % 256) (256 - s2 % 256)))
  match engRead s cl m 0 s1 n with
  | (.error r, s) => cmdRefuse s cl e m false r
  | (.ok ys, s) =>
    match (if fma then engRead s cl m 0 s2 n else (.ok [], s)) with
    | (.error r, s) => cmdRefuse s cl e m false r
    | (.ok ws, s) =>
      match cmdPlace s cl m .rarith dst n with
      | (.ok l, s) =>
        let el (bs : List Byte) (i : Nat) : Nat := natOfBytes ((bs.drop (i * sz)).take sz)
        let xs := readBytes s.mem l.pa n
        let vs := (List.range (n / sz)).flatMap fun i => bytesOfNat (rarValue b (el xs i) (el ys i) (el ws i)) sz
        advanceCmd (homeWrite s m.ctx (dieOfCluster cl) l vs) cl e m n
      | (r, s) => cmdRefuse s cl e m true r

end Sys2Proof.Machine
end

