-- ==== Sys2Proof/Machine/Collective.lean ====
section
/-! DEFINITION. Puts between packages, collectives, CSTAT, and the step of an engine (R242, R419 to R429). -/

namespace Sys2Proof.Machine

/-! ## Windows and puts (R419 to R422) -/

/-- An entry of a context's window table (R420). -/
structure Window where
  base : Nat
  size : Nat
  rsize : Nat
  ocnt : Nat
  tcnt : Nat
  valid : Bool
  putin : Bool
  putout : Bool
deriving DecidableEq, Repr

/-- Entry w of a context's window table. -/
def Ctx.window (c : Ctx) (w : Nat) : Window :=
  let o := 0x20000 + 64 * (w % 256)
  let fl := c.field (o + 0x28) 4
  ⟨c.field o 8, c.field (o + 8) 8, c.field (o + 16) 8, c.field (o + 24) 8, c.field (o + 32) 8, fl.testBit 31, fl.testBit 1, fl.testBit 0⟩

/-- Target node of a put block. -/
def putNode (b : List Word) : Nat := blkField b 4 16 8
/-- Window of a put block. -/
def putWin (b : List Word) : Nat := blkField b 4 0 8
/-- Target offset of a put block. -/
def putOff (b : List Word) : Nat := (blkWord b 2).toNat
/-- Signal of a WSIG block: offset and value. -/
def putSig (kind : EngKind) (b : List Word) : Option (Nat × Word) := if kind == .wsig then some ((blkWord b 5).toNat, blkWord b 6) else none

/-- Mask of shore links toward a node (R415, R419). -/
def routeMask (s : State) (node : Nat) : Word := (kvGet s.pkg.routeTable node).getD 0
/-- Whether a live link leads toward a node. -/
def routeLive (s : State) (node : Nat) : Bool := (routeMask s node).setWidth 28 &&& s.pkg.shoreLive != 0

/-- The WINDOW check at issue (R421). -/
def windowFault (s : State) (ctx : Nat) (kind : EngKind) (b : List Word) : Option Nat :=
  let w := (s.ctx ctx).window (putWin b)
  if !w.valid || !w.putout || decide (w.rsize < putOff b + putLen b) then some (putOff b)
  else match putSig kind b with
    | some (o, _) => if w.rsize < o + 4 then some o else none
    | none => none

/-- The issue of WSEND or WSIG (R421). -/
def putIssue (kind : EngKind) (n : Nat) (o : Reg2LA) (s : State) : Host.Outcome State Fault Refusal :=
  issue { brk := true } [] s fun w f =>
    let b := blockAt w o.a n
    match windowFault s w.ctx kind b with
    | some v => .fault s (plainFault .window (BitVec.ofNat 64 v))
    | none =>
      engIssue s w f o.d (pickEngine s (clusterOfCore (coreOfKey s.cur.key))) kind b (putLen b) [⟨0, blkPair b 0, blkPair b 0 + putLen b - 1⟩] [] fun s => ([], s)

/-- WSEND (R421). -/
def execWsend (o : Reg2LA) (s : State) : Host.Outcome State Fault Refusal := putIssue .wsend 5 o s
/-- WSIG (R421). -/
def execWsig (o : Reg2LA) (s : State) : Host.Outcome State Fault Refusal := putIssue .wsig 7 o s

/-- What is wrong with a put block (R249, R419). -/
def putReason (s : State) (m : EngCmd) : Nat :=
  let b := m.block
  firstReason [
    (blkField b 3 24 8 != 0 || blkField b 4 24 8 != 0 || blkField b 4 8 8 != 0 || routeMask s (putNode b) == 0, 1),
    (putLen b == 0 || (match putSig m.kind b with | some (o, _) => o % 4 != 0 | none => false), 6)]

/-- One step of a put at its origin (R422): up to 64 bytes of the source; with the last the put leaves by a live link of its mask, or waits for one (R419). -/
def putStep (s : State) (cl e : Nat) (m : EngCmd) : State :=
  let b := m.block
  let va := (blkPair b 0 + m.buf.length) % 2 ^ 64
  let n := Nat.min 64 (Nat.min (putLen b - m.buf.length) (256 - va % 256))
  match engRead s cl m 0 va n with
  | (.error r, s) => cmdRefuse s cl e m false r
  | (.ok bs, s) =>
    let buf := m.buf ++ bs
    let last := buf.length = putLen b
    let s := s.updCmd cl e m.seq fun x => { x with st := .running, buf := if last then [] else buf, handed := last }
    if last then
      let k := s.nextMsg
      let wait := !routeLive s (putNode b)
      let p : Put := { ctx := m.ctx, cluster := cl, engine := e, seq := m.seq, node := putNode b, win := putWin b, toff := putOff b, bytes := buf,
                       sig := putSig m.kind b, tried := s.now, waiting := wait, acked := false }
      let s := { s with pkg := { s.pkg with puts := kvSet s.pkg.puts k p }, nextMsg := k + 1 }
      let s := if wait then s.post (2 ^ 24) (.putLinkTimeout k) else s
      s.postOnce 1 (.engineStep cl e)
    else s.postOnce 1 (.engineStep cl e)

/-- Step 5 of R422: the origin counts the put at OCNT, and the ticket is done; a page that is not resident is asked for first. -/
def putDone (s : State) (k : Nat) (p : Put) (m : EngCmd) : State :=
  let w := (s.ctx p.ctx).window p.win
  match cmdPlace s p.cluster m .atomic w.ocnt 4 with
  | (.ok l, s) =>
    let s := addWordAt s p.ctx (dieOfCluster p.cluster) l 1
    let s := { s with pkg := { s.pkg with puts := kvErase s.pkg.puts k } }
    advanceCmd s p.cluster p.engine m m.total
  | (.fail r, s) => failCmd { s with pkg := { s.pkg with puts := kvErase s.pkg.puts k } } p.cluster p.engine m r
  | (.page q, s) => stallCmd { s with pkg := { s.pkg with puts := kvSet s.pkg.puts k { p with acked := true } } } p.cluster p.engine m q true
  | (.later t, s) => { s with pkg := { s.pkg with puts := kvSet s.pkg.puts k { p with acked := true } } }.postOnce t (.engineStep p.cluster p.engine)

/-- PUT_ACKNOWLEDGEMENT (R422): the target has performed the put, or refuses it with a REASON. One whose command has been torn down is counted by the teardown. -/
def execPutAcknowledgement (put reason : Nat) (s : State) : Host.Outcome State Fault Refusal :=
  .next <|
    match kvGet s.pkg.puts put with
    | none => s
    | some p =>
      match s.cmdAt p.cluster p.engine p.seq with
      | none =>
        if reason = 0 ∧ (s.ctx p.ctx).status = 5 then { s with pkg := { s.pkg with puts := kvSet s.pkg.puts put { p with acked := true, waiting := false } } }.postOnce 1 (.contextTeardown p.ctx)
        else { s with pkg := { s.pkg with puts := kvErase s.pkg.puts put } }
      | some m =>
        if reason = 0 then putDone s put p m
        else failCmd { s with pkg := { s.pkg with puts := kvErase s.pkg.puts put } } p.cluster p.engine m reason

/-- PUT_LINK_TIMEOUT (R419): no link of the mask has become live in time. -/
def execPutLinkTimeout (put : Nat) (s : State) : Host.Outcome State Fault Refusal :=
  .next <|
    match kvGet s.pkg.puts put with
    | none => s
    | some p =>
      if p.waiting && decide (p.tried + 2 ^ 24 ≤ s.now) then
        let s := { s with pkg := { s.pkg with puts := kvErase s.pkg.puts put } }
        match s.cmdAt p.cluster p.engine p.seq with
        | some m => failCmd s p.cluster p.engine m 8
        | none => s
      else s

/-- The places of an arrived put: pieces of the target range within lines, the signal word, the target counter; or what prevents it. -/
def arrivalPlaces (s : State) (put : PutIn) (die : Nat) (denied : Option Nat) : List (Nat × Nat × AccKind) → Except EngPlace (List Loc) × State
  | [] => (.ok [], s)
  | (va, n, k) :: rest =>
    match agentPlace s die put.ctx true k va n denied with
    | (.ok l, s) =>
      match arrivalPlaces s put die denied rest with
      | (.ok ls, s) => (.ok (l :: ls), s)
      | r => r
    | (r, s) => (.error r, s)

/-- Write consecutive bytes to consecutive places. -/
def writePieces (s : State) (ctx die : Nat) : List Loc → List (Nat × Nat) → List Byte → State
  | l :: ls, (_, n) :: ps, bs => writePieces (homeWrite s ctx die l (bs.take n)) ctx die ls ps (bs.drop n)
  | _, _, _ => s

/-- Answer an arrived put (R422). -/
def ackPut (s : State) (put : PutIn) (reason : Nat) : State :=
  { s with pkg := { s.pkg with acks := (put, reason) :: s.pkg.acks, heldPuts := s.pkg.heldPuts.filter fun x => x.1 != put } }

/-- PUT_ARRIVAL (R422): every page is checked before anything is written; then the bytes, the signal, and the target counter. -/
def execPutArrival (put : PutIn) (s : State) : Host.Outcome State Fault Refusal :=
  let w := (s.ctx put.ctx).window put.win
  let die := s.pkg.lead
  let data := linePieces (w.base + put.toff) (put.bytes.length + 1) put.bytes.length
  let accs : List (Nat × Nat × AccKind) := data.map (fun x => (x.1, x.2, AccKind.engWrite)) ++
    (match put.sig with | some (o, _) => [(w.base + o, 4, AccKind.atomic)] | none => []) ++ [(w.tcnt, 4, AccKind.atomic)]
  let denied := (s.pkg.heldPuts.find? fun x => x.1 == put && x.2.2).map fun x => x.2.1
  .next <|
    if !w.valid || !w.putin || (s.ctx put.ctx).status == 0 || (s.ctx put.ctx).status == 6 then ackPut s put 3
    else if w.size < put.toff + put.bytes.length || (match put.sig with | some (o, _) => decide (w.size < o + 4) || o % 4 != 0 | none => false) || w.tcnt % 4 != 0 then ackPut s put 6
    else
      match arrivalPlaces s put die denied accs with
      | (.error (.fail r), s) => ackPut s put r
      | (.error (.later t), s) => s.post t (.putArrival put)
      | (.error (.page p), s) =>
        { s with pkg := { s.pkg with heldPuts := (put, p, false) :: s.pkg.heldPuts.filter fun x => x.1 != put } }.post 1
          (.faultServiceRequest die put.ctx p ⟨true, false, true, false⟩ none)
      | (.error (.ok _), s) => s
      | (.ok ls, s) =>
        let s := writePieces s put.ctx die ls data put.bytes
        let rest := ls.drop data.length
        let s := match put.sig, rest with
          | some (_, v), l :: t :: _ => addWordAt (addWordAt s put.ctx die l v) put.ctx die t 1
          | none, t :: _ => addWordAt s put.ctx die t 1
          | _, _ => s
        ackPut s put 0

/-! ## Collectives (R423 to R428) -/

/-- KIND of a COLL block: 0 RS, 1 AG, 2 AR, 3 PERM. -/
def collKind (b : List Word) : Nat := blkField b 5 26 2
/-- OP: 0 SUM, 1 MAX. -/
def collOp (b : List Word) : Nat := blkField b 5 24 2
/-- Format of the elements. -/
def collFmt (b : List Word) : FFmt := if blkField b 5 23 1 = 0 then .fp32 else .bf16
/-- Bytes of an element. -/
def collElem (b : List Word) : Nat := if blkField b 5 23 1 = 0 then 4 else 2
/-- STATS. -/
def collStats (b : List Word) : Bool := blkField b 5 19 1 == 1
/-- Origin die of the cove. -/
def collOrg (b : List Word) : Nat := blkField b 6 8 6
/-- LR and LC. -/
def collLr (b : List Word) : Nat := blkField b 6 3 3
/-- LC. -/
def collLc (b : List Word) : Nat := blkField b 6 0 3
/-- Packages taking part. -/
def collNpk (b : List Word) : Nat := blkField b 7 24 8
/-- Rank of this package. -/
def collPrank (b : List Word) : Nat := blkField b 7 16 8
/-- The window between the packages. -/
def collWin (b : List Word) : Nat := blkField b 7 8 8
/-- Identifier of the collective. -/
def collId (b : List Word) : Nat := blkField b 7 0 8
/-- D: dies of the cove. -/
def collDies (b : List Word) : Nat := 2 ^ (collLr b + collLc b)
/-- P: ranks. -/
def collRanks (b : List Word) : Nat := collNpk b * collDies b
/-- The cove's dies in the order of their ranks (R424). -/
def collCove (b : List Word) : List Nat :=
  (List.range (collDies b)).map fun i => (collOrg b / 8 + i / 2 ^ collLc b) * 8 + collOrg b % 8 + i % 2 ^ collLc b
/-- Rank of a die of the cove. -/
def collRank (b : List Word) (die : Nat) : Nat :=
  collPrank b * collDies b + (die / 8 - collOrg b / 8) * 2 ^ collLc b + (die % 8 - collOrg b % 8)
/-- Elements of a source, and of a destination, by KIND (R425). -/
def collSrcN (b : List Word) : Nat := if collKind b = 0 then collN b * collRanks b else collN b
/-- Elements of a destination. -/
def collDstN (b : List Word) : Nat := if collKind b = 1 then collN b * collRanks b else collN b
/-- Bytes of the staging area of PERM (R426). -/
def collStage (b : List Word) : Nat := 2 * blkField b 5 0 16 * 1024
/-- Bytes that the destination span holds. -/
def collDstBytes (b : List Word) : Nat := if collKind b = 3 then collStage b else collDstN b * collElem b

/-- COLL (R423): the ticket is held by a copy engine, the die's collective engine performs it. -/
def execColl (o : Reg2LA) (s : State) : Host.Outcome State Fault Refusal :=
  issue { brk := true } [] s fun w f =>
    let b := blockAt w o.a 9
    let n := collDstN b * collElem b
    engIssue s w f o.d (pickEngine s (clusterOfCore (coreOfKey s.cur.key))) .coll b n
      [⟨0, blkPair b 0, blkPair b 0 + collSrcN b * collElem b - 1⟩] [⟨0, blkPair b 2, blkPair b 2 + collDstBytes b - 1⟩] fun s => ([], s)

/-- Whether a launch's bay has cores on a die (R424). -/
def bayOnDie (s : State) (launch die : Nat) : Bool :=
  match kvGet s.launches launch with
  | none => false
  | some l => (List.range 16).any fun r => (List.range 16).any fun c => l.inBay (coreAt (16 * (die / 8) + r) (16 * (die % 8) + c))

/-- A bad cove (R424). -/
def coveBad (s : State) (m : EngCmd) : Bool :=
  let b := m.block
  decide (3 < collLr b) || decide (3 < collLc b) || collOrg b / 8 % 2 ^ collLr b != 0 || collOrg b % 8 % 2 ^ collLc b != 0 || !(collCove b).all (bayOnDie s m.launch)

/-- A participant's block is malformed, its cove is bad or a limit is violated (R424, R428). -/
def collBad (s : State) (die : Nat) (m : EngCmd) : Bool :=
  let b := m.block
  let e := collElem b
  let k := collKind b
  let src := blkPair b 0
  let dst := blkPair b 2
  blkField b 4 24 8 != 0 || blkField b 5 28 4 != 0 || blkField b 5 16 3 != 0 || blkField b 6 14 18 != 0 || blkField b 6 6 2 != 0
    || decide (2 ≤ collOp b) || (k != 3 && blkWord b 8 != 0) || (collStats b && !(k == 2 && collOp b == 0))
    || collN b == 0 || collNpk b == 0 || decide (collNpk b ≤ collPrank b) || (k == 3 && (collNpk b != 1 || blkField b 5 0 16 == 0))
    || coveBad s m || !(collCove b).contains die
    || src % e != 0 || dst % e != 0
    || (overlaps src (collSrcN b * e) dst (collDstBytes b) && !(k == 2 && src == dst))

/-- The joined commands of a collective: die, engine and command. One command takes part for each die (R424), the one that joined first; a later one of the same identifier waits for the next round. -/
def collParts (s : State) (ctx id : Nat) : List (Nat × Nat × Nat × EngCmd) :=
  (List.range 64).flatMap fun d => (((s.die d).colls.filter fun x => x.ctx == ctx && x.id == id).take 1).filterMap fun x =>
    (s.cmdAt x.cluster x.engine x.seq).map fun m => (d, x.cluster, x.engine, m)

/-- What a collective has exchanged with other packages. -/
def collXfer (s : State) (ctx id : Nat) : CollXfer := (s.pkg.xfers.find? fun x => x.ctx == ctx && x.id == id).getD ⟨ctx, id, 0, [], []⟩

/-- Keep what a collective has exchanged; nothing exchanged is not listed. -/
def setXfer (s : State) (x : CollXfer) : State :=
  { s with pkg := { s.pkg with xfers := (s.pkg.xfers.filter fun y => !(y.ctx == x.ctx && y.id == x.id)) ++ if x.sent = [] ∧ x.came = [] then [] else [x] } }

/-- Sources that came for a later round: those of a rank that has come before. -/
def laterRounds : List (Nat × List Byte) → List Nat → List (Nat × List Byte)
  | [], _ => []
  | x :: xs, seen => if seen.contains x.1 then x :: laterRounds xs seen else laterRounds xs (x.1 :: seen)

/-- Forget the participants of a round of a collective, and what it has exchanged; commands of a next round are looked at anew. -/
def collClear (s : State) (ctx id : Nat) : State :=
  let x := collXfer s ctx id
  let s := setXfer s { x with sent := [], came := laterRounds x.came [] }
  let s := { s with dies := s.dies.map fun (x : Nat × Die) => (x.1, { x.2 with colls := x.2.colls.eraseP fun y => y.ctx == ctx && y.id == id }) }
  if (collParts s ctx id).isEmpty then s else s.postOnce 1 (.collectiveExchange ctx id [])

/-- Every participant fails with a REASON (R424): those that have joined now, those of the other dies of the cove as they come. -/
def collFail (s : State) (ctx id reason : Nat) : State :=
  let ps := collParts s ctx id
  let late := ((ps.flatMap fun p => if coveBad s p.2.2.2 then [] else collCove p.2.2.2.block).eraseDups).filter fun d => !ps.any fun p => p.1 == d
  let s := late.foldl (fun s d => s.updDie d fun k => { k with collDead := (ctx, id) :: k.collDead.filter fun x => x != (ctx, id) }) s
  ps.foldl (fun s p => failCmd s p.2.1 p.2.2.1 p.2.2.2 reason) (collClear s ctx id)

/-- The fields that must be equal across participants (R424). -/
def collShared (b : List Word) : List Word := [blkWord b 4, blkWord b 5, blkWord b 6, blkWord b 7 &&& 0xFF00FFFF#32, blkWord b 8]

/-- The window of a collective of several packages, by which puts must leave and land (R424, R420; log 84). -/
def collClosed (s : State) (m : EngCmd) : Bool :=
  let w := (s.ctx m.ctx).window (collWin m.block)
  decide (1 < collNpk m.block) && !(w.valid && w.putout && w.putin)

/-- A command of the collective joins (R424). One that breaks a limit, or differs from a participant that is there, makes all fail; when every die of the cove has joined, the exchange begins. -/
def collJoin (s : State) (cl e : Nat) (m : EngCmd) : State :=
  let d := dieOfCluster cl
  let id := collId m.block
  if (s.die d).collDead.contains (m.ctx, id) then failCmd (s.updDie d fun k => { k with collDead := k.collDead.filter fun x => x != (m.ctx, id) }) cl e m 1 else
  let s := s.updCmd cl e m.seq fun x => { x with st := .running, handed := true }
  let s := s.updDie d fun k => { k with colls := k.colls ++ [⟨m.ctx, id, cl, e, m.seq⟩] }
  let s := s.postOnce 1 (.engineStep cl e)
  if ((s.die d).colls.filter fun x => x.ctx == m.ctx && x.id == id).length ≠ 1 then s
  else if collBad s d m then collFail s m.ctx id 1
  else if (collParts s m.ctx id).any fun p => collShared p.2.2.2.block != collShared m.block then collFail s m.ctx id 1
  else if (collCove m.block).all fun k => (s.die k).colls.any fun x => x.ctx == m.ctx && x.id == id then
    s.postOnce (40 * collDies m.block) (.collectiveExchange m.ctx id [])
  else s

/-- Read a byte range for a participant, or what prevents it. -/
def collRead (s : State) (cl : Nat) (m : EngCmd) : List (Nat × Nat) → Except EngPlace (List Byte) × State
  | [] => (.ok [], s)
  | (va, n) :: rest =>
    match engRead s cl m 0 va n with
    | (.error r, s) => (.error r, s)
    | (.ok bs, s) =>
      match collRead s cl m rest with
      | (.ok cs, s) => (.ok (bs ++ cs), s)
      | r => r

/-- The places of a byte range that a participant writes, or what prevents it. -/
def collPlaces (s : State) (cl : Nat) (m : EngCmd) : List (Nat × Nat) → Except EngPlace (List Loc) × State
  | [] => (.ok [], s)
  | (va, n) :: rest =>
    match cmdPlace s cl m .engWrite va n with
    | (.ok l, s) =>
      match collPlaces s cl m rest with
      | (.ok ls, s) => (.ok (l :: ls), s)
      | r => r
    | (r, s) => (.error r, s)

/-- The exact sum of values rounded once, or their special result (R18, R120, R425). -/
def sumVals (f : FFmt) (env : FEnv) (xs : List FVal) : Nat :=
  if xs.any FVal.isNan then f.nanBits
  else if xs.any FVal.isInf then
    let neg := xs.any fun x => x.isInf && x.neg
    let pos := xs.any fun x => x.isInf && !x.neg
    if neg && pos then f.nanBits else (infResult f neg).1
  else (finishSum f env (xs.filterMap fun x => match x with | .fin n m e => some ⟨n, m, e⟩ | _ => none)).1

/-- R of R425 over one element of every rank; MAX of one rank's NaN is the canonical one too (R12). -/
def reduceElem (b : List Word) (xs : List Nat) : Nat :=
  let f := collFmt b
  if collOp b = 0 then sumVals f ⟨Rm.ofBits (BitVec.ofNat 2 (blkField b 5 21 2)), blkField b 5 20 1 == 1, false⟩ (xs.map (unpackF f))
  else match xs with
    | [] => 0
    | x :: rest => rest.foldl (fun a y => (maxOfBits f a y).1) (maxOfBits f x x).1

/-- A sum of squares rounded once to binary64 (R428); the pattern of a NaN is not stated (log 21). -/
def statSum (s : State) (f : FFmt) (xs : List Nat) : Addr :=
  let vs := xs.map (unpackF f)
  if vs.any FVal.isNan then Config.freeStatNan s.freeCtr
  else if vs.any FVal.isInf then 0x7FF0000000000000
  else BitVec.ofNat 64 (finishSum .fp64 ⟨.rne, false, false⟩ (vs.filterMap fun x => match x with | .fin _ m e => some ⟨false, m * m, 2 * e⟩ | _ => none)).1

/-- Element i of a list of bytes. -/
def elemAt (e : Nat) (bs : List Byte) (i : Nat) : Nat := natOfBytes ((bs.drop (i * e)).take e)

/-- What the destination of rank q receives from the sources in rank order (R425). -/
def collResult (b : List Word) (ptab : List Byte) (srcs : List (List Byte)) (q : Nat) : List Byte :=
  let e := collElem b
  let n := collN b
  match collKind b with
  | 0 => (List.range n).flatMap fun i => bytesOfNat (reduceElem b (srcs.map fun x => elemAt e x (q * n + i))) e
  | 1 => srcs.flatten
  | 2 => (List.range n).flatMap fun i => bytesOfNat (reduceElem b (srcs.map fun x => elemAt e x i)) e
  | _ =>
    match (List.range srcs.length).find? fun r => ((ptab[r]?).getD 0).toNat = q with
    | some r => (srcs[r]?).getD []
    | none => []

/-- The writes of a participant: address and bytes in order. PERM passes each chunk through its staging segment (R426). -/
def collWrites (b : List Word) (bs : List Byte) : List (Nat × List Byte) :=
  if collKind b = 3 then
    let seg := blkField b 5 0 16 * 1024
    (List.range ((bs.length + seg - 1) / seg)).flatMap fun k =>
      let c := (bs.drop (k * seg)).take seg
      [(blkPair b 2 + k % 2 * seg, c), (blkPair b 0 + k * seg, c)]
  else [(blkPair b 2, bs)]

/-- A participant that cannot go on yet: a page is asked for, and the collective looks again. -/
def collWait (s : State) (ctx id : Nat) (cl e : Nat) (m : EngCmd) (write : Bool) : EngPlace → State
  | .ok _ => s
  | .fail r => collFail s ctx id r
  | .page p => (stallCmd s cl e m p write).post 4096 (.collectiveExchange ctx id [])
  | .later t => s.post t (.collectiveExchange ctx id [])

/-- Read every participant's source: rank and bytes, or the participant that prevents it. -/
def collGather (s : State) : List (Nat × Nat × Nat × EngCmd) → Except (Nat × Nat × EngCmd × EngPlace) (List (Nat × List Byte)) × State
  | [] => (.ok [], s)
  | (d, cl, e, m) :: rest =>
    let n := collSrcN m.block * collElem m.block
    match collRead s cl m (linePieces (blkPair m.block 0) (n + 1) n) with
    | (.error r, s) => (.error (cl, e, m, r), s)
    | (.ok bs, s) =>
      match collGather s rest with
      | (.ok xs, s) => (.ok ((collRank m.block d, bs) :: xs), s)
      | r => r

/-- The first participant whose destination cannot be written now. -/
def collBlocked (s : State) : List (Nat × Nat × Nat × EngCmd) → Option (Nat × Nat × EngCmd × EngPlace) × State
  | [] => (none, s)
  | (_, cl, e, m) :: rest =>
    let b := m.block
    let n := collDstBytes b
    let x := collSrcN b * collElem b
    let ps := linePieces (blkPair b 2) (n + 1) n ++ if collKind b = 3 then linePieces (blkPair b 0) (x + 1) x else []
    match collPlaces s cl m ps with
    | (.error r, s) => (some (cl, e, m, r), s)
    | (.ok _, s) => collBlocked s rest

/-- Write one range of a participant. -/
def collPut (s : State) (cl : Nat) (m : EngCmd) (va : Nat) (bs : List Byte) : State :=
  let ps := linePieces va (bs.length + 1) bs.length
  match collPlaces s cl m ps with
  | (.ok ls, s) => writePieces s m.ctx (dieOfCluster cl) ls ps bs
  | (.error _, s) => s

/-- COLLECTIVE_EXCHANGE (R424 to R428): with every participant joined the sources are read, and leave for the other packages; with every source known, the results are written and the tickets are done. `remote` holds sources of the other packages' ranks, as they came over the window; they are kept for as long as they wait. -/
def execCollectiveExchange (ctx id : Nat) (remote : List (Nat × List Byte)) (s : State) : Host.Outcome State Fault Refusal :=
  let s := if remote = [] ∨ (s.ctx ctx).status = 0 ∨ (s.ctx ctx).status = 6 then s else let x := collXfer s ctx id; setXfer s { x with came := x.came ++ remote }
  let ps := collParts s ctx id
  .next <|
    match ps with
    | [] => s
    | (d0, _, _, m0) :: _ =>
      let b := m0.block
      if ps.any fun p => collBad s p.1 p.2.2.2 then collFail s ctx id 1
      else if ps.any fun p => collShared p.2.2.2.block != collShared b then collFail s ctx id 1
      else if !(collCove b).all fun d => ps.any fun p => p.1 == d then s
      else if collClosed s m0 then collFail s ctx id 3
      else
        let tab (p : Nat × Nat × Nat × EngCmd) : List Byte := scratchRead s p.2.2.2.core (blkWord b 8) (collRanks b)
        let perm := collKind b = 3
        if perm ∧ ps.any fun p => (List.range (collRanks b)).any fun i => scratchBad s p.2.2.2.core ctx (blkWord b 8 + BitVec.ofNat 32 i) 1 false then collFail s ctx id 5
        else if perm ∧ ps.any fun p => !(List.range (collRanks b)).all fun q => (tab p).contains (BitVec.ofNat 8 q) then collFail s ctx id 6
        else if perm ∧ ps.any fun p => tab p != tab (d0, 0, 0, m0) then collFail s ctx id 1
        else
          let x := collXfer s ctx id
          match (if x.sent = [] then collGather s ps else (.ok x.sent, s)) with
          | (.error (cl, e, m, r), s) => collWait s ctx id cl e m false r
          | (.ok near, s) =>
            let s := if collNpk b = 1 then s else setXfer s { x with win := collWin b, sent := near }
            let srcs := (List.range (collRanks b)).map fun q => ((near ++ x.came).find? fun x => x.1 == q).map fun x => x.2
            if srcs.any Option.isNone then s
            else
              match collBlocked s ps with
              | (some (cl, e, m, r), s) => collWait s ctx id cl e m true r
              | (none, s) =>
                let xs := srcs.map fun x => x.getD []
                let f := collFmt b
                let sz := collElem b
                let ptab := tab (d0, 0, 0, m0)
                let all := xs.flatMap fun x => (List.range (collN b)).map (elemAt sz x)
                let s := collClear s ctx id
                let s := { s with freeCtr := s.freeCtr + 2 }
                ps.foldl (fun s p =>
                  let m := p.2.2.2
                  let out := collResult b ptab xs (collRank m.block p.1)
                  let s := (collWrites m.block out).foldl (fun s x => collPut s p.2.1 m x.1 x.2) s
                  let s := if collStats b then
                      let l := statSum s f all
                      let g := statSum { s with freeCtr := s.freeCtr + 1 } f ((List.range (collN b)).map (elemAt sz out))
                      s.updEngine p.2.1 p.2.2.1 fun x => { x with stats := ((m.seq, m.ctx, l, g) :: x.stats).take 16 }
                    else s
                  advanceCmd s p.2.1 p.2.2.1 m (m.total - m.done)) s

/-- L and G that a ticket of a context names in a cluster: of a done STATS collective among its engine's last 16, else all ones (R429). -/
def statPair (s : State) (cl ctx : Nat) (t : Word) : Addr × Addr :=
  match (s.engine cl (t.toNat % 256)).stats.find? fun y => y.1 == (t.extractLsb' 8 24 : BitVec 24) && y.2.1 == ctx with
  | some y => if t.toNat % 256 < 4 then y.2.2 else (BitVec.allOnes 64, BitVec.allOnes 64)
  | none => (BitVec.allOnes 64, BitVec.allOnes 64)

/-- CSTAT (R429): the statistics of a done STATS collective of the last 16, else all ones. -/
def execCstat (o : Reg2LA) (s : State) : Host.Outcome State Fault Refusal :=
  issue { brk := true } [] s fun w _ =>
    let v := statPair s (clusterOfCore (coreOfKey s.cur.key)) w.ctx (w.sreg o.a)
    .next (s.updSwell s.cur.swell fun w => (w.setSPair o.d v.1).setSPair (o.d + 2) v.2)

/-! ## The step of an engine (R242) -/

/-- What is wrong with a command's block and barrier when it starts (R249, R250). -/
def startReason (s : State) (m : EngCmd) : Nat :=
  let r := match m.kind with
    | .copy => copyReason m.block
    | .gather => gathReason false m.block
    | .scatter => gathReason true m.block
    | .rarith => rarReason m.block
    | .wsend | .wsig => putReason s m
    | .coll => 0
  if r ≠ 0 then r else barReason s m.core m.ctx (cmdBar m.kind m.block)

/-- The next part of the command at the head of an engine's queue. -/
def runCmd (s : State) (cl e : Nat) (m : EngCmd) : State :=
  match m.kind with
  | .copy => copyStep s cl e m
  | .gather | .scatter => if m.idx.length < gathN m.block then indexStep s cl e m else gathStep s cl e m
  | .rarith => rarStep s cl e m
  | .wsend | .wsig => putStep s cl e m
  | .coll => collJoin s cl e m

/-- ENGINE_STEP (R242, R251): puts whose acknowledgement waits for the counter's page go first; then the oldest command that the engine has not passed on starts when the scoreboard allows it, and moves on by up to 64 bytes or one element. -/
def execEngineStep (cluster engine : Nat) (s : State) : Host.Outcome State Fault Refusal :=
  let s := s.pkg.puts.foldl (fun s x =>
    if x.2.acked && x.2.cluster == cluster && x.2.engine == engine then
      match s.cmdAt cluster engine x.2.seq with
      | some m => if m.stall.isNone then putDone s x.1 x.2 m else s
      | none => s
    else s) s
  .next <|
    match (s.engine cluster engine).cmds.find? fun m => !m.handed with
    | none => s
    | some m =>
      if m.stall.isSome then s
      else
        let r := if m.st == .queued then startReason s m else 0
        if r ≠ 0 then failCmd s cluster engine m r
        else if boardHolds s cluster m then s
        else runCmd s cluster engine m

end Sys2Proof.Machine
end

