-- ==== Sys2Proof/Machine/Footprint.lean ====
section
/-! DEFINITION. The registers an instruction word reads and writes, its class, and the interlock with outstanding long instructions (R65, R66, R70, R71, R80, R81, R167, R188, R189). -/

namespace Sys2Proof.Machine

/-- OP of a word as a number. -/
def opOf (x : Word) : Nat := (x.extractLsb' 25 7).toNat
/-- D, or C of BRA format. -/
def dOf (x : Word) : Nat := (x.extractLsb' 18 7).toNat
/-- A. -/
def aOf (x : Word) : Nat := (x.extractLsb' 11 7).toNat
/-- B, or F of FUN format. -/
def bOf (x : Word) : Nat := (x.extractLsb' 4 7).toNat
/-- X, or F of REGF format. -/
def xOf (x : Word) : Nat := (x.extractLsb' 0 4).toNat

/-- Data registers of a MEM word by SZ (R200). -/
def szRegs (x : Word) : Nat := match (x.extractLsb' 8 3).toNat with | 5 => 2 | 6 => 4 | _ => 1

/-- A word is MMA or MMAZ. -/
def isMma (x : Word) : Bool := opOf x == 0x37 || opOf x == 0x38

/-- Long instructions other than MMA and MMAZ are the memory-class words (R80, R167). -/
def isMem (x : Word) : Bool :=
  let o := opOf x
  decide (0x2E ≤ o) && decide (o ≤ 0x3D) && !isMma x || o == 0x71 || o == 0x72 || o == 0x73 || (decide (0x75 ≤ o) && decide (o ≤ 0x79)) || o == 0x7B

/-- A word is a HINT. -/
def isHint (x : Word) : Bool := opOf x == 0x7F

/-- The instruction after the word begins a region (R47, R219, R320, R337). -/
def breaksRegion (x : Word) : Bool :=
  match opOf x with
  | 0x32 => 1 ≤ bOf x % 8 && bOf x % 8 ≤ 4
  | 0x33 | 0x34 | 0x36 | 0x39 | 0x73 | 0x76 => true
  | 0x3B => bOf x == 0 || bOf x == 2
  | 0x77 => bOf x ≤ 2
  | 0x78 => bOf x ≤ 4
  | 0x79 => bOf x == 0
  | _ => false

/-- Words that wait for every outstanding long instruction of their fragment (R71): SPLIT, FUSE, GSYS and those after which a region begins (log 35). -/
def waitsAll (x : Word) : Bool := opOf x == 0x6E || opOf x == 0x6F || opOf x == 0x70 || breaksRegion x

/-- The lane-scope opcode whose group mirror a word is (R80). -/
def laneOp (o : Nat) : Nat := if 0x40 ≤ o ∧ o ≤ 0x68 then o - 0x40 else o

/-- Lane selection of a word: its PM field, or PMX (R5, R68, R76). -/
def wordPm (f : Frag) (x : Word) : Pm :=
  let o := opOf x
  if o ≤ 0x2D ∧ o ≠ 0x16 ∧ o ≠ 0x25 ∧ o ≠ 0x29 ∧ o ≠ 0x2A ∧ o ≠ 0x2B then Pm.ofBits (x.extractLsb' 0 2) else f.pmx

/-- Registers read besides D, registers of D, in one file: for the short lane forms and their group mirrors. A word that writes D conflicts as if it read it. -/
def shortRegs (x : Word) : List Nat × List Nat :=
  let o := laneOp (opOf x)
  let d := dOf x
  if o = 0x1D then ([], [d])
  else if o = 0x16 then ([aOf x, bOf x], if xOf x = 8 ∨ xOf x = 9 then [d, d + 1] else [d])
  else if o = 0x17 ∨ o = 0x26 ∨ o = 0x28 ∨ (0x18 ≤ o ∧ o ≤ 0x1E) then ([aOf x], [d])
  else ([aOf x, bOf x], [d])

/-- The registers a word reads and writes (R66, R70). Words that wait for everything outstanding need none. -/
def footOf (w : Swell) (f : Frag) (x : Word) : Foot × Foot :=
  let o := opOf x
  let d := dOf x
  let a := aOf x
  let b := bOf x
  let pm := pmRegs (wordPm f x)
  let sb := (w.sreg (BitVec.ofNat 7 b)).toNat
  match o with
  | 0x2A => if xOf x = 0 then (⟨[a, b], pm⟩, ⟨[d], []⟩) else (⟨[a], pm⟩, ⟨[d], []⟩)
  | 0x2B =>
    match xOf x with
    | 0 => (⟨[a], b :: pm⟩, ⟨[d], []⟩)
    | 1 => (⟨[a], b :: pm⟩, ⟨[], [d]⟩)
    | 2 => (⟨[], a :: b :: pm⟩, ⟨[d], []⟩)
    | 3 => (⟨[a], pm⟩, ⟨[], [d]⟩)
    | 4 => (⟨[], a :: pm⟩, ⟨[d], []⟩)
    | 5 => (⟨[a + sb], b :: pm⟩, ⟨[d], []⟩)
    | _ => (⟨[a], b :: pm⟩, ⟨[d + sb], []⟩)
  | 0x2D => if b = 4 then (⟨[], pm⟩, ⟨[d], []⟩) else if b = 5 then (⟨[a], pm⟩, ⟨[], []⟩) else (⟨[a], pm⟩, ⟨[d], []⟩)
  | 0x2E => (⟨regsFrom a 2, pm⟩, ⟨regsFrom d (szRegs x), []⟩)
  | 0x2F => (⟨regsFrom a 2 ++ regsFrom d (szRegs x), pm⟩, ⟨[], []⟩)
  | 0x30 => (⟨[a], pm⟩, ⟨regsFrom d (szRegs x), []⟩)
  | 0x31 => (⟨a :: regsFrom d (szRegs x), pm⟩, ⟨[], []⟩)
  | 0x32 =>
    let at_ : Foot := if b.testBit 3 then ⟨[], a :: pm⟩ else ⟨[a], pm⟩
    if b % 8 = 0 then (at_, ⟨[d], []⟩) else (at_, ⟨[], [d]⟩)
  | 0x35 => (⟨regsFrom a 2, pm ++ (match f.hints.mods with | some m => regsFrom m.ts.toNat 2 | none => [])⟩, ⟨regsFrom d (szRegs x), []⟩)
  | 0x37 | 0x38 => (⟨regsFrom a 17 ++ regsFrom b 9, pm⟩, ⟨regsFrom d 16, []⟩)
  | 0x3A => (⟨regsFrom a 2 ++ regsFrom b 2, pm⟩, ⟨regsFrom d 4, []⟩)
  | 0x3B => (⟨regsFrom a 4, pm⟩, ⟨[d], []⟩)
  | 0x3C => (⟨regsFrom a 2 ++ [b], pm⟩, ⟨[d], []⟩)
  | 0x3D => (⟨regsFrom a 2, pm⟩, ⟨[], []⟩)
  | 0x69 | 0x74 | 0x7F => (⟨[], []⟩, ⟨[], []⟩)
  | 0x6A | 0x6B | 0x6D => (⟨[], [d]⟩, ⟨[], []⟩)
  | 0x6C => (⟨[], []⟩, ⟨[], [d]⟩)
  | 0x71 => (⟨[], regsFrom a 2⟩, ⟨[], regsFrom d (szRegs x)⟩)
  | 0x72 => (⟨[], regsFrom a 2 ++ regsFrom d (szRegs x)⟩, ⟨[], []⟩)
  | 0x75 => (⟨[], regsFrom a 2 ++ [d]⟩, ⟨[], []⟩)
  | 0x77 => (⟨[], [a, d]⟩, ⟨[], []⟩)
  | 0x78 | 0x79 => (⟨[], regsFrom a 2⟩, ⟨[], regsFrom d 4⟩)
  | 0x7B => (⟨[], regsFrom a 2 ++ [b]⟩, ⟨[], [d]⟩)
  | _ =>
    let r := shortRegs x
    if 0x40 ≤ o then (⟨[], r.1⟩, ⟨[], r.2⟩) else (⟨r.1, pm⟩, ⟨r.2, []⟩)

/-- Two lists share a register. -/
def meets (a b : List Nat) : Bool := a.any b.contains

/-- Two lists of S registers share one other than S0, which reads as zero and discards writes (R32). -/
def meetsS (a b : List Nat) : Bool := a.any fun r => r != 0 && b.contains r

/-- A word continues the chain of an outstanding MMA or MMAZ: it is the next matrix word, with the same C and shape (R189). -/
def chains (f : Frag) (x : Word) (o : Outst) : Bool :=
  isMma x && match o.kind, f.lastMma with | .mma op, some (c, fmt) => c == dOf x && op.d.toNat == c && op.fmt == fmt | _, _ => false

/-- A word conflicts with an outstanding long instruction (R70). -/
def conflicts (w : Swell) (f : Frag) (x : Word) (o : Outst) : Bool :=
  let (r, t) := footOf w f x
  if chains f x o then meets r.v o.writes.v
  else meets r.v o.writes.v || meetsS r.s o.writes.s || meets t.v (o.reads.v ++ o.writes.v) || meetsS t.s (o.reads.s ++ o.writes.s)

/-- A wait that is under way. -/
def Outst.waits (o : Outst) : Bool := o.fail.isNone && match o.kind with | .wait _ => true | _ => false

/-- An outstanding instruction of a die's core that a word waits for at a blocking point (R61, R199): a wait, or a remote or timed load. -/
def Outst.blocks (d : Nat) (o : Outst) : Bool := o.waits || (o.fail.isNone && match o.kind with | .load x => x.remote d | _ => false)

/-- What the interlock says of a fragment's next word: it goes, or it is held, by a blocking point if one is named. -/
inductive Gate where
  | go
  | held (by_ : Option Outst)
deriving DecidableEq, Repr

/-- The interlock of R70 and R71, and the hold of an acquire on later memory-class words (R198, R283). Only a conflict and a used-up window make a load's wait a blocking point (R199). -/
def gate (w : Swell) (f : Frag) (x : Word) : Gate :=
  let hit (o : Outst) : Bool := (o.window == 0 && !chains f x o) || conflicts w f x o
  if f.outst = [] then .go
  else if f.outst.any hit || f.breakDue || waitsAll x || (isMem x && f.acquiring) then
    .held ((f.outst.find? fun o => hit o && o.blocks (dieOfCore w.core)) <|> f.outst.find? Outst.waits)
  else .go

/-! ## The next word -/

/-- What the next word of a fragment is: a word, a fault of its fetch (R150), a walk to wait for, or nothing yet. -/
inductive NextWord where
  | word (x : Word)
  | fault (r : FaultRec)
  | walk
  | later
deriving DecidableEq, Repr

/-- The SWM copy in which a byte was last written and is still dirty, of whichever die. -/
def dirtySwm (s : State) (a : Nat) : Option CacheLine :=
  s.dies.foldl (fun b x =>
    match x.2.partition.find? fun y => y.line == a / 256 && y.cls == .swm && y.dirty.getLsbD (a % 256), b with
    | some y, some z => if z.wtime ≤ y.wtime then some y else some z
    | some y, none => some y
    | none, b => b) none

/-- A byte that a fetch sees: of an SWM page the latest one that a die's copy still has to carry home, else as the latest write performed for every die left it (R67, R347); never a clean copy, which may be older. -/
def fetchByte (s : State) (l : Loc) (a : Nat) : Byte :=
  match if l.cls == .swm then dirtySwm s a else none with
  | some x => byteAt x.data (a % 256)
  | none => coherentByte s a

/-- The four bytes of an instruction word, little-endian (R64, R67). -/
def fetchWord (s : State) (l : Loc) : Word :=
  wordOfList (if l.host then readBytes s.hostMem l.pa 4 else (List.range 4).map fun i => fetchByte s l (l.pa + i))

/-- The word at the PC of a fragment (R64, R67, R150): an engine's exclusive line, a shelf bank in refresh, a channel that is copied or a host link that is down makes it wait (R254, R277, R418); bytes with an uncorrectable error take DATA. -/
def nextWord (s : State) (id : FragId) (w : Swell) (f : Frag) : NextWord :=
  match laneXlat s (coreOfKey id.key) w.ctx (f.priv != 0) .fetch f ⟨0, f.pc.setWidth 64, 4⟩ with
  | .bad code v => .fault ⟨code, v, 0, false, true⟩
  | .miss => .walk
  | .ok l =>
    if l.host then (if hostUp s w.ctx then .word (fetchWord s l) else .later)
    else if lineHeld s (l.pa / 256) || bankWait s l != 0 then .later
    else if badBytes s l 4 then .fault ⟨.data, f.pc.setWidth 64, 0, false, true⟩
    else .word (fetchWord s l)

end Sys2Proof.Machine
end

