-- ==== Sys2Proof/Machine/Control.lean ====
section
/-! DEFINITION. Branches, SPLIT, FUSE and EXIT, format and configuration, regions and continuations, traps and the return from the handler, system registers and TLBI (R42 to R47, R53, R146 to R166), the HINT words (R73 to R78) and the words that are no instruction (R86). -/

namespace Sys2Proof.Machine

/-! ## HINT words -/

/-- Two HINTs of one kind (R74). -/
def HintWord.sameKind : HintWord → HintWord → Bool
  | .wide _, .wide _ => true
  | .mods _, .mods _ => true
  | .sched _, .sched _ => true
  | _, _ => false

/-- A HINT issues by itself, so the wait age restarts, and joins the unit; a second one of its kind takes ILLEGAL (R73, R74, R169). -/
def issueHint (h : HintWord) (s : State) : Host.Outcome State Fault Refusal :=
  match s.fragAt s.cur with
  | none => .fault .noFragment
  | some (_, f) =>
    if f.st ≠ 0 ∧ f.st ≠ 5 then .fault .noFragment
    else if f.hints.words.any fun x => x.sameKind h then
      .next ((Done.fault s (plainFault .illegal (h.word.setWidth 64))).settle s.cur {} f.pc)
    else .next (s.updFrag s.cur fun f => { f with hints := ⟨some f.unitPc, f.hints.words ++ [h]⟩, pc := nextPc f.pc, age := 0 })

/-- HINT_WIDE_IMMEDIATE (R75). -/
def execHintWideImmediate (p : BitVec 23) (s : State) : Host.Outcome State Fault Refusal := issueHint (.wide p) s

/-- HINT_MODIFIERS (R76). -/
def execHintModifiers (o : ModHint) (s : State) : Host.Outcome State Fault Refusal := issueHint (.mods o) s

/-- HINT_SCHEDULING (R78). -/
def execHintScheduling (o : SchedHint) (s : State) : Host.Outcome State Fault Refusal := issueHint (.sched o) s

/-- NON_INSTRUCTION_WORD (R74, R86): ILLEGAL with FVAL the word, FPC the first HINT of the unit. -/
def execNonInstructionWord (x : Word) (s : State) : Host.Outcome State Fault Refusal :=
  match s.fragAt s.cur with
  | none => .fault .noFragment
  | some (_, f) =>
    if f.st ≠ 0 ∧ f.st ≠ 5 then .fault .noFragment
    else .next ((Done.fault s (plainFault .illegal (x.setWidth 64))).settle s.cur {} f.pc)

/-! ## Branches -/

/-- T of R148: PC plus four times the offset, within the window. -/
def branchTarget (f : Frag) (off : BitVec 18) (wide : Option (BitVec 23)) : Pc := windowJoin f.pc (f.pc.setWidth 32 + branchOffset off wide)

/-- BRA (R148). -/
def execBra (off : BitVec 18) (s : State) : Host.Outcome State Fault Refusal :=
  issue { wide := true } [] s fun _ f => .jump s (branchTarget f off f.hints.wide)

/-- BRZ (R148). -/
def execBrz (o : BranchOp) (s : State) : Host.Outcome State Fault Refusal :=
  issue { wide := true } [] s fun w f => if w.sreg o.c = 0 then .jump s (branchTarget f o.off f.hints.wide) else .next s

/-- BRNZ (R148). -/
def execBrnz (o : BranchOp) (s : State) : Host.Outcome State Fault Refusal :=
  issue { wide := true } [] s fun w f => if w.sreg o.c ≠ 0 then .jump s (branchTarget f o.off f.hints.wide) else .next s

/-- CALL (R148): the link is bits 31:0 of the address after the CALL. -/
def execCall (o : BranchOp) (s : State) : Host.Outcome State Fault Refusal :=
  issue { wide := true } [] s fun _ f =>
    .jump (s.updSwell s.cur.swell fun w => w.setS o.c (f.pc.setWidth 32 + 4)) (branchTarget f o.off f.hints.wide)

/-- JMPX (R148). -/
def execJmpx (r : Reg) (s : State) : Host.Outcome State Fault Refusal :=
  issue {} [] s fun w f =>
    let t := windowJoin f.pc (w.sreg r)
    if (w.sreg r).extractLsb' 0 2 ≠ 0 then .fault s (plainFault .align (t.setWidth 64)) else .jump s t

/-! ## SPLIT, FUSE and EXIT -/

/-- ILLEGAL with FVAL an instruction's own word. -/
def illegalWord (s : State) (x : Word) : Done := .fault s (plainFault .illegal (x.setWidth 64))

/-- Keys of the held sections, rising (R299). -/
def Frag.heldKeys (f : Frag) : List Addr := (if f.held0.valid then [f.held0.key] else []) ++ (if f.held1.valid then [f.held1.key] else [])

/-- The lower of the held keys. -/
def Frag.heldLow (f : Frag) : Option Addr :=
  match f.heldKeys with
  | [] => none
  | [k] => some k
  | k :: j :: _ => some (if j.ult k then j else k)

/-- A SPLIT that divides the fragment in entry e (R42): the new entry takes `take` and the target, both begin regions, the splitting fragment first. None when no entry is free. -/
def Swell.split (w : Swell) (e : Nat) (take : Word) (target recon : Pc) (now : Nat) : Option Swell :=
  match (List.range 8).find? fun i => !(w.ent i).valid with
  | none => none
  | some c =>
    let x := w.ent e
    let child : Frag :=
      { Frag.free with
        valid := true, st := 0, pc := target, mask := take, fmt := x.fmt, priv := x.priv, readyAt := now
        orecon := x.recon, osfmt := x.sfmt, opart := x.part, onew := x.new
        recon := recon, sfmt := x.fmt, part := BitVec.ofNat 3 e, new := true }
    let own : Frag := { (x.afterUnit now (nextPc x.pc)) with mask := x.mask &&& ~~~take, recon := recon, sfmt := x.fmt, part := BitVec.ofNat 3 c, new := false }
    some ((((w.setEnt c child).setEnt e own).newRegion e).newRegion c)

/-- The outer partner q that the survivor's PART names, when it is another entry in use, names the survivor in its own PART, whatever that held (R43, R44; log 62). -/
def Swell.renameOuter (w : Swell) (q si : Nat) : Swell :=
  if q ≠ si ∧ (w.ent q).valid then w.setEnt q { w.ent q with part := BitVec.ofNat 3 si } else w

/-- merge(x, y) of R43 at FUSE address a: the entry that holds the outer record, the survivor, and the region it begins. -/
def Swell.merge (w : Swell) (x y : Nat) (a : Pc) (now : Nat) : Swell :=
  let fx := w.ent x
  let fy := w.ent y
  let n := if fx.new then fx else fy
  let sx : Bool := if fx.live && fy.live then !fx.new else fx.live
  let (si, oi) := if sx then (x, y) else (y, x)
  let sf := w.ent si
  let m : Frag := { sf with mask := fx.mask ||| fy.mask, fmt := sf.sfmt, recon := n.orecon, sfmt := n.osfmt, part := n.opart, new := n.onew,
                            pc := nextPc a, st := 0, wkind := 0, redo := [], hints := ⟨none, []⟩, age := 0, walkWait := [], walkFail := [], readyAt := now, lastMma := none }
  ((((w.setEnt si m).setEnt oi Frag.free).renameOuter m.part.toNat si).newRegion si)

/-- FUSE reached by the fragment in entry e at its reconvergence address: it waits, and merges with a partner that is there or has exited (R43). -/
def Swell.fuse (w : Swell) (e : Nat) (a : Pc) (now : Nat) : Swell :=
  let x := w.ent e
  let w := w.setEnt e { x with st := 2, age := 0, hints := ⟨none, []⟩ }
  let p := x.part.toNat
  let fp := w.ent p
  if p ≠ e ∧ fp.valid ∧ fp.part.toNat = e ∧ ((fp.st = 2 ∧ fp.recon = a) ∨ fp.st = 3) then w.merge e p a now else w

/-- What follows an exit of entry x (R44): a partner waiting at its FUSE merges, two exited partners collapse and the outer level is looked at. -/
def Swell.exitFrom (w : Swell) (now : Nat) : Nat → Nat → Swell
  | 0, _ => w
  | fuel + 1, x =>
    let fx := w.ent x
    let p := fx.part.toNat
    let fp := w.ent p
    if p = x ∨ !fp.valid ∨ fp.part.toNat ≠ x then w
    else if fp.st = 2 ∧ fp.recon = fp.pc then w.merge p x fp.pc now
    else if fp.st ≠ 3 then w
    else
      let n := if fx.new then fx else fp
      let (si, oi) := if fx.new then (p, x) else (x, p)
      let m : Frag := { w.ent si with recon := n.orecon, sfmt := n.osfmt, part := n.opart, new := n.onew }
      (((w.setEnt si m).setEnt oi Frag.free).renameOuter m.part.toNat si).exitFrom now fuel si

/-- SPLIT (R42, R152, R153): the target is the unhinted offset, the HINT's payload the reconvergence offset; both wrap within the 4 GiB window, which R148 writes for branch targets only (log 69). -/
def execSplit (o : BranchOp) (s : State) : Host.Outcome State Fault Refusal :=
  issue { wide := true } [] s fun w f =>
    let target := branchTarget f o.off none
    let recon : Pc := match f.hints.wide with
      | some p => if p = 0 then 0 else windowJoin f.pc (f.pc.setWidth 32 + p.signExtend 32 * 4)
      | none => 0
    let take := w.sreg o.c &&& f.mask
    if f.priv ≠ 0 then illegalWord s (packBra 0x6E o.c o.off)
    else if take = 0 then .next s
    else if take = f.mask then .jump s target
    else match w.split s.cur.ent take target recon s.now with
      | none => .fault s (plainFault .splitovf (target.setWidth 64))
      | some w => .whole ((s.updSwell s.cur.swell fun _ => w).latchWhole s.cur)

/-- FUSE (R43, R152, R153): a fragment that waits there takes a pending asynchronous fault at once (R154). -/
def execFuse (s : State) : Host.Outcome State Fault Refusal :=
  issue {} [] s fun w f =>
    if f.priv ≠ 0 then illegalWord s (packBra 0x6F 0 0)
    else if f.recon = 0 ∨ f.recon ≠ f.pc then .next s
    else match f.heldLow with
      | some k => .fault s (plainFault .sectstate k)
      | none => .whole (((s.updSwell s.cur.swell fun _ => w.fuse s.cur.ent f.pc s.now).latchWhole s.cur).lookPending s.cur.swell)

/-- The fragment in entry e exits (R44): its lanes retire and it is merged or collapsed with its partner. -/
def Swell.exit (w : Swell) (e : Nat) (now : Nat) : Swell :=
  (w.setEnt e { w.ent e with mask := 0, st := 3, priv := 0, hints := ⟨none, []⟩, age := 0, outst := [], wait := none, lastMma := none }).exitFrom now 8 e

/-- EXIT (R44, R160): in supervisor privilege a held fault is then taken as at ERET, and a pending asynchronous one is looked at (R60). -/
def execExit (s : State) : Host.Outcome State Fault Refusal :=
  issue {} [] s fun w f =>
    match f.heldLow with
    | some k => .fault s (plainFault .sectstate k)
    | none =>
      let w' := w.exit s.cur.ent s.now
      let s := s.updSwell s.cur.swell fun _ => if f.priv ≠ 0 then { w' with busy := false } else w'
      if w'.liveEnts = [] then .whole (s.endSwell s.cur.swell)
      else
        let s := (s.reorderCheck (coreOfKey s.cur.key) w.launch).latchWhole s.cur
        .whole ((if f.priv ≠ 0 then s.takeHeld s.cur.swell else s).lookPending s.cur.swell)

/-! ## Format, configuration and priority (R157, R158) -/

/-- SETF (R157). -/
def execSetf (r : Reg) (s : State) : Host.Outcome State Fault Refusal :=
  issueSwell {} [] s fun w f => w.setEnt s.cur.ent { f with fmt := (w.sreg r).setWidth 12 }

/-- GETF (R157). -/
def execGetf (r : Reg) (s : State) : Host.Outcome State Fault Refusal :=
  issueSwell {} [] s fun w f => w.setS r (f.fmt.setWidth 32)

/-- SETC (R35, R157): flags that instructions have raised in this tick stay. -/
def execSetc (r : Reg) (s : State) : Host.Outcome State Fault Refusal :=
  issueSwell {} [] s fun w _ => { w with scfg := ((w.sreg r).setWidth 7).setWidth 32 ||| w.raised }

/-- GETC (R157). -/
def execGetc (r : Reg) (s : State) : Host.Outcome State Fault Refusal :=
  issueSwell {} [] s fun w _ => w.setS r ((w.scfg.setWidth 7).setWidth 32)

/-- SETPRI (R157). -/
def execSetpri (r : Reg) (s : State) : Host.Outcome State Fault Refusal :=
  issueSwell {} [] s fun w _ => { w with pri := ((w.sreg r).setWidth 3).setWidth 32 }

/-- YIELD (R158): the fragment counts as one that has just become ready. -/
def execYield (s : State) : Host.Outcome State Fault Refusal :=
  issueSwell {} [] s fun w f => w.setEnt s.cur.ent { f with readyAt := s.now }

/-- NOP (R158). -/
def execNop (s : State) : Host.Outcome State Fault Refusal := issueSwell {} [] s fun w _ => w

/-! ## Regions and continuations (R53, R159) -/

/-- REGION (R159): the next instruction begins a region. -/
def execRegion (s : State) : Host.Outcome State Fault Refusal := issueSwell { brk := true } [] s fun w _ => w

/-- CONT holds a word-aligned offset (R37). -/
def contWord (x : Word) : Word := x &&& ~~~3#32

/-- CONT (R159). -/
def execCont (r : Reg) (s : State) : Host.Outcome State Fault Refusal :=
  issueSwell {} [] s fun w _ => { w with cont := contWord (w.sreg r) }

/-- The fragment leaves its continuation: refusals that its code there still had are over (R52). -/
def Frag.leaveCont (f : Frag) : Frag := { f with inCont := false, contAsk := none, denied := f.denied.filter fun x => !x.inCont }

/-- RESUME (R53, R156, R159): user privilege only. -/
def execResume (r : Reg) (s : State) : Host.Outcome State Fault Refusal :=
  issue { brk := true } [] s fun w f =>
    let t : Pc := w.window ++ w.sreg r
    if f.priv ≠ 0 then illegalWord s (packReg 0x70 0 r 9 0)
    else if (w.sreg r).extractLsb' 0 2 ≠ 0 then .fault s (plainFault .align (t.setWidth 64))
    else .jump (s.updSwell s.cur.swell fun w => { w with contMark := false }.setEnt s.cur.ent (w.ent s.cur.ent).leaveCont) t

/-! ## Traps (R161, R162) -/

/-- TRAP (R161). -/
def execTrap (imm : BitVec 14) (s : State) : Host.Outcome State Fault Refusal :=
  issue {} [] s fun _ _ => .fault s (plainFault .trap (imm.setWidth 64))

/-- BKPT (R161). -/
def execBkpt (s : State) : Host.Outcome State Fault Refusal := issue {} [] s fun _ _ => .fault s (plainFault .bkpt 0)

/-- ERET (R162): supervisor privilege. -/
def execEret (s : State) : Host.Outcome State Fault Refusal :=
  issue {} [] s fun _ f => if f.priv = 0 then illegalWord s (packReg 0x70 0 0 13 0) else .whole ((s.returnHandler s.cur).latchWord s.cur {})

/-! ## System registers (R163, R164) -/

/-- The wake word of a slot: tag and value (R52). -/
def wakeWord (s : State) (key : Nat) : Bool × Word :=
  let c := s.core (coreOfKey key)
  let off := wakeOffset c (slotOfKey key)
  (c.full.contains (off / 4), wordOfList (readBytes c.scratch off 4))

/-- The swell status word of image offset 0x010 (R62). -/
def statusWord (w : Swell) (full : Bool) (v : Word) : Word :=
  BitVec.ofNat 32 ((if w.contMark then 1 else 0) + (if w.busy then 2 else 0) + w.busyEnt.toNat * 4 + (if full then 32 else 0) + v.toNat % 4 * 64)

/-- The pending-fault word of image offset 0x01C (R62). -/
def pendWord (p : Pending) : Word :=
  BitVec.ofNat 32 ((if p.late then 1 else 0) + (if p.engine then 2 else 0) + p.count.toNat * 256 + (if p.late then p.target.toNat else p.engineTarget.toNat) * 65536)

/-- The value of a system register for a fragment, where its privilege may read it (R164). -/
def sysRead (s : State) (id : FragId) (w : Swell) (f : Frag) (n : Nat) : Option Word :=
  let k := coreOfKey id.key
  let c := s.core k
  match n with
  | 0x00 => some w.fcause
  | 0x01 => some w.frec
  | 0x02 => some (loWord w.fpc)
  | 0x03 => some (hiWord w.fpc)
  | 0x04 => some (loWord w.fval)
  | 0x05 => some (hiWord w.fval)
  | 0x06 => if f.priv = 0 then none else some (loWord (s.ctx w.ctx).fvec)
  | 0x07 => if f.priv = 0 then none else some (hiWord (s.ctx w.ctx).fvec)
  | 0x08 => some w.cont
  | 0x09 => some w.region
  | 0x0A => some (f.rep.setWidth 32)
  | 0x0B => some ((f.rep.extractLsb' 32 24).setWidth 32)
  | 0x0C => some f.mask
  | 0x0D => some (BitVec.ofNat 32 id.ent)
  | 0x0E => some (BitVec.ofNat 32 (slotOfKey id.key))
  | 0x0F => some (statusWord w (wakeWord s id.key).1 (wakeWord s id.key).2)
  | 0x10 => some (f.priv.setWidth 32)
  | 0x11 => some (BitVec.ofNat 32 w.ctx)
  | 0x12 => some (coreCoords k)
  | 0x13 => some c.bndReg
  | 0x14 => some c.bndScr
  | 0x15 => some c.bndTop
  | 0x16 => some (pendWord w.pend)
  | 0x17 => some (loWord w.pend.tide)
  | 0x18 => some (hiWord w.pend.tide)
  | 0x19 => some (BitVec.ofNat 32 w.n)
  | 0x1A => some (w.window.setWidth 32)
  | _ => none

/-- The bits of FPC and FVEC that exist: 55:2 (R164). -/
def pcBits (x : Addr) : Addr := x &&& 0x00FFFFFFFFFFFFFC#64

/-- A write of a system register, where the privilege may write it (R164). -/
def sysWrite (s : State) (id : FragId) (w : Swell) (f : Frag) (n : Nat) (x : Word) : Option State :=
  match n with
  | 0x02 => if f.priv = 0 then none else some (s.updSwell id.swell fun w => { w with fpc := pcBits (hiWord w.fpc ++ x) })
  | 0x03 => if f.priv = 0 then none else some (s.updSwell id.swell fun w => { w with fpc := pcBits (x ++ loWord w.fpc) })
  | 0x06 => if f.priv = 0 then none else some (s.updCtx w.ctx fun c => c.setFvec s.now (hiWord c.fvec ++ x))
  | 0x07 => if f.priv = 0 then none else some (s.updCtx w.ctx fun c => c.setFvec s.now (x ++ loWord c.fvec))
  | 0x08 => some (s.updSwell id.swell fun w => { w with cont := contWord x })
  | _ => none

/-- SRD (R163): a number not listed, or not readable at this privilege, takes ILLEGAL. -/
def execSrd (o : SrdOp) (s : State) : Host.Outcome State Fault Refusal :=
  issue {} [] s fun w f =>
    match sysRead s s.cur w f o.n.toNat with
    | some x => .next (s.updSwell s.cur.swell fun w => w.setS o.d x)
    | none => illegalWord s (packReg 0x70 o.d o.n 10 0)

/-- SWR (R163): a number not listed, or not writable at this privilege, takes ILLEGAL. -/
def execSwr (o : SwrOp) (s : State) : Host.Outcome State Fault Refusal :=
  issue {} [] s fun w f =>
    match sysWrite s s.cur w f o.n.toNat (w.sreg o.a) with
    | some s => .next s
    | none => illegalWord s (packReg 0x70 o.n o.a 11 0)

/-! ## TLBI (R165, R166) -/

/-- Whether a removal concerns a TLB entry: the page of an address, or every page of the context. -/
def tlbiHits (ctx : Nat) (va : Option Addr) (t : TlbEnt) : Bool :=
  t.ctx == ctx && (match va with | some a => t.covers ctx a.toNat | none => true)

/-- Whether a removal concerns a walker's entry. -/
def tlbiHitsWalk (ctx : Nat) (va : Option Addr) (t : WalkEnt) : Bool :=
  t.ctx == ctx && (match va with | some a => t.top == a.toNat / 2 ^ levelShift t.level | none => true)

/-- The size exponent of the page that is removed: 25 when a TLB of the package holds a 32 MiB translation of the address, else 16. -/
def removedSpan (s : State) (ctx : Nat) (va : Option Addr) : Nat :=
  let big (t : TlbEnt) : Bool := t.big && tlbiHits ctx va t
  if s.cores.any (fun x => x.2.tlb.any big) || s.clusters.any (fun x => x.2.tlb.any big) then 25 else 16

/-- Whether an access is to the removed page of a size exponent. -/
def tlbiHitsVa (span : Nat) (va : Option Addr) (x : Addr) : Bool :=
  match va with | some a => x.toNat / 2 ^ span == a.toNat / 2 ^ span | none => true

/-- Whether an outstanding instruction has lanes not performed at addresses. -/
def outstHits (hit : Addr → Bool) (o : Outst) : Bool :=
  match o.kind with
  | .load x => x.lanes.any fun l => !x.has l.lane && hit l.va
  | .wait (.value _ _ _ ls) => ls.any fun l => l.got.isNone && hit l.va
  | _ => false

/-- The outstanding instructions of the context's swells with lanes not performed at addresses: swell and identity. -/
def tlbiOps (s : State) (ctx : Nat) (hit : Addr → Bool) : List (Nat × Nat) :=
  s.swells.flatMap fun x => if x.2.ctx == ctx then x.2.ents.toList.flatMap fun f => (f.outst.filter (outstHits hit)).map fun o => (x.2.uid, o.id) else []

/-- A write-back of the context still waits at its home. -/
def mergesOf (s : State) (ctx : Nat) : Bool := s.msgs.any fun x => x.2.ctx == ctx && match x.2.kind with | .merge _ _ => true | _ => false

/-- Whether every access of the context that a removed entry translated has been performed (R165); what was translated since does not count. -/
def tlbiQuiet (s : State) (ctx : Nat) (t : TlbiWait) (hit : Addr → Bool) : Bool :=
  !((tlbiOps s ctx hit).any t.ops.contains)
    && !(s.msgs.any fun x => decide (x.1 < t.mark) && x.2.ctx == ctx && hit x.2.va && match x.2.kind with | .merge _ _ => false | _ => true)

/-- Remove translations everywhere, those that the host has given among them (R165, R412). -/
def tlbiRemove (s : State) (ctx : Nat) (va : Option Addr) : State :=
  { s with
    cores := s.cores.map fun (x : Nat × Core) => (x.1, { x.2 with tlb := x.2.tlb.filter fun t => !tlbiHits ctx va t })
    clusters := s.clusters.map fun (x : Nat × Cluster) => (x.1, { x.2 with tlb := x.2.tlb.filter fun t => !tlbiHits ctx va t })
    dies := s.dies.map fun (x : Nat × Die) => (x.1, { x.2 with walkCache := x.2.walkCache.filter fun t => !tlbiHitsWalk ctx va t }) }.updCtx ctx fun c =>
      { c with ats := match va with | some a => c.ats.filter fun x => x.1 != pageOf a | none => [] }

/-- Stores of a context that caches hold are performed at their homes: those in the L1s of its cores, and the SWM copies of a die (R165, R344). -/
def flushStores (s : State) (ctx d : Nat) : State :=
  partsClean (s.cores.foldl (fun s x => if x.2.ctx == some ctx then l1Release s x.1 fun _ => true else s) s) d

/-- The L1s of a context's cores and the SWM copies of every die give up what they hold, so that a load translated after a TLBI returns nothing older than the home has (R351). -/
def freshCopies (s : State) (ctx : Nat) : State :=
  let s := s.cores.foldl (fun s x => if x.2.ctx == some ctx then l1FlushAll s x.1 else s) s
  s.dies.foldl (fun s x => (x.2.partition.filter fun y => y.cls == .swm).foldl (fun s y => partEvict s x.1 y) s) s

/-- TLBI behind its removal (R165): it completes when every access under a removed entry has been performed. -/
def tlbiWait (s : State) (id : FragId) (ctx : Nat) (va : Option Addr) (t : TlbiWait) : Done :=
  if tlbiQuiet s ctx t (tlbiHitsVa t.span va) then .next (freshCopies s ctx) else .stall (s.updFrag id fun f => { f with tlbi := some t })

/-- TLBI (R165): the fragment's earlier accesses are performed at their homes first, then the translations are removed, once; it waits until no access under a removed entry is left. -/
def tlbi (s : State) (id : FragId) (f : Frag) (ctx : Nat) (va : Option Addr) : Done :=
  match f.tlbi with
  | some t => tlbiWait s id ctx va t
  | none =>
    if !relReady s id f then .stall s
    else
      let s := flushStores s ctx (dieOfKey id.key)
      if mergesOf s ctx then .stall s
      else
        let span := removedSpan s ctx va
        let s := tlbiRemove s ctx va
        tlbiWait s id ctx va ⟨span, tlbiOps s ctx (tlbiHitsVa span va), s.nextMsg⟩

/-- TLBI_PAGE (R165): supervisor privilege. -/
def execTlbiPage (r : Reg) (s : State) : Host.Outcome State Fault Refusal :=
  issue {} [] s fun w f =>
    let va := w.spair r
    if f.priv = 0 then illegalWord s (packReg 0x70 0 r 16 0)
    else if va.extractLsb' 56 8 ≠ 0 then .fault s (plainFault .align va)
    else tlbi s s.cur f w.ctx (some va)

/-- TLBI_CTX (R165): supervisor privilege. -/
def execTlbiCtx (s : State) : Host.Outcome State Fault Refusal :=
  issue {} [] s fun w f => if f.priv = 0 then illegalWord s (packReg 0x70 1 0 16 0) else tlbi s s.cur f w.ctx none

end Sys2Proof.Machine
end

