-- ==== Sys2Proof/Machine/Raster.lean ====
section
/-! DEFINITION. Exact arithmetic of the render pipeline: bounding boxes, coverage, weights and depths of primitives, the texels and weights of a texture read, and UNORM conversion (R320, R324, R327, R333, R335). Pure functions. -/

namespace Sys2Proof.Machine

/-- Round to nearest even, no saturation, no flush. -/
def rneEnv : FEnv := ⟨.rne, false, false⟩

/-- round_fp32 under RNE of (v / q) · 2^e, for v not 0 and q below 2^64. -/
def roundRatio (v : Int) (q : Nat) (e : Int) : Word :=
  BitVec.ofNat 32 (finish .fp32 rneEnv ⟨decide (v < 0), v.natAbs * 2 ^ 128 / q, e - 128, v.natAbs * 2 ^ 128 % q != 0⟩).1

/-! ## Primitives -/

/-- A coordinate in units of 1/256 of a pixel (R319). -/
def coord (x : Word) : Int := x.toInt
/-- The coordinate is a 16.8 value: bits 31:24 copy bit 23 (R319). -/
def coordOk (x : Word) : Bool := (x.setWidth 24).signExtend 32 == x

/-- A finite FP32 word. -/
def finiteWord (z : Word) : Bool := match fp32 z with | .fin _ _ _ => true | _ => false

/-- The edge function of a point for the edge from a to b. -/
def edgeFn (ax ay bx by' px py : Int) : Int := (bx - ax) * (py - ay) - (by' - ay) * (px - ax)

/-- Twice the signed area of a primitive. -/
def primArea (p : Prim) : Int := edgeFn (coord p.v0.x) (coord p.v0.y) (coord p.v1.x) (coord p.v1.y) (coord p.v2.x) (coord p.v2.y)

/-- First and last pixel of a bounding box along one axis, before clipping (R320). -/
def boxSpan (a b c : Int) : Int × Int :=
  let lo := min a (min b c)
  let hi := max a (max b c)
  let first := lo / 256
  (first, max first ((hi + 255) / 256 - 1))

/-- The bounding box clipped to a screen (R320): first and last column, first and last row; none when it misses. -/
def primBox (p : Prim) (width height : Nat) : Option (Nat × Nat × Nat × Nat) :=
  let (x0, x1) := boxSpan (coord p.v0.x) (coord p.v1.x) (coord p.v2.x)
  let (y0, y1) := boxSpan (coord p.v0.y) (coord p.v1.y) (coord p.v2.y)
  if x1 < 0 ∨ (width : Int) ≤ x0 ∨ y1 < 0 ∨ (height : Int) ≤ y0 then none
  else some ((max x0 0).toNat, (min x1 (width - 1)).toNat, (max y0 0).toNat, (min y1 (height - 1)).toNat)

/-- Whether a sample lies inside an edge of a primitive of positive area: strictly, or on a left or a horizontal top edge (R324). -/
def insideEdge (ax ay bx by' px py : Int) : Bool :=
  let e := edgeFn ax ay bx by' px py
  decide (0 < e) || (e == 0 && (decide (by' < ay) || (by' == ay && decide (ax < bx))))

/-- Whether a primitive covers the sample of a pixel (R324). -/
def covers (p : Prim) (x y : Nat) : Bool :=
  let px : Int := 256 * x + 128
  let py : Int := 256 * y + 128
  let edge (a b : Vertex) : Bool := insideEdge (coord a.x) (coord a.y) (coord b.x) (coord b.y) px py
  if 0 < primArea p then edge p.v0 p.v1 && edge p.v1 p.v2 && edge p.v2 p.v0
  else edge p.v0 p.v2 && edge p.v2 p.v1 && edge p.v1 p.v0

/-- Numerators of the weights of vertices 1 and 2 at a pixel's sample, over the magnitude of the area (R324). -/
def weights (p : Prim) (x y : Nat) : Int × Int :=
  let px : Int := 256 * x + 128
  let py : Int := 256 * y + 128
  let sgn : Int := if 0 < primArea p then 1 else -1
  (sgn * edgeFn (coord p.v2.x) (coord p.v2.y) (coord p.v0.x) (coord p.v0.y) px py,
   sgn * edgeFn (coord p.v0.x) (coord p.v0.y) (coord p.v1.x) (coord p.v1.y) px py)

/-- A weight as an FP32 word. -/
def weightWord (p : Prim) (w : Int) : Word := if w = 0 then 0 else roundRatio w (primArea p).natAbs 0

/-- An exact addend of a finite FP32 word times an integer. -/
def scaledTerm (z : Word) (k : Int) : Term :=
  match fp32 z with
  | .fin n m e => ⟨n != decide (k < 0), m * k.natAbs, e⟩
  | _ => ⟨false, 0, 0⟩

/-- The depth of a covered sample (R324). -/
def depthAt (p : Prim) (x y : Nat) : Word :=
  let (w1, w2) := weights p x y
  let w0 := ((primArea p).natAbs : Int) - w1 - w2
  let ts := [scaledTerm p.v0.z w0, scaledTerm p.v1.z w1, scaledTerm p.v2.z w2]
  let e := minExp ts
  let v := sumAt e ts
  if v = 0 then (if p.v0.z = 0x80000000 ∧ p.v1.z = 0x80000000 ∧ p.v2.z = 0x80000000 then 0x80000000 else 0)
  else roundRatio v (primArea p).natAbs e

/-- z is less than w as FCMP.LT compares (R325). -/
def depthLess (z w : Word) : Bool := cmpVal (fp32 z) (fp32 w) == .lt

/-- A colour channel as RGBA8 UNORM (R327): RNE of c · 255, saturated; a NaN gives 0. -/
def unorm8 (c : Word) : Byte :=
  match fp32 c with
  | .nan _ => 0
  | .inf n => if n then 0 else 255
  | .fin n m e => BitVec.ofInt 8 (clampInt 0 255 (roundInt .rne n (m * 255) e).1)

/-! ## Textures (R333) -/

/-- A texture descriptor. -/
structure TexDesc where
  base : Addr
  w : Nat
  h : Nat
  wrapV : Nat
  wrapU : Nat
  bilinear : Bool
  levels : Nat
  fmt : Nat
  border : List Word
deriving DecidableEq, Repr

/-- A number in the bytes of a list. -/
def listNat (bs : List Byte) (off n : Nat) : Nat := natOfBytes ((bs.drop off).take n)

/-- A descriptor from its 64 bytes. -/
def texDesc (bs : List Byte) : TexDesc :=
  let c := listNat bs 0x0C 4
  { base := BitVec.ofNat 64 (listNat bs 0 8), w := listNat bs 8 2, h := listNat bs 10 2, wrapV := c / 4096 % 4, wrapU := c / 1024 % 4,
    bilinear := c / 512 % 2 == 1, levels := c / 16 % 32, fmt := c % 16, border := (List.range 4).map fun i => BitVec.ofNat 32 (listNat bs (16 + 4 * i) 4) }

/-- The descriptor faults of R335: reserved codes, LEVELS, W or H 0, non-zero reserved bits, a BASE that is no multiple of 256. LEVELS above 15 and sizes above 16,384 lie outside their limits (R333). -/
def texDescBad (bs : List Byte) : Bool :=
  let d := texDesc bs
  decide (2 < d.fmt) || d.wrapV == 3 || d.wrapU == 3 || d.levels == 0 || d.w == 0 || d.h == 0 || listNat bs 0x0C 4 / 16384 != 0
    || (bs.drop 0x20).any (fun b => b != 0) || d.base.toNat % 256 != 0

/-- Bytes of a texel. -/
def TexDesc.texel (d : TexDesc) : Nat := if d.fmt = 1 then 16 else 4
/-- Width of a level. -/
def TexDesc.levelW (d : TexDesc) (i : Nat) : Nat := Nat.max 1 (d.w / 2 ^ i)
/-- Height of a level. -/
def TexDesc.levelH (d : TexDesc) (i : Nat) : Nat := Nat.max 1 (d.h / 2 ^ i)
/-- Offset of a level from BASE: the next starts at the first multiple of 256 after the end of the last. -/
def TexDesc.levelOff (d : TexDesc) : Nat → Nat
  | 0 => 0
  | i + 1 => (d.levelOff i + d.levelW i * d.levelH i * d.texel + 255) / 256 * 256

/-- The level of a LOD (R335). -/
def TexDesc.level (d : TexDesc) (lod : Word) : Nat :=
  match fp32 lod with
  | .nan _ => 0
  | .inf n => if n then 0 else d.levels - 1
  | .fin n m e => (clampInt 0 ((d.levels : Int) - 1) (roundInt .rne n m e).1).toNat

/-- One texel that a filter needs: its weight over 2^den, and its place in the level; none reads BORDER. -/
structure Tap where
  weight : Nat
  den : Nat
  place : Option (Nat × Nat)
deriving DecidableEq, Repr

/-- A texel index after wrapping: repeat, clamp or border (R335). -/
def wrapIndex (mode size : Nat) (i : Int) : Option Nat :=
  if mode = 0 then some (i % (size : Int)).toNat
  else if mode = 1 then some (clampInt 0 ((size : Int) - 1) i).toNat
  else if 0 ≤ i ∧ i < (size : Int) then some i.toNat else none

/-- A coordinate times a size, less one half when `half`, in units of 2^-k. -/
def texCoord (c : FVal) (size k : Nat) (half : Bool) : Int :=
  match c with
  | .fin n m e =>
    let v : Int := (m * size * 2 ^ (e + k).toNat : Nat)
    (if n then -v else v) - (if half then 2 ^ (k - 1) else 0)
  | _ => 0

/-- Fraction bits that a coordinate needs. -/
def texBits (c : FVal) : Nat := match c with | .fin _ _ e => Nat.max 1 (-e).toNat | _ => 1

/-- The texels that a filter needs at a level (R335): a texel of weight 0 is not needed; a coordinate that is no number reads BORDER. -/
def TexDesc.taps (d : TexDesc) (lv : Nat) (u v : Word) : List Tap :=
  if !finiteWord u || !finiteWord v then [⟨1, 0, none⟩]
  else
    let w := d.levelW lv
    let h := d.levelH lv
    let k := Nat.max (texBits (fp32 u)) (texBits (fp32 v))
    let x := texCoord (fp32 u) w k d.bilinear
    let y := texCoord (fp32 v) h k d.bilinear
    let s := x / 2 ^ k
    let r := y / 2 ^ k
    let at' (i j : Int) : Option (Nat × Nat) :=
      match wrapIndex d.wrapU w i, wrapIndex d.wrapV h j with
      | some i, some j => some (i, j)
      | _, _ => none
    if !d.bilinear then [⟨1, 0, at' s r⟩]
    else
      let fs := (x % 2 ^ k).toNat
      let fr := (y % 2 ^ k).toNat
      let o := 2 ^ k
      [⟨(o - fs) * (o - fr), 2 * k, at' s r⟩, ⟨fs * (o - fr), 2 * k, at' (s + 1) r⟩,
       ⟨(o - fs) * fr, 2 * k, at' s (r + 1)⟩, ⟨fs * fr, 2 * k, at' (s + 1) (r + 1)⟩].filter fun t => t.weight != 0

/-- Byte offset of a texel from BASE. -/
def TexDesc.texelOff (d : TexDesc) (lv : Nat) (p : Nat × Nat) : Nat := d.levelOff lv + (p.2 * d.levelW lv + p.1) * d.texel

/-- A channel of a texel: an FP32 value, or a byte that stands for c / 255. -/
inductive Chan where
  | f (x : Word)
  | u (c : Byte)
deriving DecidableEq, Repr

/-- The four channels of a texel's bytes (R333): R32F gives (r, 0, 0, 1). -/
def TexDesc.channels (d : TexDesc) (bs : List Byte) : List Chan :=
  if d.fmt = 0 then (bs.take 4).map .u
  else if d.fmt = 1 then (List.range 4).map fun i => .f (BitVec.ofNat 32 (listNat bs (4 * i) 4))
  else [.f (BitVec.ofNat 32 (listNat bs 0 4)), .f 0, .f 0, .f 0x3F800000]

/-- A channel's value. -/
def Chan.val : Chan → FVal
  | .f x => fp32 x
  | .u c => .fin false c.toNat 0

/-- A weighted channel as an exact addend times 255. -/
def Chan.term (c : Chan) (weight den : Nat) : Term :=
  match c with
  | .u b => ⟨false, weight * b.toNat, -(den : Int)⟩
  | .f x => match fp32 x with
    | .fin n m e => ⟨n, weight * m * 255, e - den⟩
    | _ => ⟨false, 0, 0⟩

/-- One filtered channel (R335): specials by R120, else the exact sum rounded once. -/
def mixChannels (cs : List (Nat × Nat × Chan)) : Word :=
  let vals := cs.map fun c => c.2.2.val
  if vals.any FVal.isNan || (vals.any (fun v => v.isInf && v.neg) && vals.any fun v => v.isInf && !v.neg) then 0x7FC00000
  else match vals.find? FVal.isInf with
    | some v => if v.neg then 0xFF800000 else 0x7F800000
    | none =>
      let ts := cs.map fun c => c.2.2.term c.1 c.2.1
      let e := minExp ts
      let v := sumAt e ts
      if v = 0 then (if zeroSign .rne ts then 0x80000000 else 0) else roundRatio v 255 e

end Sys2Proof.Machine
end

