-- ==== Sys2Proof/Machine/Texture.lean ====
section
/-! DEFINITION. TEX and TEXQ, and the re-shade map bit that a missing texel sets (R333 to R336). -/

namespace Sys2Proof.Machine

/-- The frame of the launch of a swell, when it is a render launch. -/
def frameOf (s : State) (w : Swell) : Option Frame := (kvGet s.launches w.launch).bind fun l => l.frame

/-- Change the frame of a launch. -/
def State.updFrame (s : State) (l : Nat) (g : Frame → Frame) : State := s.updLaunch l fun x => { x with frame := x.frame.map g }

/-! ## Reads of a lane -/

/-- One read of TEX: its bytes, a page without a valid resident translation, a fault, or not yet. -/
inductive TexGot where
  | bytes (bs : List Byte) (s : State)
  | absent
  | fault (r : FaultRec)
  | stall (s : State)

/-- A read that no copy serves waits while its home is busy, or the host's links are down (R254, R277, R418). -/
def texHeld (s : State) (ctx c : Nat) (l : Loc) (n : Nat) : Bool :=
  if l.host then !hostUp s ctx else !l1Serves s c l n .normal && !partServes s c l n .normal && homeBusy s l

/-- Read n bytes within a line as a load of the fragment's lane (R335). -/
def texRead (s : State) (w : Swell) (f : Frag) (lane : Nat) (va : Addr) (n : Nat) : TexGot :=
  let c := coreOfKey s.cur.key
  match laneXlat s c w.ctx (f.priv != 0) .tex f ⟨lane, va, 1⟩ with
  | .miss => .stall (startWalk s s.cur w.ctx va)
  | .bad .xlate _ => .absent
  | .bad code v => .fault ⟨code, v, lane, false, false⟩
  | .ok l =>
    if f.acquiring || behindLoads f [⟨lane, va, l⟩] || behindOwn s s.cur s.nextMsg l n || texHeld s w.ctx c l n then .stall s
    else if loadBad s c l n .normal then .fault ⟨.data, va, lane, false, false⟩
    else
      let (bs, s) := coreRead (noteHit s c w.ctx va) w.ctx c l n .normal
      .bytes bs s

/-- What a lane comes to: the four channels, BORDER with the pages that are missing, a fault, or not yet. -/
inductive TexLane where
  | done (ws : List Word) (s : State)
  | missing (border : List Word) (pages : List Nat) (s : State)
  | fault (r : FaultRec)
  | stall (s : State)

/-- The place of a load's fault in the order of R56. -/
def loadRank : FaultCode → Nat
  | .align => 0
  | .xlate => 1
  | .perm => 2
  | .cls => 3
  | .scratch => 4
  | _ => 5

/-- Of two faults of a lane, the one that R56 places first; the earlier one of equals. -/
def firstFault (a : Option FaultRec) (b : FaultRec) : FaultRec :=
  match a with
  | some r => if loadRank b.code < loadRank r.code then b else r
  | none => b

/-- Read the taps of a lane one after another: their weighted channels, the pages of those that are missing, and the first fault of all in the order of R56. Where BORDER is the whole result, a NaN channel of it gives the canonical NaN as in a sum (log 81). -/
def readTaps (s : State) (w : Swell) (f : Frag) (lane : Nat) (d : TexDesc) (lv : Nat) :
    List Tap → List (Nat × Nat × List Chan) → List Nat → Option FaultRec → TexLane
  | [], _, _, some r => .fault r
  | [], got, [], none =>
    .done ((List.range 4).map fun i => mixChannels (got.map fun g => (g.1, g.2.1, (g.2.2[i]?).getD (.f 0)))) s
  | [], _, pages, none => .missing ((List.range 4).map fun i => mixChannels [(1, 0, .f ((d.border[i]?).getD 0))]) pages s
  | t :: ts, got, pages, bad =>
    match t.place with
    | none => readTaps s w f lane d lv ts (got ++ [(t.weight, t.den, d.border.map .f)]) pages bad
    | some p =>
      let va := d.base + BitVec.ofNat 64 (d.texelOff lv p)
      match texRead s w f lane va d.texel with
      | .bytes bs s => readTaps s w f lane d lv ts (got ++ [(t.weight, t.den, d.channels bs)]) pages bad
      | .absent => readTaps s w f lane d lv ts got (if pages.contains (pageOf va) then pages else pages ++ [pageOf va]) bad
      | .fault r => readTaps s w f lane d lv ts got pages (some (firstFault bad r))
      | .stall s => .stall s

/-- A descriptor for a lane, checked (R335), then what is done with it. -/
def withDesc (s : State) (w : Swell) (f : Frag) (fr : Frame) (word : Word) (lane : Nat) (i : Word) (go : State → TexDesc → TexLane) : TexLane :=
  if fr.desc.tcnt ≤ i.toNat then .fault ⟨.illegal, word.setWidth 64, lane, false, false⟩
  else
    let va := fr.desc.ttab + BitVec.ofNat 64 (64 * i.toNat)
    match texRead s w f lane va 64 with
    | .absent => .fault ⟨.xlate, va, lane, false, false⟩
    | .fault r => .fault r
    | .stall s => .stall s
    | .bytes bs s =>
      if texDescBad bs then .fault ⟨.align, (texDesc bs).base, lane, false, false⟩ else go s (texDesc bs)

/-- One lane of TEX (R335). -/
def texLane (s : State) (w : Swell) (f : Frag) (fr : Frame) (word : Word) (lane : Nat) (u v i lod : Word) : TexLane :=
  withDesc s w f fr word lane i fun s d => readTaps s w f lane d (d.level lod) (d.taps (d.level lod) u v) [] [] none

/-- Whether each texel of a lane is on a resident page that may be read; the pages that are missing; or a page to walk first (R336). -/
def queryTaps (s : State) (w : Swell) (f : Frag) (lane : Nat) (d : TexDesc) (lv : Nat) : List Tap → Bool → List Nat → TexLane
  | [], ok, [] => .done [if ok then 1 else 0] s
  | [], _, pages => .missing [0] pages s
  | t :: ts, ok, pages =>
    match t.place with
    | none => queryTaps s w f lane d lv ts ok pages
    | some p =>
      let va := d.base + BitVec.ofNat 64 (d.texelOff lv p)
      match laneXlat s (coreOfKey s.cur.key) w.ctx (f.priv != 0) .tex f ⟨lane, va, 1⟩ with
      | .miss => .stall (startWalk s s.cur w.ctx va)
      | .bad .xlate _ => queryTaps s w f lane d lv ts ok (if pages.contains (pageOf va) then pages else pages ++ [pageOf va])
      | .bad .cls _ => queryTaps s w f lane d lv ts ok pages
      | .bad _ _ => queryTaps s w f lane d lv ts false pages
      | .ok _ => queryTaps s w f lane d lv ts ok pages

/-- One lane of TEXQ (R336). -/
def texqLane (s : State) (w : Swell) (f : Frag) (fr : Frame) (word : Word) (lane : Nat) (u v i lod : Word) : TexLane :=
  withDesc s w f fr word lane i fun s d => queryTaps s w f lane d (d.level lod) (d.taps (d.level lod) u v) true []

/-! ## The re-shade map (R335) -/

/-- A request to the fault service that nothing waits for (R335, R417). -/
def askTex (s : State) (ctx page : Nat) : State :=
  s.post 1 (.faultServiceRequest (dieOfKey s.cur.key) ctx page ⟨false, false, false, true⟩ none)

/-- Set the map bit of a tile by an atomic OR at the map's home, made by a die for the launch (R335): a page not resident is waited for, a refusal is logged. -/
def setMapBit (s : State) (lid die tile : Nat) : State :=
  match kvGet s.launches lid with
  | none => s
  | some l =>
    match l.frame with
    | none => s
    | some fr =>
      let va := fr.desc.rmap.toNat + tile / 8
      let wait (s : State) : State := s.updFrame lid fun x => { x with mapWaits := if x.mapWaits.contains (die, tile) then x.mapWaits else x.mapWaits ++ [(die, tile)] }
      let u : DevUser := .bit lid die tile
      match devPlace s die l.ctx true .atomic va 1 u with
      | (.ok loc, s) =>
        let s := devDone s l.ctx u
        let s := if loc.cls == .coh then recallOthers s (loc.pa / 256) 64 else s
        let old := byteAt s.mem loc.pa
        let s := homeWrite s l.ctx die loc [old ||| BitVec.twoPow 8 (tile % 8)]
        if old.getLsbD (tile % 8) then s else s.updFrame lid fun x => { x with reshaded := x.reshaded + 1 }
      | (.page p, s) => devAsk (wait s) die l.ctx p true u
      | (.later t, s) => (wait s).postOnce t (.launchCompletion lid)
      | (.fail _, s) => (devDone s l.ctx u).logError l.ctx ⟨8, die, BitVec.ofNat 64 va, 0, 0, 0, 0⟩

/-- Bits whose OR waited for a page are tried again. -/
def retryMapBits (s : State) (lid : Nat) : State :=
  match (kvGet s.launches lid).bind fun l => l.frame with
  | none => s
  | some fr => fr.mapWaits.foldl (fun s x => setMapBit s lid x.1 x.2) (s.updFrame lid fun x => { x with mapWaits := [] })

/-- A pixel or blend swell. -/
def Swell.shades (w : Swell) : Bool := match w.role with | .group => false | _ => true

/-- The effects of a lane's missing pages (R335). -/
def missingTexels (s : State) (w : Swell) (pages : List Nat) (map : Bool) : State :=
  let s := pages.foldl (fun s p => askTex s w.ctx p) s
  if map && w.shades then setMapBit s w.launch (dieOfKey s.cur.key) (w.sreg 4).toNat else s

/-! ## The words -/

/-- Take the lanes in ascending order: results, and the pages missing for each lane, or what ends the issue. -/
def texLanes (s : State) (one : State → Nat → TexLane) : List Nat → List (Nat × List Word) → List (List Nat) → (State → List (Nat × List Word) → List (List Nat) → Done) → Done
  | [], res, miss, go => go s res miss
  | l :: ls, res, miss, go =>
    match one s l with
    | .done ws s => texLanes s one ls (res ++ [(l, ws)]) miss go
    | .missing ws pages s => texLanes s one ls (res ++ [(l, ws)]) (miss ++ [pages]) go
    | .fault r => .fault s r
    | .stall s => .stall s

/-- Write lane results from a register up. -/
def Swell.writeLanes (w : Swell) (d : Reg) (res : List (Nat × List Word)) : Swell :=
  res.foldl (fun w r => w.setLane ⟨r.1 % 32, Nat.mod_lt _ (by decide)⟩ d r.2) w

/-- TEX and TEXQ: the lanes, then the results and the requests for missing pages. -/
def texBody (s : State) (w : Swell) (f : Frag) (d : Reg) (map : Bool) (one : State → Nat → TexLane) : Done :=
  texLanes s one ((lanesOf (lanesActive w f f.pmx)).map fun l => l.val) [] [] fun s res miss =>
    .next (miss.foldl (fun s p => missingTexels s w p map) (s.updSwell s.cur.swell fun w => w.writeLanes d res))

/-- A lane of a V register by number. -/
def vLane (w : Swell) (r : Reg) (lane : Nat) : Word := (w.vreg r)[lane % 32]'(Nat.mod_lt _ (by decide))

/-- TEX (R334, R335). -/
def execTex (o : Reg3LA) (s : State) : Host.Outcome State Fault Refusal :=
  let word := packReg 0x3A o.d o.a o.b o.la
  issueChecked { pmx := true, writes := (List.range 4).map fun i => o.d + BitVec.ofNat 7 i } word (fun w _ => (frameOf s w).isNone)
    [o.d.toNat + 3, o.a.toNat + 1, o.b.toNat + 1] s fun w f =>
    match frameOf s w with
    | none => .next s
    | some fr => texBody s w f o.d true fun s l => texLane s w f fr word l (vLane w o.a l) (vLane w (o.a + 1) l) (vLane w o.b l) (vLane w (o.b + 1) l)

/-- TEXQ (R336). -/
def execTexq (o : Reg2LA) (s : State) : Host.Outcome State Fault Refusal :=
  let word := packReg 0x3B o.d o.a 1 o.la
  issueChecked { pmx := true, writes := [o.d] } word (fun w _ => (frameOf s w).isNone) [o.d.toNat, o.a.toNat + 3] s fun w f =>
    match frameOf s w with
    | none => .next s
    | some fr =>
      texBody s w f o.d false fun s l => texqLane s w f fr word l (vLane w o.a l) (vLane w (o.a + 1) l) (vLane w (o.a + 2) l) (vLane w (o.a + 3) l)

end Sys2Proof.Machine
end

