-- ==== Sys2Proof/Machine/Image.lean ====
section
/-! DEFINITION. The context image of an evicted swell as bytes, with its neighbour record and its held record, and the way back (R41, R62, R141, R193, R299). -/

namespace Sys2Proof.Machine

/-- Kibibytes of a swell's slow allocation (R172). -/
def slowKib (n : Nat) : Nat := (n + 7) / 8

/-- Bytes of a save slot (R193). -/
def saveBytes (n : Nat) : Nat := slowKib n * 1024 + 1408

/-- One bit as a number. -/
def bitNat (b : Bool) : Nat := if b then 1 else 0

/-- A split-table entry as 64 bytes (R41). -/
def entBytes (f : Frag) : List Byte :=
  [f.pc.toNat,
   bitNat f.valid * 2 ^ 63 + f.st.toNat * 2 ^ 60 + f.recon.toNat,
   f.orecon.toNat,
   f.rep.toNat,
   f.mask.toNat * 2 ^ 32 + f.region.toNat,
   f.reissue.toNat * 2 ^ 48 + f.wkind.toNat * 2 ^ 44 + f.osfmt.toNat * 2 ^ 32 + f.sfmt.toNat * 2 ^ 20 + f.fmt.toNat * 2 ^ 8 + bitNat f.onew * 2 ^ 7
     + f.opart.toNat * 2 ^ 4 + bitNat f.new * 2 ^ 3 + f.part.toNat,
   f.waddr.toNat,
   f.wval.toNat].flatMap fun x => bytesOfNat x 8

/-- A PC field of an image: bits 1:0 are zero (R41, R64). -/
def pcOf (x : Nat) : Pc := BitVec.ofNat 56 x &&& ~~~3#56

/-- Read a split-table entry back. What supervisor code has written there holds: a wait taken away is gone, a time is the TWAIT's, a faulting address is asked for, another WKIND names the outstanding instruction of that kind, and without one the fragment is ready (log 22). -/
def entOf (f : Frag) (bs : List Byte) : Frag :=
  let q (i : Nat) : Nat := listNat bs (8 * i) 8
  let w1 := q 1
  let w5 := q 5
  let kept := f
  let f : Frag := { f with
    pc := pcOf (q 0), valid := w1 / 2 ^ 63 % 2 == 1, st := BitVec.ofNat 3 (w1 / 2 ^ 60), recon := pcOf w1,
    orecon := pcOf (q 2), rep := pcOf (q 3), mask := BitVec.ofNat 32 (q 4 / 2 ^ 32), region := BitVec.ofNat 32 (q 4),
    reissue := BitVec.ofNat 16 (w5 / 2 ^ 48), wkind := BitVec.ofNat 4 (w5 / 2 ^ 44), osfmt := BitVec.ofNat 12 (w5 / 2 ^ 32),
    sfmt := BitVec.ofNat 12 (w5 / 2 ^ 20), fmt := BitVec.ofNat 12 (w5 / 2 ^ 8), onew := w5 / 2 ^ 7 % 2 == 1, opart := BitVec.ofNat 3 (w5 / 2 ^ 4),
    new := w5 / 2 ^ 3 % 2 == 1, part := BitVec.ofNat 3 w5, waddr := BitVec.ofNat 64 (q 6), wval := BitVec.ofNat 64 (q 7) }
  if f.st ≠ 1 then { f with wait := none, outst := if f.st = 0 ∨ f.st = 5 then [] else f.outst }
  else if f.wkind = 6 then { f with wait := some (.twait f.wval) }
  else if f.wkind = 8 then
    if kept.wkind = 8 ∧ kept.waddr = f.waddr then { f with wval := kept.wval } else { f with wait := some (.service (pageOf f.waddr) f.waddr), wval := 0 }
  else match kept.outst.find? fun o => o.wake.1 == f.wkind with
    | some o => { f with wait := some (.op o.id) }
    | none => { f with wait := none, st := 0 }

/-- One slot of the held record (R299). -/
def heldBytes (h : HeldSlot) : List Byte := bytesOfNat h.key.toNat 8 ++ [BitVec.ofNat 8 (bitNat h.valid), h.home.setWidth 8] ++ List.replicate 6 0

/-- Read a slot of the held record back. -/
def heldOf (bs : List Byte) : HeldSlot := ⟨listNat bs 8 1 % 2 == 1, BitVec.ofNat 64 (listNat bs 0 8), BitVec.ofNat 6 (listNat bs 9 1)⟩

/-- The save slot of a swell: the image of R62, the neighbour record and the held record (R193). -/
def imageBytes (w : Swell) : List Byte :=
  wordBytes w.scfg ++ wordBytes w.pri ++ wordBytes w.cont ++ wordBytes w.region ++ wordBytes (statusWord w w.wakeFull w.wakeVal) ++ bytesOfNat w.n 4
    ++ bytesOfNat w.window.toNat 4 ++ wordBytes (pendWord w.pend) ++ wordBytes w.fcause ++ wordBytes w.frec ++ bytesOfNat w.fpc.toNat 8
    ++ bytesOfNat w.fval.toNat 8 ++ bytesOfNat w.pend.tide.toNat 8 ++ w.s.toList.flatMap wordBytes ++ w.ents.toList.flatMap entBytes
    ++ ((w.v.toList.take (slowKib w.n * 8)).flatMap fun r => r.toList.flatMap wordBytes)
    ++ (w.nbr.toList.flatMap fun x => bytesOfNat x.toNat 2)
    ++ w.ents.toList.flatMap fun f => heldBytes f.held0 ++ heldBytes f.held1

/-- Read a save slot back into the swell it was written from; bits 1:0 of a PC and of CONT and bit 14 of a neighbour index read as zero (R37, R64, R141). What the device itself keeps for the swell while it is away (pending faults, the wake word, an answer of the fault service) is the device's own copy (log 22). -/
def imageOf (w : Swell) (bs : List Byte) : Swell :=
  let wd (off : Nat) : Word := BitVec.ofNat 32 (listNat bs off 4)
  let dd (off : Nat) : Addr := BitVec.ofNat 64 (listNat bs off 8)
  let st := listNat bs 0x10 4
  let tail := 0x440 + slowKib w.n * 1024
  { w with
    scfg := wd 0, pri := wd 4, cont := contWord (wd 8), region := wd 0xC, contMark := st % 2 == 1, busy := st / 2 % 2 == 1, busyEnt := BitVec.ofNat 3 (st / 4),
    window := BitVec.ofNat 24 (listNat bs 0x18 4),
    fcause := wd 0x20, frec := wd 0x24, fpc := (pcOf (listNat bs 0x28 8)).setWidth 64, fval := dd 0x30,
    s := Vector.ofFn fun i => wd (0x40 + 4 * i.val),
    ents := Vector.ofFn fun i =>
      { entOf w.ents[i] ((bs.drop (0x240 + 64 * i.val)).take 64) with
        held0 := heldOf (bs.drop (tail + 64 + 32 * i.val)), held1 := heldOf (bs.drop (tail + 80 + 32 * i.val)) },
    v := Vector.ofFn fun r => if r.val < slowKib w.n * 8 then Vector.ofFn fun l => wd (0x440 + 128 * r.val + 4 * l.val) else w.v[r],
    nbr := Vector.ofFn fun l => BitVec.ofNat 16 (listNat bs (tail + 2 * l.val) 2) &&& 0xBFFF }

/-! ## The save region in memory (R193, R393) -/

/-- A place for a save slot in the context's save region, first fit; none when the region is full. -/
def saveRoom (s : State) (ctx n : Nat) : Option Nat :=
  let c := s.ctx ctx
  let lo := c.field 0x30 8
  let hi := lo + c.field 0x38 8
  let used := c.images.map fun x => (x.2.1.toNat, x.2.1.toNat + (saveBytes x.2.2.n + 63) / 64 * 64)
  ((lo :: used.map fun x => x.2).filter fun a => decide (a + saveBytes n ≤ hi) && used.all fun x => decide (a + saveBytes n ≤ x.1) || decide (x.2 ≤ a)).min?

/-- The places of bytes that the device writes or reads with supervisor rights, line by line, or what keeps it from them; a page that is not resident is asked for. -/
def saveAccess (s : State) (die ctx : Nat) (u : DevUser) (k : AccKind) (write : Bool) (va n : Nat) : Except (EngPlace × State) (List Loc × State) :=
  (linePieces va (n / 256 + 2) n).foldl (fun r p =>
    match r with
    | .error s => .error s
    | .ok (ls, s) =>
      match devPlace s die ctx false k p.1 p.2 u with
      | (.ok l, s) => .ok (ls ++ [l], s)
      | (.page q, s) => .error (.page q, devAsk s die ctx q write u)
      | (.later t, s) => .error (.later t, s)
      | (.fail r, s) => .error (.fail r, devDone s ctx u)) (.ok ([], s))

/-- Write a save slot to memory, when every page of it can be written. -/
def saveWrite (s : State) (die ctx : Nat) (u : DevUser) (va : Nat) (bs : List Byte) : Except (EngPlace × State) State :=
  match saveAccess s die ctx u .store true va bs.length with
  | .error e => .error e
  | .ok (ls, s) =>
    .ok (((linePieces va (bs.length / 256 + 2) bs.length).zip ls).foldl (fun s x => homeWrite s ctx die x.2 ((bs.drop (x.1.1 - va)).take x.1.2)) s)

/-- Read a save slot from memory. -/
def saveRead (s : State) (die ctx : Nat) (u : DevUser) (va n : Nat) : Except (EngPlace × State) (List Byte × State) :=
  match saveAccess s die ctx u .load false va n with
  | .error e => .error e
  | .ok (ls, s) =>
    .ok (((linePieces va (n / 256 + 2) n).zip ls).foldl (fun (r : List Byte × State) x =>
      let (bs, s) := dieRead r.2 ctx die x.2 x.1.2
      (r.1 ++ bs, s)) ([], s))

/-- Put a swell that leaves into the save region of its context (R193); the bytes are charged to no counter (R409). -/
def saveInMemory (s : State) (die : Nat) (w : Swell) : Except State State :=
  match saveRoom s w.ctx w.n with
  | none => .error s
  | some a =>
    match saveWrite s die w.ctx (.save w.uid) a (imageBytes w) with
    | .error e => .error e.2
    | .ok t =>
      let s := { devDone t w.ctx (.save w.uid) with meters := s.meters }
      .ok (s.updCtx w.ctx fun c => { c with images := c.images ++ [(w.uid, BitVec.ofNat 64 a, w)] })

/-- Put a swell that leaves a core into the core's save area when that has room, else into memory (R193). -/
def saveSwell (s : State) (c : Nat) (w : Swell) : Except State State :=
  let used := ((s.core c).save.map fun x => saveBytes x.n).sum
  if used + saveBytes w.n ≤ 786432 - (s.core c).bndTop.toNat then .ok (s.updCore c fun k => { k with save := k.save ++ [w] })
  else saveInMemory s (dieOfCore c) w

end Sys2Proof.Machine
end

