-- ==== Sys2Proof/Machine/Render.lean ====
section
/-! DEFINITION. Sort-middle rendering: the render descriptor, EMITP and RSHADE, the reorder buffer and binner, visibility, and the pixel and blend swells of a tile (R33, R316 to R332, R337). -/

namespace Sys2Proof.Machine

/-! ## A swell at its start (R33) -/

/-- The FragId of entry 0 begins at the entry PC with its lanes active; a new swell has no place yet. -/
def freshSwell (l : Launch) (lid : Nat) (role : RenderRole) (task : Word) (n : Nat) (pc : Addr) (mask : Word) : Swell :=
  let p : Pc := pc.setWidth 56
  let ents : Vector Frag 8 := (Vector.replicate 8 Frag.free).set 0 { Frag.free with valid := true, pc := p, rep := p, mask := mask }
  let w : Swell :=
    { uid := 0, ctx := l.ctx, launch := lid, task := task, n := n, role := role,
      v := (Vector.replicate 128 (Vector.replicate 32 0)).set 0 (Vector.ofFn fun i => BitVec.ofNat 32 i.val),
      s := Vector.replicate 128 0, ents := ents, scfg := if l.bay.flags / 4 % 2 = 1 then 1 else 0, raised := 0, pri := BitVec.ofNat 32 l.bay.pri, cont := 0,
      window := p.extractLsb' 32 24, region := 0, contMark := false, busy := false, busyEnt := 0, fcause := 0, frec := 0, fpc := 0, fval := 0,
      pend := ⟨false, false, 0, 0, 0, 0, 0, false, 0⟩, nbr := Vector.replicate 32 0x8000, wakeFull := false, wakeVal := 0, active := false, movedIn := 0,
      slowBase := 0, core := 0, nextOp := 0 }
  ((((w.setSList 1 [0xFFFFFFFF, 0xFFFFFFFF, 0xFFFFFFFF, task]).setS 7 (BitVec.ofNat 32 l.bay.rows)).setS 8 (BitVec.ofNat 32 l.bay.cols)).setS 9
    (BitVec.ofNat 32 l.bay.rect)).setSPair 10 l.bay.args

/-- Core numbers of a bay in row-major order (R403). -/
def Launch.cores (l : Launch) : List Nat :=
  (List.range l.bay.rows).flatMap fun r => (List.range l.bay.cols).map fun c => coreAt (l.prow + r) (l.pcol + c)

/-- Dies of a bay, ascending. -/
def Launch.dieList (l : Launch) : List Nat := (List.range 64).filter fun d => l.cores.any fun c => dieOfCore c == d

/-! ## The descriptor (R316, R317) -/

/-- The render descriptor in the first 128 bytes of an argument block. -/
def renderDesc (bs : List Byte) : RenderDesc :=
  let a (off : Nat) : Addr := BitVec.ofNat 64 (listNat bs off 8)
  { width := listNat bs 0 2, height := listNat bs 2 2, reshade := listNat bs 4 4 % 2 == 1, gtab := a 0x08, tmap := a 0x10, bin := a 0x18,
    binsz := listNat bs 0x20 4, pmax := listNat bs 0x24 4, pspc := a 0x28, bspc := a 0x30, ttab := a 0x38, tcnt := listNat bs 0x40 4,
    pregs := listNat bs 0x44 4, cbase := a 0x48, cpitch := listNat bs 0x50 4, cfmt := listNat bs 0x54 4,
    clear := (List.range 4).map fun i => BitVec.ofNat 32 (listNat bs (0x58 + 4 * i) 4), rmap := a 0x68, fstat := a 0x70 }

/-- An entry PC in the window of another: a multiple of 4, bits 63:56 zero (R316). -/
def pcIn (entry pc : Addr) : Bool := pc.extractLsb' 0 2 == 0 && pc.extractLsb' 56 8 == 0 && pc.extractLsb' 32 24 == entry.extractLsb' 32 24

/-- A field outside its limits (R316). -/
def renderDescBad (bs : List Byte) (entry : Addr) : Bool :=
  let d := renderDesc bs
  let out (lo hi x : Nat) : Bool := decide (x < lo) || decide (hi < x)
  out 1 16384 d.width || out 1 16384 d.height || decide (1 < listNat bs 4 4) || out 1 65535 d.binsz || out 1 (2 ^ 28) d.pmax
    || !pcIn entry d.pspc || !pcIn entry d.bspc || d.ttab.toNat % 64 != 0 || decide (65536 < d.tcnt) || out 9 128 d.pregs
    || d.cbase.toNat % 256 != 0 || d.cpitch % 256 != 0 || decide (1 < d.cfmt) || d.fstat.toNat % 32 != 0 || listNat bs 0x78 8 != 0

/-- Tiles across. -/
def RenderDesc.tw (d : RenderDesc) : Nat := (d.width + 31) / 32
/-- Tiles down. -/
def RenderDesc.th (d : RenderDesc) : Nat := (d.height + 31) / 32

/-- Owner of a tile under the default map (R317). -/
def defaultOwner (dies : List Nat) (tw t : Nat) : Nat := (dies[(t % tw + 3 * (t / tw)) % dies.length]?).getD 0

/-- The frame of an accepted render launch: descriptor, owners, draw numbers, dies. -/
def Frame.init (d : RenderDesc) (tmap draws dies : List Nat) : Frame :=
  { desc := d, tmap := tmap, draws := draws, dies := dies, np := [], nf := 0, cull := 0, reshaded := 0, ovf := false,
    parts := dies.map fun e => ⟨e, [], [], 0, [], ((List.range tmap.length).filter fun t => tmap[t]? == some e).map fun t => ⟨t, [], [], .binning, []⟩, false⟩,
    queued := [], mapWaits := [] }

/-- The frame of a re-shade launch bins nothing: its tiles are finished until one is queued (R337). -/
def Frame.again (f : Frame) : Frame :=
  { f with parts := f.parts.map fun p => { p with binned := true, tiles := p.tiles.map fun t => { t with st := .finished } } }

/-! ## EMITP (R319 to R322) -/

/-- The primitive that a lane supplies in V[a] to V[a+11]. -/
def lanePrim (w : Swell) (a : Reg) (lane g p draw : Nat) : Prim :=
  let r (i : Nat) : Word := vLane w (a + BitVec.ofNat 7 i) lane
  ⟨g, p, draw, ⟨r 0, r 1, r 2⟩, ⟨r 3, r 4, r 5⟩, ⟨r 6, r 7, r 8⟩, (r 9).getLsbD 0, pairVal (r 10) (r 11)⟩

/-- Coordinates out of format, or a depth that is no finite number (R320). -/
def primBad (p : Prim) : Bool :=
  [p.v0, p.v1, p.v2].any fun v => !coordOk v.x || !coordOk v.y || !finiteWord v.z

/-- The tiles that a clipped bounding box touches. -/
def boxTiles (tw : Nat) (b : Nat × Nat × Nat × Nat) : List Nat :=
  (List.range (b.2.2.2 / 32 - b.2.2.1 / 32 + 1)).flatMap fun j => (List.range (b.2.1 / 32 - b.1 / 32 + 1)).map fun i => (b.2.2.1 / 32 + j) * tw + b.1 / 32 + i

/-- The dies that own a tile of a primitive. -/
def primOwners (f : Frame) (p : Prim) : List Nat :=
  match primBox p f.desc.width f.desc.height with
  | none => []
  | some b => f.dies.filter fun d => (boxTiles f.desc.tw b).any fun t => f.tmap[t]? == some d

/-- One lane of EMITP (R320): the frame, the lane's result, and the primitive emitted. -/
def emitLane (f : Frame) (w : Swell) (a : Reg) (lane : Nat) : Frame × Word × Option Prim :=
  let g := w.task.toNat
  let np := (kvGet f.np g).getD 0
  let p := lanePrim w a lane g np ((f.draws[g]?).getD 0)
  if primBad p then ({ f with cull := f.cull + 1 }, 0xFFFFFFFD, none)
  else if primArea p = 0 ∨ (primBox p f.desc.width f.desc.height).isNone then ({ f with cull := f.cull + 1 }, 0xFFFFFFFF, none)
  else if np = 65536 ∨ f.nf = f.desc.pmax then ({ f with ovf := true }, 0xFFFFFFFE, none)
  else ({ f with np := kvSet f.np g (np + 1), nf := f.nf + 1 }, BitVec.ofNat 32 np, some p)

/-- The lanes of EMITP in ascending order. -/
def emitLanes (f : Frame) (w : Swell) (a : Reg) : List Nat → Frame × List (Nat × List Word) × List Prim
  | [] => (f, [], [])
  | l :: ls =>
    let (f, x, p) := emitLane f w a l
    let (f, res, ps) := emitLanes f w a ls
    (f, (l, [x]) :: res, p.toList ++ ps)

/-- Send a primitive to the owners of the tiles it touches. -/
def sendPrim (s : State) (ctx lid : Nat) (f : Frame) (p : Prim) : State :=
  (primOwners f p).foldl (fun s d => s.sendMsg ⟨s.cur, ctx, lid, 0, ⟨0, .dp, false, d, false⟩, .prim p⟩) s

/-- EMITP may run in a group swell of a draw launch (R318, R319). -/
def mayEmit (s : State) (w : Swell) : Bool := match frameOf s w with | some f => !w.shades && !f.desc.reshade | none => false

/-- EMITP (R319, R320). -/
def execEmitp (o : Reg2LA) (s : State) : Host.Outcome State Fault Refusal :=
  issueChecked { pmx := true, brk := true, writes := [o.d] } (packReg 0x3B o.d o.a 0 o.la) (fun w _ => !mayEmit s w) [o.d.toNat, o.a.toNat + 11] s fun w f =>
    match frameOf s w with
    | none => .next s
    | some fr =>
      let (fr, res, ps) := emitLanes fr w o.a ((lanesOf (lanesActive w f f.pmx)).map fun l => l.val)
      let s := (s.updFrame w.launch fun _ => fr).updSwell s.cur.swell fun w => w.writeLanes o.d res
      .next (ps.foldl (fun s p => sendPrim s w.ctx w.launch fr p) s)

/-! ## The reorder buffer, the binner and the resolver (R323 to R326) -/

/-- Set a pixel of the primitive-identifier store. -/
def putPixel (l : List PixelEnt) (e : PixelEnt) : List PixelEnt :=
  match l with
  | [] => [e]
  | x :: xs => if x.pix = e.pix then e :: xs else if e.pix < x.pix then e :: x :: xs else x :: putPixel xs e

/-- The pixels of a tile on the screen: tile-local number, column and row. -/
def tilePixels (d : RenderDesc) (t : Nat) : List (Nat × Nat × Nat) :=
  (List.range 1024).filterMap fun i =>
    let x := 32 * (t % d.tw) + i % 32
    let y := 32 * (t / d.tw) + i / 32
    if x < d.width ∧ y < d.height then some (i, x, y) else none

/-- The resolver at one pixel (R325): a nearer depth replaces, an equal one does not. -/
def resolvePixel (p : Prim) (l : List PixelEnt) (q : Nat × Nat × Nat) : List PixelEnt :=
  if !covers p q.2.1 q.2.2 then l
  else
    let z := depthAt p q.2.1 q.2.2
    match l.find? fun e => e.pix == q.1 with
    | some e => if depthLess z e.z then putPixel l ⟨q.1, z, p.g, p.p⟩ else l
    | none => putPixel l ⟨q.1, z, p.g, p.p⟩

/-- The resolver takes a primitive of a tile (R325). -/
def resolvePrim (d : RenderDesc) (tile : Nat) (l : List PixelEnt) (p : Prim) : List PixelEnt :=
  if p.blend then l else (tilePixels d tile).foldl (resolvePixel p) l

/-- The binner takes a released primitive into the list of a tile that its box touches; the resolver takes it at once when the primitive-identifier store holds the tile. -/
def binTile (d : RenderDesc) (p : Prim) (stored : Bool) (t : Tile) : Tile :=
  match primBox p d.width d.height with
  | none => t
  | some b =>
    if (boxTiles d.tw b).contains t.tile then
      { t with prims := t.prims ++ [p], pixels := if stored then resolvePrim d t.tile t.pixels p else t.pixels }
    else t

/-- The batch of a die's tile by its place among the die's tiles: the store holds 1,024 (R325). -/
def tileBatch (place : Nat) : Nat := place / 1024

/-- Release a primitive to the binner (R323). -/
def releasePrim (d : RenderDesc) (r : RenderDie) (p : Prim) : RenderDie := { r with packets := r.packets ++ [p], tiles := r.tiles.mapIdx fun i t => binTile d p (tileBatch i == 0) t }

/-- Markers of the head group move the head on; the packets of each new head group are released in the order they came (R323). -/
def advanceHead (d : RenderDesc) (r : RenderDie) : Nat → RenderDie
  | 0 => r
  | n + 1 =>
    if !r.markers.contains r.released then r
    else
      let h := r.released + 1
      let r := { r with markers := r.markers.erase r.released, released := h }
      let r := (r.held.filter fun p => p.g == h).foldl (releasePrim d) { r with held := r.held.filter fun p => p.g != h }
      advanceHead d r n

/-- Change a die's part of a frame. -/
def State.updPart (s : State) (lid die : Nat) (g : Frame → RenderDie → RenderDie) : State :=
  s.updFrame lid fun f => { f with parts := f.parts.map fun p => if p.die = die then g f p else p }

/-- A die's part of the frame of a launch. -/
def partOf (s : State) (lid die : Nat) : Option (Launch × Frame × RenderDie) :=
  match kvGet s.launches lid with
  | none => none
  | some l => match l.frame with
    | none => none
    | some f => (f.parts.find? fun p => p.die == die).map fun p => (l, f, p)

/-- PRIMITIVE_PACKET (R321, R323): a primitive of the head group is released as it arrives, one of a later group is held. -/
def execPrimitivePacket (die launch : Nat) (prim : Prim) (s : State) : Host.Outcome State Fault Refusal :=
  .next <| s.updPart launch die fun f p => if prim.g ≤ p.released then releasePrim f.desc p prim else { p with held := p.held ++ [prim] }

/-- END_OF_GROUP_MARKER (R322, R323, R326): when all markers have come the frame's binning is complete on the die, and its tiles may be shaded. -/
def execEndOfGroupMarker (die launch group : Nat) (s : State) : Host.Outcome State Fault Refusal :=
  let s := s.updPart launch die fun f p => advanceHead f.desc { p with markers := insertNat group p.markers } (p.markers.length + 1)
  .next <|
    match partOf s launch die with
    | none => s
    | some (l, _, p) =>
      if p.released = l.bay.tasks ∧ p.binned = false then
        p.tiles.foldl (fun s t => s.post 1 (.tileShadeStart die launch t.tile)) (s.updPart launch die fun _ p => { p with binned := true })
      else s

/-! ## Pixel swells (R327, R328, R331) -/

/-- Pixels of a quad in the packer's order. -/
def quadPixels (q : Nat) : List Nat :=
  let i := q / 16 * 64 + q % 16 * 2
  [i, i + 1, i + 32, i + 33]

/-- The packer (R327): quads in raster order, each whole in one swell. -/
def packQuads (vis : Nat → Bool) : List Nat → List Nat → List (List Nat)
  | [], cur => if cur = [] then [] else [cur]
  | q :: qs, cur =>
    let px := (quadPixels q).filter vis
    if 32 < cur.length + px.length then cur :: packQuads vis qs px else packQuads vis qs (cur ++ px)

/-- One lane of a pixel or blend swell: pixel, primitive and depth. -/
structure Shaded where
  x : Nat
  y : Nat
  prim : Prim
  z : Word
deriving DecidableEq, Repr

/-- V1 to V8 of a lane (R331). -/
def Shaded.words (q : Shaded) : List Word :=
  let (w1, w2) := weights q.prim q.x q.y
  [BitVec.ofNat 32 (q.x + q.y * 65536), BitVec.ofNat 32 q.prim.g, BitVec.ofNat 32 q.prim.p, loWord q.prim.attr, hiWord q.prim.attr,
   weightWord q.prim w1, weightWord q.prim w2, q.z]

/-- A neighbour index (R141). -/
def nbrIndex (pos h v : Nat) (hv vv : Bool) : BitVec 16 :=
  BitVec.ofNat 16 (2 ^ 15 + (if vv then 2 ^ 13 else 0) + (if hv then 2 ^ 12 else 0) + pos * 1024 + v * 32 + h)

/-- A pixel or blend swell of a tile, with its lanes: none is inactive and holds 0 (R331). -/
def renderSwell (l : Launch) (lid : Nat) (f : Frame) (role : RenderRole) (pc : Addr) (lanes : List (Option Shaded)) (nbr : Nat → BitVec 16)
    (sregs : List (Reg × Word)) : Swell :=
  let mask := maskOf ((List.finRange 32).filter fun i => match lanes[i.val]? with | some (some _) => true | _ => false)
  let w := freshSwell l lid role 0 f.desc.pregs pc mask
  let w := (List.finRange 32).foldl (fun w i => match lanes[i.val]? with | some (some q) => w.setLane i 1 q.words | _ => w) w
  sregs.foldl (fun w r => w.setS r.1 r.2) { w with nbr := Vector.ofFn fun i => nbr i.val }

/-- The neighbour index of a lane of an opaque pixel swell (R328): its partners show the same primitive in the same quad. -/
def opaqueNbr (px : List Nat) (who : Nat → Option (Nat × Nat)) (lane : Nat) : BitVec 16 :=
  match px[lane]? with
  | none => 0x8000
  | some i =>
    let find (j : Nat) : Option Nat := if who j == who i then (List.range px.length).find? fun k => px[k]? == some j else none
    let h := find (if i % 2 = 0 then i + 1 else i - 1)
    let v := find (if i / 32 % 2 = 0 then i + 32 else i - 32)
    nbrIndex (i % 2 + 2 * (i / 32 % 2)) (h.getD 0) (v.getD 0) h.isSome v.isSome

/-- The opaque pixel swells of a tile. -/
def opaqueSwells (l : Launch) (lid : Nat) (f : Frame) (t : Tile) : List Swell :=
  let ent (i : Nat) : Option PixelEnt := t.pixels.find? fun e => e.pix == i
  (packQuads (fun i => (ent i).isSome) (List.range 256) []).map fun px =>
    let shade (i : Nat) : Option Shaded := (ent i).bind fun e =>
      (t.prims.find? fun p => p.g == e.g && p.p == e.p).map fun p => ⟨32 * (t.tile % f.desc.tw) + i % 32, 32 * (t.tile / f.desc.tw) + i / 32, p, e.z⟩
    let draw := ((px.head?.bind shade).map fun q => q.prim.draw).getD 0
    renderSwell l lid f (.opaquePix t.tile) f.desc.pspc (px.map shade) (opaqueNbr px fun i => (ent i).map fun e => (e.g, e.p))
      [(4, BitVec.ofNat 32 t.tile), (16, BitVec.ofNat 32 draw)]

/-! ## Blend swells (R329 to R331) -/

/-- The pixel of a lane of a quad block: tile-local number. -/
def blockPixel (qb lane : Nat) : Nat := (4 * (qb / 4) + lane / 8) * 32 + 8 * (qb % 4) + lane % 8

/-- A blended primitive passes at a pixel (R326): it covers the sample, and is nearer than the opaque entry. -/
def passes (f : Frame) (t : Tile) (p : Prim) (i : Nat) : Option Shaded :=
  let x := 32 * (t.tile % f.desc.tw) + i % 32
  let y := 32 * (t.tile / f.desc.tw) + i / 32
  if decide (x < f.desc.width) && decide (y < f.desc.height) && covers p x y then
    let z := depthAt p x y
    match t.pixels.find? fun e => e.pix == i with
    | some e => if depthLess z e.z then some ⟨x, y, p, z⟩ else none
    | none => some ⟨x, y, p, z⟩
  else none

/-- The lanes of a blend swell. -/
def blendLanes (f : Frame) (t : Tile) (qb : Nat) (p : Prim) : List (Option Shaded) := (List.range 32).map fun l => passes f t p (blockPixel qb l)

/-- The blend swells of a tile: block, primitive and order number, in token order (R330). -/
def blendList (f : Frame) (t : Tile) : List (Nat × Prim × Nat) :=
  (t.prims.filter fun p => p.blend).foldl (fun acc p =>
    acc ++ ((List.range 32).filter fun qb => (blendLanes f t qb p).any Option.isSome).map fun qb =>
      (qb, p, (acc.filter fun x => x.1 == qb && x.2.1.draw == p.draw).length)) []

/-- Key of a blend section (R330). -/
def blendKey (draw tile qb : Nat) : Addr := BitVec.ofNat 64 (draw * 2 ^ 48 + tile * 2 ^ 24 + qb)

/-- A blend swell; `last` when no later one has its key in the frame. -/
def blendSwell (l : Launch) (lid : Nat) (f : Frame) (t : Tile) (b : Nat × Prim × Nat) (last : Bool) : Swell :=
  let lanes := blendLanes f t b.1 b.2.1
  let act (i : Nat) : Bool := match lanes[i]? with | some (some _) => true | _ => false
  let k := blendKey b.2.1.draw t.tile b.1
  renderSwell l lid f (.blendPix t.tile b.2.1.draw b.1) f.desc.bspc lanes
    (fun i => nbrIndex (i % 2 + 2 * (i / 8 % 2)) (i ^^^ 1) (i ^^^ 8) (act (i ^^^ 1)) (act (i ^^^ 8)))
    [(4, BitVec.ofNat 32 t.tile), (5, 1), (12, loWord k), (13, hiWord k), (14, BitVec.ofNat 32 b.2.2), (15, if last then 1 else 0),
     (16, BitVec.ofNat 32 b.2.1.draw)]

/-! ## Tiles on their way (R327, R329, R332) -/

/-- Change a tile. -/
def State.updTile (s : State) (lid die tile : Nat) (g : Tile → Tile) : State :=
  s.updPart lid die fun _ p => { p with tiles := p.tiles.map fun t => if t.tile = tile then g t else t }

/-- Swells of a launch that satisfy a test: resident, saved or waiting to start. -/
def launchSwells (s : State) (lid : Nat) (p : Swell → Bool) : Bool :=
  let mine (w : Swell) : Bool := w.launch == lid && p w
  s.swells.any (fun x => mine x.2) || s.savedSwells.any mine
    || (match (kvGet s.launches lid).bind fun l => l.frame with | some f => f.queued.any fun x => p x.2 | none => false)

/-- Swells wait to start on the owner die's cores of the bay. -/
def queueSwells (s : State) (lid die : Nat) (l : Launch) (ws : List Swell) : State :=
  let s := s.updFrame lid fun f => { f with queued := f.queued ++ ws.map fun w => (die, w) }
  if ws = [] then s else (l.cores.filter fun c => dieOfCore c == die).foldl (fun s c => s.postOnce 1 (.taskStart c lid)) s

/-- Before a stage that starts swells after others have ended, the stores of those are written back (R332). -/
def stageRelease (s : State) (l : Launch) : State := l.cores.foldl (fun s c => l1Release s c fun _ => true) s

/-- The stage is an acquire of what they did (R332): the owner's cores drop what they hold. -/
def stageAcquire (s : State) (l : Launch) (die : Nat) : State :=
  (l.cores.filter fun c => dieOfCore c == die).foldl (fun s c => l1Acquire s c (acqClasses true)) s

/-- A store of the launch is still to be performed, or written back to its home: the stage waits for it (R332). -/
def stageHeld (s : State) (lid : Nat) (l : Launch) : Bool :=
  s.msgs.any (fun x => x.2.launch == lid && x.2.writes) || l.cores.any fun c => mergeWaits s c fun _ => true

/-- Bytes of CLEAR for one pixel (R327). -/
def clearBytes (d : RenderDesc) : List Byte := if d.cfmt = 0 then d.clear.map unorm8 else d.clear.flatMap wordBytes

/-- The writes of CLEAR for a tile: address and bytes within a line, pixel rows from the top. -/
def clearPieces (d : RenderDesc) (t : Nat) : List (Nat × List Byte) :=
  let px := clearBytes d
  (tilePixels d t).map fun q => ((d.cbase + BitVec.ofNat 64 (q.2.2 * d.cpitch + q.2.1 * px.length)).toNat, px)

/-- Whether writes of the device for a tile have to wait: for pages, which are asked for, or for homes that cannot be reached now. -/
def clearWaits (s : State) (die ctx : Nat) (u : DevUser) (ps : List (Nat × List Byte)) : Bool × State :=
  ps.foldl (fun (x : Bool × State) p =>
    match devPlace x.2 die ctx true .store p.1 p.2.length u with
    | (.page q, s) => (true, devAsk s die ctx q true u)
    | (.later _, s) => (true, s)
    | (.ok _, s) | (.fail _, s) => (x.1, s)) (false, s)

/-- Perform the writes of CLEAR, stores of the owner; the first pixel of each page that cannot be written is logged, the others are left (R327). -/
def clearWrites (s : State) (die ctx : Nat) (u : DevUser) : List (Nat × List Byte) → List Nat → State
  | [], _ => s
  | p :: ps, bad =>
    match devPlace s die ctx true .store p.1 p.2.length u with
    | (.ok l, s) => clearWrites (deviceWrite s ctx die l p.2) die ctx u ps bad
    | (_, s) =>
      let page := pageName s ctx (p.1 / 65536)
      if bad.contains page then clearWrites s die ctx u ps bad
      else clearWrites (s.logError ctx ⟨8, die, BitVec.ofNat 64 p.1, 0, 0, 0, 0⟩) die ctx u ps (page :: bad)

/-! ## The bin region (R317, R323, R325, R337; log 27) -/

/-- Base of a die's bin region (R317). -/
def binBase (f : Frame) (die : Nat) : Nat := (f.desc.bin + BitVec.ofNat 64 (f.dies.idxOf die * f.desc.binsz * 2 ^ 20)).toNat

/-- A primitive packet of 64 bytes: token, vertices, BLEND, attribute pointer (R321), and the number of packets in the region. -/
def primBytes (total : Nat) (p : Prim) : List Byte :=
  ([BitVec.ofNat 32 p.g, BitVec.ofNat 32 p.p, BitVec.ofNat 32 p.draw] ++ ([p.v0, p.v1, p.v2].flatMap fun v => [v.x, v.y, v.z])
    ++ [if p.blend then 1 else 0, loWord p.attr, hiWord p.attr, BitVec.ofNat 32 total]).flatMap wordBytes

/-- A packet read back. -/
def primOf (bs : List Byte) : Prim :=
  let n (i : Nat) : Nat := listNat bs (4 * i) 4
  let w (i : Nat) : Word := BitVec.ofNat 32 (n i)
  ⟨n 0, n 1, n 2, ⟨w 3, w 4, w 5⟩, ⟨w 6, w 7, w 8⟩, ⟨w 9, w 10, w 11⟩, n 12 % 2 == 1, pairVal (w 13) (w 14)⟩

/-- The packets of a die as its region holds them; with none, one empty packet says so. -/
def packetsBytes (ps : List Prim) : List Byte := if ps = [] then List.replicate 64 0 else ps.flatMap (primBytes ps.length)

/-- A pixel's 8 bytes of visibility (R325): its depth, and the (g, p) of its primitive by the packet's place in the region, from 1; 0 for a pixel without an entry. -/
def visBytes (ps : List Prim) (t : Tile) : List Byte :=
  (List.range 1024).flatMap fun i => match t.pixels.find? fun e => e.pix == i with
    | some e => wordBytes e.z ++ wordBytes (BitVec.ofNat 32 (ps.findIdx (fun q => q.g == e.g && q.p == e.p) + 1))
    | none => List.replicate 8 0

/-- The visibility of a tile read back beside the region's packets. -/
def visOf (ps : List Prim) (bs : List Byte) : List PixelEnt :=
  (List.range 1024).filterMap fun i =>
    let n := listNat bs (8 * i + 4) 4
    if n = 0 then none else (ps[n - 1]?).map fun q => ⟨i, BitVec.ofNat 32 (listNat bs (8 * i) 4), q.g, q.p⟩

/-- A tile's place among its die's tiles. -/
def tilePlace (p : RenderDie) (tile : Nat) : Nat := (p.tiles.filter fun t => decide (t.tile < tile)).length

/-- Where a tile's visibility stands in its die's region: behind PMAX packets, by its place among the die's tiles. -/
def visBase (f : Frame) (p : RenderDie) (tile : Nat) : Nat :=
  binBase f p.die + f.desc.pmax * 64 + 8192 * tilePlace p tile

/-- Bytes for an address, by lines. -/
def piecesOf (va : Nat) (bs : List Byte) : List (Nat × List Byte) :=
  (linePieces va (bs.length / 256 + 2) bs.length).map fun x => (x.1, (bs.drop (x.1 - va)).take x.2)

/-- What the die keeps in its bin region of a tile whose visibility is final: its records, and with its first tile the packets. -/
def binPieces (f : Frame) (p : RenderDie) (t : Tile) : List (Nat × List Byte) :=
  piecesOf (visBase f p t.tile) (visBytes p.packets t) ++
    if p.tiles.all fun x => decide (t.tile ≤ x.tile) then piecesOf (binBase f p.die) (packetsBytes p.packets) else []

/-- Write the bin region where its pages can be had. -/
def binWrites (s : State) (die ctx : Nat) (u : DevUser) (ps : List (Nat × List Byte)) : State :=
  ps.foldl (fun s p => match devPlace s die ctx true .store p.1 p.2.length u with | (.ok l, s) => homeWrite s ctx die l p.2 | (_, s) => s) s

/-- Read bytes of the bin region, or wait for a page or a home; a line that cannot be had reads as 0. -/
def binRead (s : State) (die ctx : Nat) (u : DevUser) (va n : Nat) : Except State (List Byte × State) :=
  (linePieces va (n / 256 + 2) n).foldl (fun r p =>
    match r with
    | .error s => .error s
    | .ok (bs, s) =>
      match devPlace s die ctx true .load p.1 p.2 u with
      | (.ok l, s) => let (b, s) := homeRead s ctx die l p.2; .ok (bs ++ b, s)
      | (.page q, s) => .error (devAsk s die ctx q false u)
      | (.later _, s) => .error s
      | (.fail _, s) => .ok (bs ++ List.replicate p.2 0, s)) (.ok ([], s))

/-- A tile of a re-shade launch from the region's packets and visibility records (R337). -/
def loadTile (s : State) (ctx : Nat) (u : DevUser) (f : Frame) (p : RenderDie) (t : Tile) : Except State (Tile × State) :=
  match binRead s p.die ctx u (binBase f p.die) 64 with
  | .error s => .error s
  | .ok (head, s) =>
    let total := Nat.min (listNat head 60 4) f.desc.pmax
    match binRead s p.die ctx u (binBase f p.die) (64 * total) with
    | .error s => .error s
    | .ok (bs, s) =>
      match binRead s p.die ctx u (visBase f p t.tile) 8192 with
      | .error s => .error s
      | .ok (vs, s) =>
        let mine (q : Prim) : Bool := match primBox q f.desc.width f.desc.height with
          | some b => (boxTiles f.desc.tw b).contains t.tile
          | none => false
        let all := (List.range total).map fun i => primOf ((bs.drop (64 * i)).take 64)
        .ok ({ t with prims := all.filter mine, pixels := visOf all vs }, s)

/-- A tile of an earlier batch than the tile's is not resolved and kept yet (R325). -/
def batchWaits (p : RenderDie) (tile : Nat) : Bool :=
  (List.range p.tiles.length).any fun i => decide (tileBatch i < tileBatch (tilePlace p tile)) && match p.tiles[i]? with | some t => t.st == .binning | none => false

/-- A tile with its visibility final: the tiles of the first batch are resolved as primitives are released, those of a later one when their batch is in the store (R325). -/
def resolvedTile (f : Frame) (p : RenderDie) (t : Tile) : Tile :=
  if tileBatch (tilePlace p t.tile) = 0 then t else { t with pixels := t.prims.foldl (resolvePrim f.desc t.tile) [] }

/-- A tile's swells may start: CLEAR is written behind what earlier swells stored, and the opaque pixel swells wait to start (R327, R328, R332). -/
def startTile (s : State) (lid die : Nat) (l : Launch) (f : Frame) (t : Tile) : State :=
  let u : DevUser := .tile lid die t.tile
  let s := devDone (clearWrites (stageAcquire s l die) die l.ctx u (clearPieces f.desc t.tile) []) l.ctx u
  let ws := opaqueSwells l lid f t
  let s := queueSwells (s.updTile lid die t.tile fun _ => { t with st := .opaqueRun }) lid die l ws
  if ws = [] then s.postOnce 1 (.blendSwellsStart die lid t.tile) else s

/-- TILE_SHADE_START (R325, R327, R328, R332, R337): the tile's visibility is resolved and kept in the bin region, or comes from there in a re-shade launch; then its swells may start. A tile of a later batch follows those of the earlier ones. A tile that is still being shaded runs again afterwards. -/
def execTileShadeStart (die launch tile : Nat) (s : State) : Host.Outcome State Fault Refusal :=
  .next <|
    match partOf s launch die with
    | none => s
    | some (l, f, p) =>
      match p.tiles.find? fun t => t.tile == tile with
      | none => s
      | some t =>
        let u : DevUser := .tile launch die tile
        let again (s : State) (ticks : Nat) : State := s.post ticks (.tileShadeStart die launch tile)
        let s := if l.active then stageRelease s l else s
        if l.active = false then s
        else if t.st == .opaqueRun || t.st == .blendRun || stageHeld s launch l || (!f.desc.reshade && batchWaits p tile) then again s 256
        else
          let t := if f.desc.reshade then t else resolvedTile f p t
          let bins := if f.desc.reshade then [] else binPieces f p t
          let (wait, s) := clearWaits s die l.ctx u (clearPieces f.desc tile ++ bins)
          if wait then again s 4096
          else if f.desc.reshade then
            match loadTile s l.ctx u f p t with
            | .error s => again s 4096
            | .ok (t, s) => startTile s launch die l f t
          else startTile (binWrites s die l.ctx u bins) launch die l f t

/-- Blend swells that may start: no blend swell of an earlier draw of their block is left (R330). -/
def blendReady (s : State) (lid tile : Nat) (bs : List (Nat × Prim × Nat)) (b : Nat × Prim × Nat) : Bool :=
  !(bs.any fun x => x.1 == b.1 && decide (x.2.1.draw < b.2.1.draw)) &&
    !launchSwells s lid fun w => match w.role with | .blendPix t d q => t == tile && q == b.1 && decide (d < b.2.1.draw) | _ => false

/-- BLEND_SWELLS_START (R329, R330, R332): once the tile's opaque swells have ended its blend swells start, draw by draw in each block; with none left the tile is finished. -/
def execBlendSwellsStart (die launch tile : Nat) (s : State) : Host.Outcome State Fault Refusal :=
  .next <|
    match partOf s launch die with
    | none => s
    | some (l, f, p) =>
      match p.tiles.find? fun t => t.tile == tile with
      | none => s
      | some t =>
        let opaqueLeft := launchSwells s launch fun w => match w.role with | .opaquePix u => u == tile | _ => false
        let s := if l.active && !opaqueLeft then stageRelease s l else s
        if l.active = false ∨ opaqueLeft then s
        else if stageHeld s launch l then s.postOnce 256 (.blendSwellsStart die launch tile)
        else if t.st == .opaqueRun || t.st == .blendRun then
          let bs := if t.st == .opaqueRun then blendList f t else t.blends
          let all := blendList f t
          let go := bs.filter (blendReady s launch tile bs)
          let rest := bs.filter fun b => !go.contains b
          let blendLeft := go != [] || rest != [] || launchSwells s launch fun w => match w.role with | .blendPix u _ _ => u == tile | _ => false
          let s := s.updTile launch die tile fun t => { t with st := if blendLeft then .blendRun else .finished, blends := rest }
          let last (b : Nat × Prim × Nat) : Bool := !all.any fun x => x.1 == b.1 && x.2.1.draw == b.2.1.draw && decide (b.2.2 < x.2.2)
          if go = [] then (if blendLeft then s else (s.slabRunFall die l.ctx).postOnce 1 (.launchCompletion launch))
          else queueSwells (stageAcquire s l die) launch die l (go.map fun b => blendSwell l launch f t b (last b))
        else s

/-! ## RSHADE (R337) -/

/-- Clear the map bit of each lane's tile, in ascending order; a tile whose bit was set is queued for re-shading. -/
def reshadeLanes (s : State) (w : Swell) (f : Frame) (tileOf : Nat → Nat) : List LaneLoc → List (Nat × List Word) × State
  | [] => ([], s)
  | l :: ls =>
    let t := tileOf l.lane
    let s := atHome s (coreOfKey s.cur.key) l.loc
    let old := byteAt s.mem l.loc.pa
    let set := old.getLsbD (t % 8)
    let s := if set then
        let s := homeWrite s w.ctx (dieOfKey s.cur.key) l.loc [old &&& ~~~(BitVec.twoPow 8 (t % 8))]
        let d := (f.tmap[t]?).getD 0
        s.post (transit (dieOfKey s.cur.key) d) (.tileShadeStart d w.launch t)
      else s
    let (r, s) := reshadeLanes s w f tileOf ls
    ((l.lane, [if set then 0 else 1]) :: r, s)

/-- RSHADE (R337): only in a re-shade launch. -/
def execRshade (o : Reg2LA) (s : State) : Host.Outcome State Fault Refusal :=
  issueChecked { pmx := true, brk := true, writes := [o.d] } (packReg 0x3B o.d o.a 2 o.la)
    (fun w _ => match frameOf s w with | some f => !f.desc.reshade | none => true) [o.d.toNat, o.a.toNat] s fun w f =>
    match frameOf s w with
    | none => .next s
    | some fr =>
      let lanes := (lanesOf (lanesActive w f f.pmx)).map fun l => l.val
      let tileOf (l : Nat) : Nat := (vLane w o.a l).toNat
      let inside := lanes.filter fun l => tileOf l < fr.desc.tw * fr.desc.th
      let as := inside.map fun l => LaneAcc.mk l (fr.desc.rmap + BitVec.ofNat 64 (tileOf l / 8)) 1
      memAccess s w f .atomic as false fun s ls =>
        if ls.any fun l => homeBusy s l.loc || behindOwn s s.cur s.nextMsg l.loc 1 then .stall s
        else match ls.find? fun l => badBytes s l.loc 1 with
        | some l => .fault s ⟨.data, l.va, l.lane, true, false⟩
        | none =>
          let (res, s) := reshadeLanes s w fr tileOf ls
          let out := (lanes.filter fun l => fr.desc.tw * fr.desc.th ≤ tileOf l).map fun l => (l, [2#32])
          .next (s.updSwell s.cur.swell fun w => w.writeLanes o.d (res ++ out))

end Sys2Proof.Machine
end

