-- ==== Sys2Proof/Machine/Schedule.lean ====
section
/-! DEFINITION. A core's partition, its slow register file and its active set: placing swells, moves between the register files, displacement and compaction (R172 to R178, R396, R398, R399). -/

namespace Sys2Proof.Machine

/-! ## Partitions (R176 to R178, R396, R398, R399) -/

/-- BND.TOP of every launch (R396). -/
def bayTop : Nat := 720 * 1024
/-- BND.SCR of a bay. -/
def Bay.bndScr (b : Bay) : Nat := bayTop - b.l1 * 1024
/-- BND.REG of a bay. -/
def Bay.bndReg (b : Bay) : Nat := b.bndScr - (b.scratch + 1) * 1024

/-- The swells resident on a core, by slot. -/
def coreSwells (s : State) (c : Nat) : List (Nat × Swell) := s.swells.filter fun x => coreOfKey x.1 == c

/-- The first core of the context's pilot bay, once the pilot launch exists (R399). -/
def pilotCore (s : State) (ctx : Nat) : Option Nat :=
  s.launches.findSome? fun x => if x.2.ctx == ctx && x.2.pilot && x.2.active then some (coreAt x.2.prow x.2.pcol) else none

/-- Scratch offset of a mailbox word (R399). -/
def mbOffset (s : State) (ctx i : Nat) : Nat := (s.ctx ctx).field 0x50 4 + 4 * i

/-- Whether a core has the boundaries of a bay. -/
def hasBounds (k : Core) (b : Bay) : Bool := k.bndReg.toNat == b.bndReg && k.bndScr.toNat == b.bndScr && k.bndTop.toNat == bayTop

/-- Whether a core can start or resume swells of a launch now (R398): it is empty, or holds the launch's context with the launch's boundaries. -/
def canHold (s : State) (c : Nat) (l : Launch) : Bool :=
  (coreSwells s c).isEmpty || ((s.core c).ctx == some l.ctx && hasBounds (s.core c) l.bay)

/-- The core leaves its context's partition: mailbox words that it holds are kept, with their tags (R399). -/
def keepMailbox (s : State) (c : Nat) : State :=
  match (s.core c).ctx with
  | none => s
  | some k =>
    if pilotCore s k = some c then
      let x := s.core c
      s.updCtx k fun y => { y with
        mbWords := (List.range 32).map fun i => wordOfList (readBytes x.scratch (mbOffset s k i) 4)
        mbFull := (List.range 32).foldl (fun m i => if x.full.contains (mbOffset s k i / 4) then m ||| BitVec.twoPow 32 i else m) 0 }
    else s

/-- The context's partition is set on its pilot's core: the kept mailbox words come back (R399). -/
def putMailbox (s : State) (c k : Nat) : State :=
  if pilotCore s k = some c then
    (List.range 32).foldl (fun s i => s.updCore c fun x =>
      x.setWord (mbOffset s k i) (((s.ctx k).mbWords[i]?).getD 0) ((s.ctx k).mbFull.getLsbD i)) s
  else s

/-- Empty a core's save area into the contexts' save regions before its contents are discarded (R178, R193; log 23). -/
def emptySave (s : State) (c : Nat) : Except State State :=
  (s.core c).save.foldl (fun r w =>
    match r with
    | .error s => .error s
    | .ok s => match saveInMemory s (dieOfCore c) w with
      | .error s => .error s
      | .ok s => .ok (s.updCore c fun k => { k with save := k.save.filter fun x => x.uid != w.uid })) (.ok s)

/-- Set the partition of a launch on a core without swells (R178, R398): with new boundaries the L1 is cleaned and invalidated and the save area emptied; with new boundaries or another context scratch becomes 0 with every tag empty. The error state waits for a page. -/
def setPartition (s : State) (c : Nat) (l : Launch) : Except State State :=
  let same := hasBounds (s.core c) l.bay
  if same ∧ (s.core c).ctx = some l.ctx then .ok s
  else
    match (if same then .ok s else emptySave s c) with
    | .error s => .error s
    | .ok s =>
      let s := keepMailbox s c
      let s := if same then s else (l1FlushAll s c).updCore c fun k => { k with l1 := [] }
      let s := s.updCore c fun k => { k with
        bndReg := BitVec.ofNat 32 l.bay.bndReg, bndScr := BitVec.ofNat 32 l.bay.bndScr, bndTop := BitVec.ofNat 32 bayTop, ctx := some l.ctx,
        scratch := [], full := [], badWords := [], latch := [] }
      .ok (putMailbox s c l.ctx)

/-! ## Slots and slow allocations (R172, R175) -/

/-- The lowest free slot of a core. -/
def freeSlot (s : State) (c : Nat) : Option Nat := (List.range 32).find? fun i => !s.swells.any fun x => x.1 == 32 * c + i

/-- Slow allocations of a core in KiB: base and size. -/
def slowSpans (s : State) (c : Nat) : List (Nat × Nat) := (coreSwells s c).map fun x => (x.2.slowBase, slowKib x.2.n)

/-- KiB of the slow file. -/
def slowSize (s : State) (c : Nat) : Nat := (s.core c).bndReg.toNat / 1024

/-- Free KiB of the slow file. -/
def slowFree (s : State) (c : Nat) : Nat := slowSize s c - ((slowSpans s c).map fun x => x.2).sum

/-- The lowest contiguous place for n V registers in [0, BND.REG). -/
def slowPlace (s : State) (c n : Nat) : Option Nat :=
  let us := slowSpans s c
  ((0 :: us.map fun x => x.1 + x.2).filter fun a =>
    decide (a + slowKib n ≤ slowSize s c) && us.all fun x => decide (a + slowKib n ≤ x.1) || decide (x.1 + x.2 ≤ a)).min?

/-- Put a swell on a core, in a free slot and at a placed allocation: it is pending, and its runnable fragments are ready from now (R172, R174). -/
def State.placeSwell (s : State) (key base : Nat) (w : Swell) : State :=
  let w : Swell := { w with active := false, slowBase := base, core := coreOfKey key, ents := w.ents.map fun (f : Frag) => { f with readyAt := s.now, age := 0 } }
  { s with swells := kvSet s.swells key w }

/-- The allocations of a core slid toward offset 0 in address order: key and new base (R175). -/
def slideFrom (at_ : Nat) : List (Nat × Swell) → List (Nat × Nat)
  | [] => []
  | x :: t => (x.1, at_) :: slideFrom (at_ + slowKib x.2.n) t

/-- Insert a swell by its base. -/
def insertBase (x : Nat × Swell) : List (Nat × Swell) → List (Nat × Swell)
  | [] => [x]
  | y :: t => if x.2.slowBase < y.2.slowBase then x :: y :: t else y :: insertBase x t

/-- Where compaction puts each swell of a core. -/
def slideList (s : State) (c : Nat) : List (Nat × Nat) := slideFrom 0 ((coreSwells s c).foldl (fun l x => insertBase x l) [])

/-- Start a compaction: only pending swells that move are copied, 512 bytes a cycle (R175). -/
def startCompaction (s : State) (c : Nat) : State :=
  let copied := (coreSwells s c).filter fun x => !x.2.active && (slideList s c).any fun y => y.1 == x.1 && y.2 != x.2.slowBase
  s.postOnce (2 * (copied.map fun x => slowKib x.2.n).sum) (.compaction c)

/-- Whether a core compacts. -/
def compacting (s : State) (c : Nat) : Bool := s.due.any fun x => match x.2 with | .compaction k => k == c | _ => false

/-- Ticks until a core's compaction ends, for a swell whose allocation it copies (R175). -/
def copyLeft (s : State) (c : Nat) (key : Nat) (w : Swell) : Nat :=
  match s.due.find? fun x => match x.2 with | .compaction k => k == c | _ => false with
  | some x => if (slideList s c).any fun y => y.1 == key && y.2 != w.slowBase then x.1 - s.now else 0
  | none => 0

/-- COMPACTION (R175): every allocation lies where it slides to. -/
def execCompaction (core : Nat) (s : State) : Host.Outcome State Fault Refusal :=
  .next ((slideList s core).foldl (fun s y => { s with swells := match kvGet s.swells y.1 with
    | some w => kvSet s.swells y.1 { w with slowBase := y.2 }
    | none => s.swells }) s)

/-! ## The active set (R173, R174) -/

/-- A move of the swell is under way. -/
def movingIn (s : State) (key uid : Nat) : Bool := s.due.any fun x => match x.2 with | .swellMoveIn w => w.key == key && w.uid == uid | _ => false
/-- A move out of the swell is under way. -/
def movingOut (s : State) (key uid : Nat) : Bool := s.due.any fun x => match x.2 with | .swellMoveOut w => w.key == key && w.uid == uid | _ => false

/-- Every live fragment is at a blocking point, at FUSE or fault-held (R174). -/
def Swell.blocked (w : Swell) : Bool := w.liveEnts.all fun e => (w.ent e).st == 1 || (w.ent e).st == 2 || (w.ent e).st == 4

/-- The tick since which the oldest ready fragment of a swell has been ready. -/
def Swell.readySince (w : Swell) : Option Nat :=
  ((w.liveEnts.filter fun e => (w.ent e).st == 0 || (w.ent e).st == 5).map fun e => (w.ent e).readyAt).min?

/-- Effective priority of a fragment whose next word is an instruction (R169). -/
def fragPri (w : Swell) (f : Frag) : Nat :=
  match f.hints.sched with
  | some x => if x.tpe then x.tp.toNat else w.pri.toNat % 8
  | none => w.pri.toNat % 8

/-- Effective priority of a fragment whose next word is known: a HINT itself issues at PRI (R169). -/
def wordPri (w : Swell) (f : Frag) (x : Word) : Nat := if isHint x then w.pri.toNat % 8 else fragPri w f

/-- The highest priority over a swell's live fragments. -/
def topPri (s : State) (key : Nat) (w : Swell) : Nat :=
  (w.liveEnts.map fun e =>
    match nextWord s ⟨key, w.uid, e⟩ w (w.ent e) with
    | .word x => wordPri w (w.ent e) x
    | _ => fragPri w (w.ent e)).foldl Nat.max 0

/-- Fast-file room for a swell with n registers: at most 8 swells and 131,072 bytes, moves in counted (R173). -/
def fastRoom (s : State) (c n : Nat) : Bool :=
  let a := (coreSwells s c).filter fun x => x.2.active || movingIn s x.1 x.2.uid
  decide (a.length < 8) && decide ((a.map fun x => slowKib x.2.n).sum + slowKib n ≤ 128)

/-- Cycles of a move (R174). -/
def moveTicks (n : Nat) : Nat := 2 * slowKib n

/-- The pending swell whose ready fragment has waited longest, the lower slot in a tie. A swell that compaction copies stays out. -/
def nextIn (s : State) (c : Nat) : Option (Nat × Swell × Nat) :=
  (coreSwells s c).foldl (fun b x =>
    if x.2.active || movingIn s x.1 x.2.uid || copyLeft s c x.1 x.2 != 0 then b
    else match x.2.readySince, b with
      | some t, some (_, _, u) => if t < u then some (x.1, x.2, t) else b
      | some t, none => some (x.1, x.2, t)
      | none, _ => b) none

/-- The scheduler of a core looks at its active set (R174): a pending swell moves in when there is room; else a blocked swell moves out, the first of the core's slots (log 67); else, after 2,048 cycles, a swell is displaced. -/
def scheduleCore (s : State) (c : Nat) : State :=
  match nextIn s c with
  | none => s
  | some (key, w, since) =>
    if fastRoom s c w.n then s.post (moveTicks w.n) (.swellMoveIn ⟨key, w.uid⟩)
    else if (coreSwells s c).any fun x => movingOut s x.1 x.2.uid then s
    else match (coreSwells s c).find? fun x => x.2.active && x.2.blocked with
      | some x => s.post (moveTicks x.2.n) (.swellMoveOut ⟨x.1, x.2.uid⟩)
      | none => if since + 2048 ≤ s.now then s.postOnce 0 (.forcedDisplacement c) else s

/-- SWELL_MOVE_IN (R173 to R175): a pending swell's registers are in the fast file, when there is room; one that compaction copies waits for the copy's end. -/
def execSwellMoveIn (sw : SwellId) (s : State) : Host.Outcome State Fault Refusal :=
  .next <|
    match s.swellAt sw with
    | none => s
    | some w =>
      let c := coreOfKey sw.key
      let a := (coreSwells s c).filter fun x => x.2.active
      if copyLeft s c sw.key w ≠ 0 then s.post (copyLeft s c sw.key w) (.swellMoveIn sw)
      else if w.active || !(decide (a.length < 8) && decide ((a.map fun x => slowKib x.2.n).sum + slowKib w.n ≤ 128)) then s
      else s.updSwell sw fun w => { w with active := true, movedIn := 1 + ((coreSwells s c).map fun x => x.2.movedIn).foldl Nat.max 0 }

/-- SWELL_MOVE_OUT (R174): the swell's registers are in its slow allocation; it is pending, and its ready fragments count as ready from now, so that a swell that has waited goes in before one displaced for it (R46; log 75). -/
def execSwellMoveOut (sw : SwellId) (s : State) : Host.Outcome State Fault Refusal :=
  .next (s.updSwell sw fun w => { w with active := false, ents := w.ents.map fun (f : Frag) => { f with readyAt := if f.st = 0 ∨ f.st = 5 then s.now else f.readyAt } })

/-- The active swell that a forced displacement moves out: one that is blocked by now (log 67), else the lowest highest priority, the one moved in last in a tie (R174). -/
def displaced (s : State) (c : Nat) : Option (Nat × Swell) :=
  ((coreSwells s c).find? fun x => x.2.active && !movingOut s x.1 x.2.uid && x.2.blocked) <|> (coreSwells s c).foldl (fun b x =>
    if !x.2.active || movingOut s x.1 x.2.uid then b
    else match b with
      | none => some x
      | some y => if topPri s x.1 x.2 < topPri s y.1 y.2 ∨ (topPri s x.1 x.2 = topPri s y.1 y.2 ∧ y.2.movedIn < x.2.movedIn) then some x else b) none

/-- FORCED_DISPLACEMENT (R174): only while a pending swell's ready fragment has waited 2,048 cycles and finds no room, an active swell begins to move out. -/
def execForcedDisplacement (core : Nat) (s : State) : Host.Outcome State Fault Refusal :=
  .next <|
    match nextIn s core with
    | some (_, w, since) =>
      if since + 2048 ≤ s.now ∧ !fastRoom s core w.n then
        match displaced s core with
        | some x => s.post (moveTicks x.2.n) (.swellMoveOut ⟨x.1, x.2.uid⟩)
        | none => s
      else s
    | none => s

end Sys2Proof.Machine
end

