-- ==== Sys2Proof/Machine/Service.lean ====
section
/-! DEFINITION. The fault service and the fault queue, page requests to the host, and the delivery of asynchronous faults (R51, R52, R54, R60, R293, R378, R412, R417). -/

namespace Sys2Proof.Machine

/-! ## Requests (R293, R417) -/

/-- The KIND byte of a fault-queue entry (R417). -/
def kindByte (k : ReqKind) : Nat := (if k.write then 1 else 0) + (if k.fetch then 2 else 0) + (if k.engine then 4 else 0) + (if k.tex then 8 else 0)

/-- Write a request into the context's fault queue, when that has room: its ID is FQHEAD (R417). -/
def fqWrite (s : State) (r : PageReq) : Option Word × State :=
  let c := s.ctx r.ctx
  if c.fqhead - c.fqtail = 4096 then (none, s)
  else
    let bs := bytesOfNat (r.page * 65536) 8 ++ wordBytes c.fqhead ++ bytesOfNat (kindByte r.kind) 1 ++ bytesOfNat r.die 1 ++ bytesOfNat 0 2
    (some c.fqhead, s.updCtx r.ctx fun c => { c with bar := writeBytes c.bar (0x30000 + 16 * (c.fqhead.toNat % 4096)) bs, fqhead := c.fqhead + 1 })

/-- The outstanding entry for a page, on any die (R417). -/
def fqEntry (s : State) (ctx page : Nat) : Option Word :=
  s.dies.findSome? fun x => x.2.reqs.findSome? fun r => if r.ctx == ctx && r.page == page then r.fqid else none

/-- Insert a request by the order in which requests were made. -/
def insertReq (r : PageReq) : List PageReq → List PageReq
  | [] => [r]
  | x :: xs => if r.seq < x.seq then r :: x :: xs else x :: insertReq r xs

/-- The place of a new request in that order. -/
def nextReqSeq (s : State) : Nat := s.dies.foldl (fun n x => x.2.reqs.foldl (fun n r => Nat.max n (r.seq + 1)) n) 0

/-- Write entries for requests that wait for room in the fault queue, the earliest first (R417). -/
def fqFlush (s : State) (ctx : Nat) : State :=
  let todo := s.dies.flatMap fun x => x.2.reqs.filter fun r => r.ctx == ctx && !r.host && r.fqid.isNone
  (todo.foldl (fun l r => insertReq r l) []).foldl (fun s r =>
    let (id, s) := match fqEntry s ctx r.page with
      | some i => (some i, s)
      | none => fqWrite s r
    match id with
    | some i => { s with dies := s.dies.map fun (x : Nat × Die) => (x.1, { x.2 with reqs := x.2.reqs.map fun y =>
        if y.ctx == ctx && y.page == r.page && y.fqid.isNone then { y with fqid := some i } else y }) }
    | none => s) s

/-- Those who wait for a page with a request (R51, R255, R422): a fragment, or its wake word while it is in the continuation; else every stalled engine command of the die and every put that waits for the page, or the device itself. -/
def askersOf (s : State) (die ctx page : Nat) (kind : ReqKind) (who : Option FragId) : List Asker :=
  match who with
  | some fr =>
    match anySwell s fr.uid with
    | none => []
    | some (_, w) =>
      match (w.ent fr.ent).wait with
      | some (.service _ _) => [.swell fr]
      | _ => [.token page fr]
  | none =>
    if kind.engine then
      ((List.range 4).flatMap fun i => (List.range 5).flatMap fun e => ((s.engine (4 * die + i) e).cmds.filter fun m =>
          m.ctx == ctx && m.stall == some page).map fun m => Asker.engine (4 * die + i) e m.seq)
        ++ (s.pkg.heldPuts.filter fun x => x.1.ctx == ctx && x.2.1 == page && !x.2.2).map fun x => Asker.put x.1
    else if kind.tex then [] else [.device]

/-- A request joins the die's list, one per page of a context; a new one is written to the fault queue (R293, R417). -/
def requestPage (s : State) (die ctx page : Nat) (kind : ReqKind) (host : Bool) (who : List Asker) : State :=
  let name := pageName s ctx page
  if (s.die die).reqs.any fun r => r.ctx == ctx && r.page == name then
    s.updDie die fun d => { d with reqs := d.reqs.map fun r =>
      if r.ctx == ctx && r.page == name then { r with who := r.who ++ who.filter fun x => !r.who.contains x } else r }
  else
    let r : PageReq := ⟨ctx, name, kind, die, who, none, host, nextReqSeq s⟩
    let s := s.updDie die fun d => { d with reqs := d.reqs ++ [r] }
    if host then s else fqFlush s ctx

/-- Requests wait at node 0 while the die's firmware is updated, and where the service is full (R293, R432). -/
def serviceBusy (s : State) (die ctx page : Nat) : Bool :=
  (s.die die).updating || (decide (1024 ≤ (s.die die).reqs.length) && !(s.die die).reqs.any fun r => r.ctx == ctx && r.page == pageName s ctx page)

/-- Whether a request has a context to serve (R293): while the context is torn down, only the device's own for the report. -/
def serviceServes (s : State) (ctx page : Nat) (kind : ReqKind) (who : Option FragId) : Bool :=
  match (s.ctx ctx).status with
  | 0 | 6 => false
  | 5 => who.isNone && !kind.engine && !kind.tex && (s.ctx ctx).devWaits.contains (pageName s ctx page, .teardown)
  | _ => true

/-- FAULT_SERVICE_REQUEST (R293, R417): requests for one page are coalesced; a host page is asked of the host through PRI (R412). -/
def execFaultServiceRequest (die ctx page : Nat) (kind : ReqKind) (who : Option FragId) (s : State) : Host.Outcome State Fault Refusal :=
  .next <|
    if !serviceServes s ctx page kind who then s
    else if serviceBusy s die ctx page then s.post 256 (.faultServiceRequest die ctx page kind who)
    else if isHost (BitVec.ofNat 64 (page * 65536)) then s.postOnce 1 (.priPageRequest ctx page kind who)
    else requestPage s die ctx page kind false (askersOf s die ctx page kind who)

/-- PRI_PAGE_REQUEST (R412): the lead die's service asks the host for a page and keeps the request until the answer. -/
def execPriPageRequest (ctx page : Nat) (kind : ReqKind) (who : Option FragId) (s : State) : Host.Outcome State Fault Refusal :=
  let die := match who with | some fr => dieOfKey fr.key | none => s.pkg.lead
  let who' := if who.isNone ∧ kind.engine then (List.range 64).flatMap fun d => askersOf s d ctx page kind none else askersOf s die ctx page kind who
  .next (if serviceServes s ctx page kind who then requestPage s die ctx page kind true who' else s)

/-! ## Answers -/

/-- A refusal is noted for a fragment. -/
def Frag.deny (f : Frag) (x : Denial) : Frag := { f with denied := x :: f.denied.filter fun y => y != x }

/-- After an answer of 2 the access that a waiting fragment repeats from its REP takes PERM once (R52). -/
def denyPage (s : State) (fr : FragId) (page : Nat) (result : Nat) : State :=
  if result = 2 then s.updUid fr.uid fun w => let f := w.ent fr.ent; w.setEnt fr.ent (f.deny ⟨page, f.rep, f.inCont, f.priv != 0⟩) else s

/-- After an answer of 2 to a wake word the access that the fragment repeats when its continuation has resumed the region takes PERM once (R52). -/
def denyToken (s : State) (fr : FragId) (page : Nat) (result : Nat) : State :=
  if result = 2 then s.updUid fr.uid fun w =>
    let f := w.ent fr.ent
    w.setEnt fr.ent (match f.contAsk with | some (p, rep) => if p = page then f.deny ⟨page, rep, false, false⟩ else f | none => f)
  else s

/-- The status word at 0x010 of a swell's image in memory follows the saved state of its wake word (R54, R62). -/
def saveStatus (s : State) (uid : Nat) : State :=
  match s.ctxs.findSome? fun x => (x.2.images.find? fun y => y.1 == uid).map fun y => (x.1, y) with
  | none => s
  | some (ctx, _, a, w) =>
    match agentPlace s (dieOfCore w.core) ctx false .store (a.toNat + 0x10) 4 none with
    | (.ok l, s) => homeWrite s ctx (dieOfCore w.core) l (wordBytes (statusWord w w.wakeFull w.wakeVal))
    | (_, s) => s

/-- The service fills the wake word of a swell (R52); while the swell is away, its saved state (R54). -/
def fillWake (s : State) (uid result : Nat) : State :=
  match s.findUid uid with
  | some (k, _) => s.fillWord (coreOfKey k) (wakeOffset (s.core (coreOfKey k)) (slotOfKey k)) (BitVec.ofNat 32 result)
  | none => saveStatus (s.updSaved uid fun w => { w with wakeFull := true, wakeVal := BitVec.ofNat 32 result }) uid

/-- Answer one asker with 1 or 2 (R52, R54, R255, R293): the wake word is filled, a waiting fragment runs its region again, a command or a put goes on or fails. A swell that is away keeps the answer in its saved state. -/
def answerAsker (s : State) (ctx page result : Nat) : Asker → State
  | .swell fr =>
    match anySwell s fr.uid with
    | none => s
    | some (key, w) =>
      match (w.ent fr.ent).wait with
      | some (.service p _) =>
        if p ≠ page ∧ p / 512 * 512 ≠ page then s else
        let s := denyPage s fr p result
        match key with
        | some k => (fillWake s fr.uid result).wakeFrag { fr with key := k }
        | none => s.updSaved fr.uid fun w => w.setEnt fr.ent { w.ent fr.ent with wval := BitVec.ofNat 64 result }
      | _ => s
  | .token p fr =>
    fillWake (denyToken s fr p result) fr.uid result
  | .engine cl e seq =>
    (s.updCmd cl e seq fun m => { m with stall := none, denied := if result = 2 then m.stall else none }).postOnce 1 (.engineStep cl e)
  | .put p =>
    { s with pkg := { s.pkg with heldPuts := if result = 2 then s.pkg.heldPuts.map fun (x : PutIn × Nat × Bool) => if x.1 == p then (x.1, x.2.1, true) else x
                                             else s.pkg.heldPuts.filter fun x => x.1 != p } }.post 1 (.putArrival p)
  | .device =>
    let s := devAnswer s ctx page (result == 2)
    let s := if (s.ctx ctx).status = 1 then s.postOnce 1 (.contextCreate ctx) else s
    s.launches.foldl (fun s x => if x.2.ctx == ctx && x.2.st == .running then s.postOnce 1 (.launchCompletion x.1) else s) s

/-- Answer every request of every die for a page together (R293). -/
def answerPage (s : State) (ctx page result : Nat) : State :=
  (List.range 64).foldl (fun s d =>
    let mine (r : PageReq) : Bool := r.ctx == ctx && r.page == page
    let who := ((s.die d).reqs.filter mine).flatMap fun r => r.who
    let s := if (s.die d).reqs.any mine then s.updDie d fun x => { x with reqs := x.reqs.filter fun r => !mine r } else s
    who.foldl (fun s a => answerAsker s ctx page result a) s) s

/-- FAULT_ANSWER (R414, R417): an FQANS whose entry is outstanding answers its page with 1 or 2; any other is logged with KIND 7 and changes nothing. -/
def execFaultAnswer (ctx : Nat) (word : Addr) (s : State) : Host.Outcome State Fault Refusal :=
  let id := loWord word
  let result := (word.extractLsb' 32 2).toNat
  let req := s.dies.findSome? fun x => x.2.reqs.find? fun r => r.ctx == ctx && r.fqid == some id
  .next <|
    if (result = 1 ∨ result = 2) ∧ word.extractLsb' 34 30 = 0 then
      match req with
      | some r => answerPage s ctx r.page result
      | none => s.logError ctx ⟨7, s.pkg.lead, 0, 0, 0, 0, word⟩
    else s.logError ctx ⟨7, s.pkg.lead, 0, 0, 0, 0, word⟩

/-- PRI_PAGE_RESPONSE (R412): the host has made a page present, or cannot. -/
def execPriPageResponse (ctx page : Nat) (ok : Bool) (s : State) : Host.Outcome State Fault Refusal :=
  .next (answerPage s ctx page (if ok then 1 else 2))

/-! ## Asynchronous faults (R60) -/

/-- The fragment a pending fault goes to: the one that issued the store or command if it is live, else the lowest-numbered live one. -/
def asyncTarget (w : Swell) (e : BitVec 3) : Option Nat := if (w.ent e.toNat).live then some e.toNat else w.liveEnts.head?

/-- The pending faults in the order they are taken: the one that became pending first, ENGINE in the same cycle; true is ENGINE. -/
def asyncOrder (p : Pending) : List Bool :=
  match p.late, p.engine with
  | false, false => []
  | true, false => [false]
  | false, true => [true]
  | true, true => if p.engineFirst then [true, false] else [false, true]

/-- The pending faults that can go now, each with its target: the first one of every target (R60). -/
def asyncReady (w : Swell) : List (Bool × Nat) :=
  let all := (asyncOrder w.pend).filterMap fun g => (asyncTarget w (if g then w.pend.engineTarget else w.pend.target)).map fun e => (g, e)
  match all with
  | [x, y] => if x.2 = y.2 then [x] else [x, y]
  | l => l

/-- Enter the handler for a pending fault of the fragment, and clear what it reports (R57, R60). -/
def takeAsync (s : State) (id : FragId) (engine : Bool) : State :=
  match s.swellAt id.swell with
  | none => s
  | some w =>
    if engine then
      (s.updSwell id.swell fun w => { w with pend := { w.pend with engine := false, engineVal := 0, engineFirst := false } }).enterHandler id
        (fcauseWord true false 0 id.ent 0 FaultCode.engine.num) w.pend.engineVal
    else
      (s.updSwell id.swell fun w => { w with pend := { w.pend with late := false, count := 0, tide := 0, engineFirst := w.pend.engine } }).enterHandler id
        (fcauseWord true false w.pend.count.toNat id.ent 0 FaultCode.late.num) w.pend.tide

/-- The fragment is at an instruction boundary where the fault can be taken: it runs, holds no HINT, and nothing of it is outstanding (R60, R71, R73). -/
def atBoundary (f : Frag) : Bool := f.st == 0 && f.hints.words == [] && f.outst == [] && f.walkWait == []

/-- Deliver a pending fault to its fragment if that can be done now: at its boundary, at its FUSE (R154), or after its wait has been withdrawn. -/
def deliverTo (s : State) (id : FragId) (engine : Bool) : State :=
  match s.fragAt id with
  | none => s
  | some (w, f) =>
    if w.busy then s
    else if atBoundary f || f.st == 2 then takeAsync s id engine
    else
      let s := match f.st, f.hints.words, f.waitOf with
        | 0, [], some (o, _) => s.blockOn id o
        | _, _, _ => s
      match s.withdraw id with
      | some s =>
        match s.fragAt id with
        | some (_, f) => if f.st == 0 && f.outst == [] then takeAsync s id engine else s
        | none => s
      | none => s

/-- Deliver the swell's pending faults that can go now: one that cannot go to its fragment yet does not hold another fragment's (R60). -/
def deliverAsync (s : State) (sw : SwellId) : State :=
  match s.swellAt sw with
  | none => s
  | some w => (asyncReady w).foldl (fun s x => deliverTo s ⟨sw.key, sw.uid, x.2⟩ x.1) s

/-- ASYNC_FAULT_DELIVERY (R60). -/
def execAsyncFaultDelivery (sw : SwellId) (s : State) : Host.Outcome State Fault Refusal := .next (deliverAsync s sw)

/-- LATE_NOTICE (R60, R378): with SCFG.LATEF the swell's LATE becomes pending with the first tidemark, or its count increases; else the notice changes nothing. -/
def execLateNotice (fr : FragId) (tidemark : Addr) (s : State) : Host.Outcome State Fault Refusal :=
  let s := s.updUid fr.uid fun w =>
    if !w.scfg.getLsbD 6 then w
    else if w.pend.late then { w with pend := { w.pend with count := if w.pend.count = 255 then 255 else w.pend.count + 1 } }
    else { w with pend := { w.pend with late := true, count := 1, tide := tidemark, target := BitVec.ofNat 3 fr.ent, lateAt := s.now } }
  .next <|
    match s.findUid fr.uid with
    | some (k, _) => s.postOnce 1 (.asyncFaultDelivery ⟨k, fr.uid⟩)
    | none => s

end Sys2Proof.Machine
end

