-- ==== Sys2Proof/Machine/Sluice.lean ====
section
/-! DEFINITION. Keyed ordered sections: the words of SECT, the home's operations on an entry, time-outs, kept answers, spill and reload (R294 to R315). -/

namespace Sys2Proof.Machine

/-! ## Where a key lives (R294) -/

/-- h of a key. -/
def keyHash (k : Addr) : Nat :=
  ((k.extractLsb' 0 16 ^^^ k.extractLsb' 16 16 ^^^ k.extractLsb' 32 16 ^^^ k.extractLsb' 48 16).toNat * 0x9E37) % 65536

/-- Home die of a key of a context: a die of its sluice die list. -/
def keyHome (s : State) (ctx : Nat) (k : Addr) : Nat :=
  let l := (s.ctx ctx).sluiceDies
  (l[keyHash k * l.length / 65536]?).getD 0

/-- Set of a key in its home's table. -/
def keySet (ctx : Nat) (k : Addr) : Nat := (keyHash k % 512) ^^^ ctx

/-- Ticks of a section message between two dies (R181). -/
def sectTicks (a b : Nat) : Nat := 20 + 40 * meshHops a b

/-- Home and sending die of a section request. -/
def sectEnds (s : State) : Internal → Option (Nat × Nat)
  | .seqtakeRequest r | .enterRequest r | .leaveRequest r _ | .sectqRequest r => some (keyHome s r.ctx r.key, dieOfKey r.fr.key)
  | _ => none

/-- Place of the input by which a packet from a die reaches its home (R297): the edges N, E, S, W, by the last link of its route, then the home's own network. The spec gives a packet no UCIe module (log 2). -/
def sectPort (s : State) (home src : Nat) : Nat :=
  match (outputsTo s home 64 src).getLast? with
  | some x => (x.2 + 1) % 4
  | none => 4

/-- Insert a section request among the events to come: of those that reach its home in the same tick, the input decides (R297). -/
def insertSect (s : State) (t : Nat) (home port : Nat) (e : Internal) : List (Nat × Internal) → List (Nat × Internal)
  | [] => [(t, e)]
  | (u, f) :: r =>
    let after := match sectEnds s f with | some (h, d) => h == home && decide (port < sectPort s h d) | none => false
    if t < u ∨ (u = t ∧ after = true) then (t, e) :: (u, f) :: r else (u, f) :: insertSect s t home port e r

/-- The message of a section request's event. -/
def sectMsg : Internal → Option (SectMsg × SectReq)
  | .seqtakeRequest r => some (.seqtake, r)
  | .enterRequest r => some (.enter, r)
  | .leaveRequest r k => some (.leave k, r)
  | .sectqRequest r => some (.sectq, r)
  | _ => none

/-- A section request of a die for a home has to keep behind packets in a spill region, or behind section requests that do (R363). -/
def sectBehind (s : State) (d h : Nat) : Bool :=
  (stalledOn s d h).isSome || s.msgs.any fun x => x.2.src == d && x.2.loc.die == h && match x.2.kind with | .sect _ _ => true | _ => false

/-- Send a section request to its home: in the order of what its die sends there (R361, R363). -/
def sectPost (s : State) (e : Internal) : State :=
  match sectEnds s e, sectMsg e with
  | some (h, d), some (op, r) =>
    if sectBehind s d h then s.sendMsg ⟨{ r.fr with key := 256 * 32 * d }, r.ctx, 0, 0, ⟨0, .dp, false, h, false⟩, .sect op r⟩
    else { s with due := insertSect s (Nat.max (s.now + sectTicks d h) (lastArrival s s.nextMsg d h)) h (sectPort s h d) e s.due }
  | _, _ => s

/-- The reply that stands for SECTSTALL: the model's own code, no status of R304. -/
def stallReply : Word := 0x80000000

/-! ## Entries -/

/-- An entry of the sluice of a die. -/
def sluiceFind (s : State) (d ctx : Nat) (k : Addr) : Option SluiceEnt := (s.die d).sluice.ents.find? fun e => e.ctx == ctx && e.key == k

/-- Change a die's sluice. -/
def State.updSluice (s : State) (d : Nat) (g : Sluice → Sluice) : State := s.updDie d fun k => { k with sluice := g k.sluice }

/-- Replace an entry, or add it. -/
def sluicePut (s : State) (d : Nat) (e : SluiceEnt) : State :=
  s.updSluice d fun x =>
    { x with ents := if x.ents.any (fun y => y.ctx == e.ctx && y.key == e.key) then x.ents.map (fun y => if y.ctx == e.ctx && y.key == e.key then e else y)
                     else x.ents ++ [e] }

/-- Free an entry. -/
def sluiceDrop (s : State) (d ctx : Nat) (k : Addr) : State :=
  s.updSluice d fun x => { x with ents := x.ents.filter fun y => !(y.ctx == ctx && y.key == k) }

/-- The waiters queued on a key, oldest first: records not yet answered. -/
def queued (s : State) (d ctx : Nat) (k : Addr) : List SluiceWait :=
  (s.die d).sluice.waits.filter fun y => y.ctx == ctx && y.key == k && y.granted.isNone && !y.stalled

/-- An idle entry (R314): no holder and no waiters. -/
def SluiceEnt.idle (s : State) (d : Nat) (e : SluiceEnt) : Bool := !e.held && (queued s d e.ctx e.key) == []

/-- An entry in the table's ways. -/
def SluiceEnt.inTable (e : SluiceEnt) : Bool := !e.spilled && !e.mems

/-- Entries in the ways of a set. -/
def setEnts (s : State) (d set : Nat) : List SluiceEnt := (s.die d).sluice.ents.filter fun e => e.inTable && keySet e.ctx e.key == set

/-- The least recently used of a list of entries. -/
def oldestEnt : List SluiceEnt → Option SluiceEnt
  | [] => none
  | e :: es => match oldestEnt es with
    | some f => if f.used < e.used then some f else some e
    | none => some e

/-- The least recently used idle entry of a set. -/
def idleVictim (s : State) (d set : Nat) : Option SluiceEnt := oldestEnt ((setEnts s d set).filter fun e => e.idle s d)

/-- Physical address of a place in a context's spill region on a die (R314, R393). -/
def spillAddr (s : State) (d ctx slot : Nat) : Nat := d * dieWindow + (s.ctx ctx).field 0x18 8 + 64 * slot

/-- The lowest free place of a context's spill region on a die. -/
def spillSlot (s : State) (d ctx : Nat) : Option Nat :=
  let used := ((s.die d).sluice.ents.filter fun e => e.ctx == ctx && !e.inTable).map fun e => e.slot
  let n := (s.ctx ctx).field 0x2C 4 * 16384
  (List.range (Nat.min n (used.length + 1))).find? fun i => !used.contains i

/-- The image of an entry (R296): 40 bytes, padded to 64. WHEAD and WTAIL number the records of the die's waiter store. -/
def entImage (s : State) (d : Nat) (e : SluiceEnt) : List Byte :=
  let n := (queued s d e.ctx e.key).length
  let head := ((queued s d e.ctx e.key).head?.map fun y => y.num).getD 0xFFFFFFFF
  let tail := ((queued s d e.ctx e.key).getLast?.map fun y => y.num).getD 0xFFFFFFFF
  let w2 := 2 ^ 63 + (if e.held then 2 ^ 62 else 0) + (if e.abandoned then 2 ^ 61 else 0) + (if e.spilled then 2 ^ 60 else 0) + (if e.mems then 2 ^ 59 else 0)
    + e.ctx % 64 * 2 ^ 50 + e.hcore.toNat * 2 ^ 36 + e.hslot.toNat * 2 ^ 31 + e.hent.toNat * 2 ^ 28 + Nat.min n 65535
  bytesOfNat e.key.toNat 8 ++ bytesOfNat (e.next.toNat * 2 ^ 32 + e.take.toNat) 8 ++ bytesOfNat w2 8 ++ bytesOfNat e.lastp.toNat 8
    ++ bytesOfNat (head * 2 ^ 32 + tail) 8 ++ List.replicate 24 0

/-- Write the image of an entry that is kept in the spill region. -/
def writeImage (s : State) (d : Nat) (e : SluiceEnt) : State := if e.inTable then s else memWrite s (spillAddr s d e.ctx e.slot) (entImage s d e)

/-- Store an entry after an operation on it, in the table or in the region (R314). -/
def sluiceSet (s : State) (d : Nat) (e : SluiceEnt) : State :=
  let e := { e with used := s.now }
  writeImage (sluicePut s d e) d e

/-- Spill an entry to a place of the region (R314). -/
def spillEnt (s : State) (d : Nat) (e : SluiceEnt) (slot : Nat) : State :=
  let e := { e with spilled := true, slot := slot }
  let s := writeImage (sluicePut s d e) d e
  s.updSluice d fun x => { x with spills := x.spills + 1 }

/-- A new entry (R303). -/
def SluiceEnt.fresh (s : State) (d ctx : Nat) (k : Addr) : SluiceEnt :=
  { ctx := ctx, key := k, next := 0, take := 0, held := false, abandoned := false, spilled := false, mems := false, hcore := 0, hslot := 0, hent := 0,
    lastp := s.atime d, used := s.now, slot := 0 }

/-- Give a new entry a way, spilling the least recently used idle entry of a full set, or keep it in the region (R314); none while the region is full. -/
def sluicePlace (s : State) (d : Nat) (e : SluiceEnt) : Option State :=
  if (setEnts s d (keySet e.ctx e.key)).length < 8 then some (sluiceSet s d e)
  else match idleVictim s d (keySet e.ctx e.key) with
    | some v => (spillSlot s d v.ctx).map fun i => sluiceSet (spillEnt s d v i) d e
    | none => (spillSlot s d e.ctx).map fun i => sluiceSet s d { e with mems := true, slot := i }

/-- An entry of the region comes into a way; a spilled one has been reloaded (R314). -/
def sluiceHome (s : State) (d : Nat) (e : SluiceEnt) : State :=
  (sluicePut s d { e with spilled := false, mems := false }).updSluice d fun x => { x with reloads := if e.spilled then x.reloads + 1 else x.reloads }

/-- Bring an entry that lies in the region into a way when one is free or holds an idle entry, which is spilled (R314); in a set without either it is served where it is, with MEMS. None while the idle entry's region is full: the request waits. -/
def sluiceAdmit (s : State) (d : Nat) (e : SluiceEnt) : Option State :=
  if (setEnts s d (keySet e.ctx e.key)).length < 8 then some (sluiceHome s d e)
  else match idleVictim s d (keySet e.ctx e.key) with
    | some v =>
      let place := if v.ctx = e.ctx then some e.slot else spillSlot s d v.ctx
      place.map fun i => spillEnt (sluiceHome s d e) d v i
    | none => some (sluicePut s d { e with spilled := false, mems := true })

/-! ## Operations at the home -/

/-- s is past for an entry (R298). -/
def SluiceEnt.past (e : SluiceEnt) (q : Word) : Bool := (q - e.next).msb

/-- The place of a fragment as HCORE, HSLOT and HENT name it (R296). -/
def SluiceEnt.heldBy (e : SluiceEnt) (fr : FragId) : SluiceEnt :=
  let c := coreOfKey fr.key
  { e with hcore := BitVec.ofNat 14 (coreRow c * 128 + coreCol c), hslot := BitVec.ofNat 5 (slotOfKey fr.key), hent := BitVec.ofNat 3 fr.ent }

/-- Send a reply to the requester. -/
def sectReply (s : State) (d : Nat) (req : SectReq) (status : Word) : State :=
  s.post (sectTicks d (dieOfKey req.fr.key)) (.sectionGrantReply req status)

/-- Status of a grant (R304). -/
def SluiceEnt.status (e : SluiceEnt) : Word := if e.abandoned then 3 else 1

/-- The entry after a grant to a fragment (R304). -/
def SluiceEnt.grantTo (e : SluiceEnt) (fr : FragId) : SluiceEnt := { (e.heldBy fr) with held := true, abandoned := false }

/-- Answer a queued waiter: its record goes with the reply, or keeps the answer while its swell is evicted (R312). -/
def answerWaiter (s : State) (d : Nat) (y : SluiceWait) (status : Word) : State :=
  if y.evicted then
    s.updSluice d fun x => { x with waits := x.waits.map fun z => if z == y then { z with granted := if status = stallReply then none else some status, stalled := status == stallReply } else z }
  else sectReply (s.updSluice d fun x => { x with waits := x.waits.erase y }) d y.req status

/-- The scan of the waiters runs every 2^16 ticks of home ATIME (R311). -/
def armScan (s : State) (d : Nat) : State :=
  if (s.die d).sluice.waits = [] ∧ (s.die d).sluice.ingress = [] then s
  else s.postOnce (65536 - (s.atime d).toNat % 65536) (.sectionTimeoutScan d)

/-- Append a waiter record to a die's store, at its lowest free index (R296). -/
def addRecord (s : State) (d : Nat) (y : SluiceWait) : State :=
  s.updSluice d fun x =>
    let used := x.waits.map fun z => z.num
    { x with waits := x.waits ++ [{ y with num := ((List.range (used.length + 1)).find? fun i => !used.contains i).getD 0 }] }

/-- An ENTER acts on its entry (R304); none while it must wait for a waiter record (R310). -/
def enterAct (s : State) (d : Nat) (e : SluiceEnt) (req : SectReq) (arrived : Addr) : Option State :=
  if e.past req.seq then some (sectReply (sluiceSet s d e) d req 4)
  else if req.seq = e.next ∧ e.held = false then some (sectReply (sluiceSet s d (e.grantTo req.fr)) d req e.status)
  else if 16384 ≤ (s.die d).sluice.waits.length then none
  else
    let s := addRecord s d ⟨0, req.ctx, req.key, req.seq, req, arrived, false, none, false⟩
    some (armScan (sluiceSet s d e) d)

/-- Write registers of a SECT word's answer to the fragment that waits for it, wherever its swell is. -/
def sectWrite (s : State) (fr : FragId) (d : Reg) (ws : List Word) : State := s.updUid fr.uid fun w => w.setSList d ws

/-- A SEQTAKE acts on its entry (R303). -/
def takeAct (s : State) (d : Nat) (e : SluiceEnt) (req : SectReq) : State :=
  sectReply (sectWrite (sluiceSet s d { e with take := e.take + 1 }) req.fr req.d [e.take]) d req 0

/-- A request acts on the entry of its key, which is created or found (R303, R304); none while it waits for a reload, for spill space or for a record. -/
def sectAct (s : State) (d : Nat) (q : SluiceIn) : Option State :=
  let act (s : State) (e : SluiceEnt) : Option State := if q.take then some (takeAct s d e q.req) else enterAct s d e q.req q.arrived
  match sluiceFind s d q.req.ctx q.req.key with
  | some e => if e.spilled then none else act s e
  | none =>
    match sluicePlace s d (SluiceEnt.fresh s d q.req.ctx q.req.key) with
    | some s => (sluiceFind s d q.req.ctx q.req.key).bind fun e => act s e
    | none => none

/-- Serve the ingress in order; a key whose oldest request has still to wait holds its later ones. -/
def servePending (s : State) (d : Nat) : List SluiceIn → List SluiceIn → State
  | [], keep => s.updSluice d fun x => { x with ingress := keep }
  | q :: qs, keep =>
    if keep.any fun y => y.req.ctx == q.req.ctx && y.req.key == q.req.key then servePending s d qs (keep ++ [q])
    else match sectAct s d q with
      | some s => servePending s d qs keep
      | none => servePending s d qs (keep ++ [q])

/-- After an operation, or once records may be free: entries of the region move into ways that have become idle, the ingress is served, requests for spilled entries ask for their reload, and the images served in the region follow (R310, R313, R314). -/
def sluiceSettle (s : State) (d : Nat) : State :=
  let s := ((s.die d).sluice.ents.filter fun e => e.mems).foldl (fun s e =>
    if (setEnts s d (keySet e.ctx e.key)).length < 8 || (idleVictim s d (keySet e.ctx e.key)).isSome then (sluiceAdmit s d e).getD s else s) s
  let s := servePending s d (s.die d).sluice.ingress []
  let s := (s.die d).sluice.ingress.foldl (fun s (q : SluiceIn) =>
    match sluiceFind s d q.req.ctx q.req.key with
    | some e => if e.spilled then s.postOnce 1000 (.sluiceReload d q.req.ctx q.req.key) else s
    | none => s) s
  ((s.die d).sluice.ents.filter fun e => e.mems).foldl (fun s e => writeImage s d e) s

/-- Every sluice that has requests at its ingress, or entries served in the region, settles. -/
def settleAll (s : State) : State :=
  s.dies.foldl (fun s (x : Nat × Die) => if x.2.sluice.ingress = [] ∧ !x.2.sluice.ents.any (fun e => e.mems) then s else sluiceSettle s x.1) s

/-- A SEQTAKE or ENTER reaches its home (R297): it acts, or waits behind earlier requests of its key, for a reload, for space or for a record. Requests at the ingress that can be served now come before it (R310). -/
def sectArrive (s : State) (req : SectReq) (take : Bool) : State :=
  let d := keyHome s req.ctx req.key
  let q : SluiceIn := ⟨req, take, s.atime d⟩
  let wait (s : State) : State := armScan (s.updSluice d fun x => { x with ingress := x.ingress ++ [q] }) d
  let s := sluiceSettle s d
  let s :=
    if (s.die d).sluice.ingress.any fun y => y.req.ctx == req.ctx && y.req.key == req.key then wait s
    else (sectAct s d q).getD (wait s)
  sluiceSettle s d

/-- SEQTAKE_REQUEST (R303). -/
def execSeqtakeRequest (req : SectReq) (s : State) : Host.Outcome State Fault Refusal := .next (sectArrive s req true)

/-- ENTER_REQUEST (R304). -/
def execEnterRequest (req : SectReq) (s : State) : Host.Outcome State Fault Refusal := .next (sectArrive s req false)

/-- Answer the waiters whose numbers are now past (R305). -/
def answerPast (s : State) (d : Nat) (e : SluiceEnt) : State :=
  ((queued s d e.ctx e.key).filter fun y => e.past y.seq).foldl (fun s y => answerWaiter s d y 4) s

/-- A release of the section at its home (R305, R315): NEXT advances, past waiters are answered, the oldest due waiter is granted, and LEAVE.END frees an entry that nobody waits for. -/
def leaveAct (s : State) (d : Nat) (e : SluiceEnt) (kind : LeaveKind) : State :=
  let gone : Bool := match kind with | .abandon | .torn => true | _ => false
  let e : SluiceEnt := { e with next := e.next + 1, held := false, lastp := s.atime d, abandoned := e.abandoned || gone }
  let s := answerPast (sluiceSet s d e) d e
  match (queued s d e.ctx e.key).find? fun y => y.seq == e.next with
  | some y => sluiceSet (answerWaiter s d y e.status) d (e.grantTo y.req.fr)
  | none => if kind == .leaveEnd && queued s d e.ctx e.key == [] then sluiceDrop s d e.ctx e.key else sluiceSet s d e

/-- LEAVE_REQUEST (R305): a key without an entry changes nothing; the request is acknowledged, a teardown's is not (R315). -/
def execLeaveRequest (req : SectReq) (kind : LeaveKind) (s : State) : Host.Outcome State Fault Refusal :=
  let d := keyHome s req.ctx req.key
  let s := match sluiceFind s d req.ctx req.key with
    | none => s
    | some e => sluiceSettle (leaveAct s d (if e.spilled then { e with spilled := false, mems := true } else e) kind) d
  .next <| if kind == .torn then s else sectReply s d req 0

/-- The four words of SECTQ (R306). -/
def sectqWords (s : State) (d : Nat) (e : SluiceEnt) : List Word :=
  let n := Nat.min (queued s d e.ctx e.key).length 65535
  [e.next, e.take,
   BitVec.ofNat 32 (n * 65536 + (if e.mems then 16 else 0) + (if e.spilled then 4 else 0) + (if e.abandoned then 2 else 0) + (if e.held then 1 else 0)),
   if e.held then BitVec.ofNat 32 (e.hcore.toNat * 65536 + e.hslot.toNat * 256 + e.hent.toNat) else 0]

/-- SECTQ_REQUEST (R306): the entry is read in one step, and not created. -/
def execSectqRequest (req : SectReq) (s : State) : Host.Outcome State Fault Refusal :=
  let d := keyHome s req.ctx req.key
  let ws := match sluiceFind s d req.ctx req.key with
    | some e => sectqWords s d e
    | none => [0, 0, 8, 0]
  .next (sectReply (sectWrite s req.fr req.d ws) d req 0)

/-- SLUICE_RELOAD (R314): the spilled entry is reloaded, and the requests that wait for it act on it; requests that wait at the ingress are looked at again. -/
def execSluiceReload (die ctx : Nat) (key : Addr) (s : State) : Host.Outcome State Fault Refusal :=
  .next <|
    match sluiceFind s die ctx key with
    | some e => sluiceSettle (if e.spilled then (sluiceAdmit s die e).getD s else s) die
    | none => sluiceSettle s die

/-- The section time-out of a context in ticks (R311). -/
def sectTimeout (s : State) (ctx : Nat) : Nat :=
  let t := (s.ctx ctx).field 0x54 1
  2 ^ (if t = 0 then 28 else t)

/-- Whether a waiter has timed out (R311). -/
def timedOut (s : State) (d ctx : Nat) (k arrived : Addr) : Bool :=
  let since := match sluiceFind s d ctx k with | some e => Nat.max arrived.toNat e.lastp.toNat | none => arrived.toNat
  sectTimeout s ctx ≤ (s.atime d).toNat - since

/-- A section request reaches a die in this tick and is still to act. -/
def sectNow (s : State) (die : Nat) : Bool := s.due.any fun x => decide (x.1 ≤ s.now) && (match sectEnds s x.2 with | some (h, _) => h == die | none => false)

/-- SECTION_TIMEOUT_SCAN (R311): waiters and requests that have waited too long are answered SECTSTALL. The requests of the same tick act first: a grant and a time-out of one waiter resolve as a grant. -/
def execSectionTimeoutScan (die : Nat) (s : State) : Host.Outcome State Fault Refusal :=
  .next (if sectNow s die then s.postOnce 0 (.sectionTimeoutScan die) else scan)
where
 /-- The scan. -/
 scan : State :=
  let s := ((s.die die).sluice.waits.filter fun y => y.granted.isNone && !y.stalled && timedOut s die y.ctx y.key y.arrived).foldl
    (fun s y => answerWaiter s die y stallReply) s
  let late (q : SluiceIn) : Bool := timedOut s die q.req.ctx q.req.key q.arrived
  let gone := (s.die die).sluice.ingress.filter late
  let s := s.updSluice die fun x => { x with ingress := x.ingress.filter fun q => !late q }
  let s := gone.foldl (fun s q => sectReply s die q.req stallReply) s
  armScan (sluiceSettle s die) die

/-! ## Replies -/

/-- The fragment's outstanding SECT word that a reply belongs to. -/
def Frag.sectOp (f : Frag) (d : Reg) : Option Outst :=
  f.outst.find? fun o => match o.kind with | .sect => (match o.writes.s with | r :: _ => r == d.toNat | [] => true) | _ => false

/-- Put a key in the first free slot of the held record (R299, R304). -/
def Frag.hold (f : Frag) (k : Addr) (home : Nat) : Frag :=
  let h : HeldSlot := ⟨true, k, BitVec.ofNat 6 home⟩
  if f.held0.valid then { f with held1 := h } else { f with held0 := h }

/-- Clear the slot that holds a key. -/
def Frag.unhold (f : Frag) (k : Addr) : Frag :=
  { f with held0 := if f.held0.valid && f.held0.key == k then ⟨false, 0, 0⟩ else f.held0
           held1 := if f.held1.valid && f.held1.key == k then ⟨false, 0, 0⟩ else f.held1 }

/-- An ENTER's answer reaches its fragment (R304, R307, R311): granted, it is an acquire and the slot becomes valid; PAST holds nothing; SECTSTALL is taken at the ENTER. -/
def enterReply (s : State) (id : FragId) (o : Outst) (k : WaitKind) (req : SectReq) (status : Word) : State :=
  if status = stallReply then s.failOp id.swell o.id ⟨.sectstall, req.key, 0, false, false⟩
  else if status = 4 then s.finishWait id o k fun w => w.setS req.d status
  else
    let home := keyHome s req.ctx req.key
    (acquireAll s id true).finishWait id o k fun w => (w.setS req.d status).setEnt id.ent ((w.ent id.ent).hold req.key home)

/-- SECTION_GRANT_REPLY (R304, R312): an answer reaches the fragment that waits for it. The home keeps the answer of an evicted waiter; a grant to a swell that has ended acts as ABANDON (R315). -/
def execSectionGrantReply (req : SectReq) (status : Word) (s : State) : Host.Outcome State Fault Refusal :=
  let d := keyHome s req.ctx req.key
  .next <|
    match anySwell s req.fr.uid with
    | none => if status = 1 ∨ status = 3 then sectPost s (.leaveRequest req .torn) else s
    | some (none, _) => addRecord s d ⟨0, req.ctx, req.key, req.seq, req, s.atime d, true, if status = stallReply then none else some status, status == stallReply⟩
    | some (some key, w) =>
      let id : FragId := { req.fr with key := key }
      let f := w.ent id.ent
      match f.waitOf with
      | some (o, .enter k q r) => enterReply s id o (.enter k q r) req status
      | _ =>
        match f.sectOp req.d with
        | some o => if status = stallReply then s.failOp id.swell o.id ⟨.sectstall, req.key, 0, false, false⟩ else s.finishOp id.swell o.id
        | none => s

/-- The place of a fragment in the requests that wait at an ingress or are on their way is written anew (R312). -/
def relinkRequests (s : State) (id : FragId) : State :=
  let here (r : SectReq) : SectReq := if r.fr.same id then { r with fr := id } else r
  { s with
    due := s.due.map fun (x : Nat × Internal) => (x.1, match x.2 with | .enterRequest r => .enterRequest (here r) | e => e)
    msgs := s.msgs.map fun (x : Nat × Msg) => (x.1, match x.2.kind with | .sect .enter r => { x.2 with kind := .sect .enter (here r) } | _ => x.2)
    dies := s.dies.map fun (x : Nat × Die) => (x.1, { x.2 with sluice := { x.2.sluice with ingress := x.2.sluice.ingress.map fun y => { y with req := here y.req } } }) }

/-- At resume an ENTER presents its saved wait to the home (R312): a kept answer is sent, a record or a request still waiting is linked to the new place; a holder's place is written anew. -/
def presentSections (s : State) (id : FragId) : State :=
  match s.fragAt id with
  | none => s
  | some (w, f) =>
    let s := relinkRequests s id
    let s := f.heldKeys.foldl (fun s k =>
      let d := keyHome s w.ctx k
      match sluiceFind s d w.ctx k with
      | some e => writeImage (sluicePut s d (e.heldBy id)) d (e.heldBy id)
      | none => s) s
    settleAll <| match f.waitOf with
    | some (_, .enter k _ _) =>
      let d := keyHome s w.ctx k
      match (s.die d).sluice.waits.find? fun y => y.req.fr.same id with
      | none => s
      | some y =>
        let req := { y.req with fr := id }
        let s := match y.granted, sluiceFind s d w.ctx k with
          | some g, some e => if g = 4 then s else writeImage (sluicePut s d (e.heldBy id)) d (e.heldBy id)
          | _, _ => s
        if y.stalled then sectReply (s.updSluice d fun x => { x with waits := x.waits.erase y }) d req stallReply
        else match y.granted with
          | some g => sectReply (s.updSluice d fun x => { x with waits := x.waits.erase y }) d req g
          | none => s.updSluice d fun x => { x with waits := x.waits.map fun z => if z == y then { z with req := req, evicted := false } else z }
    | _ => s

/-- A swell's ENTER records know that it is evicted (R312). -/
def evictSections (s : State) (uid : Nat) : State :=
  { s with dies := s.dies.map fun (x : Nat × Die) => (x.1, { x.2 with sluice := { x.2.sluice with
      waits := x.2.sluice.waits.map fun y => if y.req.fr.uid = uid then { y with evicted := true } else y } }) }

/-- Teardown of a swell (R309, R315): its records go, and each section that it holds, or that a kept grant gives it, is abandoned with no release. -/
def tearSections (s : State) (w : Swell) : State :=
  let kept := s.dies.flatMap fun x => x.2.sluice.waits.filterMap fun y =>
    if y.req.fr.uid = w.uid ∧ (y.granted = some 1 ∨ y.granted = some 3) then some y.req else none
  let holds := w.liveEnts.flatMap fun e => (w.ent e).heldKeys.map fun k => (⟨⟨0, w.uid, e⟩, w.ctx, k, 0, 0⟩ : SectReq)
  let s := { s with dies := s.dies.map fun (x : Nat × Die) => (x.1, { x.2 with sluice := { x.2.sluice with
      waits := x.2.sluice.waits.filter fun y => y.req.fr.uid != w.uid
      ingress := x.2.sluice.ingress.filter fun y => y.req.fr.uid != w.uid } }) }
  (kept ++ holds).foldl (fun s r => s.post 1 (.leaveRequest r .torn)) (settleAll s)

/-- SLUICE_DIE_REPLACE (R295): a live die takes the retired die's place in the list and in the mask; the context's entries and records move to it. The spec does not say that fragments' held slots follow: their home die keeps the retired die's number, which nothing but the image shows (R299); nor what becomes of an entry that finds neither a way nor a place in the live die's spill region: it is served with MEMS at its old place number (log 79). -/
def execSluiceDieReplace (ctx retired live : Nat) (s : State) : Host.Outcome State Fault Refusal :=
  let ents := (s.die retired).sluice.ents.filter fun e => e.ctx == ctx
  let waits := (s.die retired).sluice.waits.filter fun y => y.ctx == ctx
  let ingress := (s.die retired).sluice.ingress.filter fun y => y.req.ctx == ctx
  let s := s.updCtx ctx fun c =>
    let mask := (BitVec.ofNat 64 (c.field 0x10 8) &&& ~~~(BitVec.twoPow 64 retired)) ||| BitVec.twoPow 64 live
    { c with sluiceDies := c.sluiceDies.map fun d => if d = retired then live else d, bar := writeBytes c.bar 0x10 (bytesOfNat mask.toNat 8) }
  let s := s.updSluice retired fun x =>
    { x with ents := x.ents.filter fun e => e.ctx != ctx, waits := x.waits.filter fun y => y.ctx != ctx, ingress := x.ingress.filter fun y => y.req.ctx != ctx }
  let s := waits.foldl (fun s y => addRecord s live y) (s.updSluice live fun x => { x with ingress := x.ingress ++ ingress })
  let s := ents.foldl (fun s e =>
    let e := { e with spilled := false, mems := false }
    match sluicePlace s live e with
    | some s => s
    | none => sluicePut s live { e with mems := true }) s
  .next (armScan (sluiceSettle s live) live)

/-! ## The SECT family (R302) -/

/-- The key of a SECT word. -/
def sectKey (w : Swell) (a : Reg) : Addr := w.spair a

/-- Send a request of the issuing fragment to its key's home. -/
def sectSend (s : State) (w : Swell) (k : Addr) (seq : Word) (d : Reg) (mk : SectReq → Internal) : State :=
  sectPost s (mk ⟨s.cur, w.ctx, k, seq, d⟩)

/-- SEQTAKE (R303). -/
def execSeqtake (o : Reg2LA) (s : State) : Host.Outcome State Fault Refusal :=
  issue { brk := true } [] s fun w _ =>
    let (_, s) := s.addOutst s.cur .sect 0 ⟨[], regsFrom o.a.toNat 2⟩ ⟨[], [o.d.toNat]⟩
    .next (sectSend s w (sectKey w o.a) 0 o.d .seqtakeRequest)

/-- ENTER (R300, R304): at most two sections, in ascending key order. -/
def execEnter (o : Reg2LA) (s : State) : Host.Outcome State Fault Refusal :=
  issue { brk := true } [] s fun w f =>
    let k := sectKey w o.a
    if f.heldKeys.length = 2 ∨ f.heldKeys.any (fun h => !h.ult k) then .fault s (plainFault .sectorder k)
    else
      let (_, s) := s.addWait s.cur (.enter k (w.sreg o.d) o.d) o.la.toNat ⟨[], o.d.toNat :: regsFrom o.a.toNat 2⟩ ⟨[], [o.d.toNat]⟩
      .next (sectSend s w k (w.sreg o.d) o.d .enterRequest)

/-- LEAVE, LEAVE.END and ABANDON (R305, R308): the release comes first, then the slot is cleared and the request goes to the home. -/
def leaveOp (o : SectOp) (kind : LeaveKind) (s : State) : Host.Outcome State Fault Refusal :=
  issue { brk := true } [] s fun w f =>
    let k := sectKey w o.a
    if !f.heldKeys.contains k then .fault s (plainFault .sectstate k)
    else if !relReady s s.cur f then .stall s
    else
      releasing s s.cur true fun s =>
        let s := s.updFrag s.cur fun f => f.unhold k
        let (_, s) := s.addOutst s.cur .sect 0 ⟨[], regsFrom o.a.toNat 2⟩ ⟨[], []⟩
        .next (sectSend s w k 0 0 fun r => .leaveRequest r kind)

/-- LEAVE (R305). -/
def execLeave (o : SectOp) (s : State) : Host.Outcome State Fault Refusal := leaveOp o .leave s

/-- LEAVE.END (R305). -/
def execLeaveEnd (o : SectOp) (s : State) : Host.Outcome State Fault Refusal := leaveOp o .leaveEnd s

/-- ABANDON (R305). -/
def execAbandon (o : SectOp) (s : State) : Host.Outcome State Fault Refusal := leaveOp o .abandon s

/-- SECTQ (R306). -/
def execSectq (o : Reg2LA) (s : State) : Host.Outcome State Fault Refusal :=
  issue {} [] s fun w _ =>
    let (_, s) := s.addOutst s.cur .sect o.la.toNat ⟨[], regsFrom o.a.toNat 2⟩ ⟨[], regsFrom o.d.toNat 4⟩
    .next (sectSend s w (sectKey w o.a) 0 o.d .sectqRequest)

end Sys2Proof.Machine
end

