-- ==== Sys2Proof/Machine/Timed.lean ====
section
/-! DEFINITION. TIME and TWAIT, LDT and STT, and the tide buffers of the homes (R372 to R381). -/

namespace Sys2Proof.Machine

/-! ## TIME and TWAIT -/

/-- TIME (R373): both halves of one reading of the die's ATIME. -/
def execTime (r : Reg) (s : State) : Host.Outcome State Fault Refusal :=
  issueSwell {} [] s fun w _ => w.setSPair r (s.atime (dieOfKey s.cur.key))

/-- Ticks until a die's ATIME reaches a time; 0 once it has. -/
def ticksUntil (s : State) (die : Nat) (t : Addr) : Nat := t.toNat - (s.atime die).toNat

/-- The fragment waits for a time (R374): STATE 1, WKIND 6, WADDR 0 and WVAL the time; its PC stays at the TWAIT. -/
def State.waitTime (s : State) (id : FragId) (t : Addr) : State :=
  (s.updFrag id fun f => { f with st := 1, wkind := 6, waddr := 0, wval := t, wait := some (.twait t), age := 0 }).post
    (ticksUntil s (dieOfKey id.key) t) (.twaitExpiry id)

/-- TWAIT (R374): it completes at once when the time has come. -/
def execTwait (r : Reg) (s : State) : Host.Outcome State Fault Refusal :=
  issue {} [] s fun w _ =>
    if ticksUntil s (dieOfKey s.cur.key) (w.spair r) = 0 then .next s else .whole (s.waitTime s.cur (w.spair r))

/-- TWAIT_EXPIRY (R374): at its time the fragment is ready and goes on behind the TWAIT; a swell that is away looks again at resume. -/
def execTwaitExpiry (fr : FragId) (s : State) : Host.Outcome State Fault Refusal :=
  .next <|
    match s.fragAt fr with
    | some (_, f) =>
      match f.wait with
      | some (.twait t) =>
        if ticksUntil s (dieOfKey fr.key) t = 0 then (s.wakeFrag fr).endUnit fr {} (nextPc f.pc)
        else s.postOnce (ticksUntil s (dieOfKey fr.key) t) (.twaitExpiry fr)
      | _ => s
    | none => s

/-! ## LDT and STT -/

/-- Number of a home of timed lanes on its die (R375, R376): the slice, or 32 more for the memory logic of the slice's channel. -/
def tideHome (l : Loc) : Nat := sliceOf l.pa + (if l.ms then 32 else 0)

/-- Form of LDT and STT (R380). -/
def timedForm (o : MemOp) (load : Bool) : Form :=
  { wide := true, pmx := true, te := true, brk := !load, writes := if load then (List.range (sizeRegs o.sz)).map fun i => o.d + BitVec.ofNat 7 i else [] }

/-- The time operand that the unit's modifiers HINT names (R76, R380). -/
def timeReg (f : Frag) : Option Reg :=
  match f.hints.mods with
  | some m => if m.te then some m.ts else none
  | none => none

/-- Send a timed lane to its home: the die's own copies of the line are written back and dropped first (R183, R375). -/
def sendTimed (s : State) (id : FragId) (ctx : Nat) (va : Addr) (l : Loc) (k : MsgKind) : State :=
  (bypassL1 s (coreOfKey id.key) l).sendMsg ⟨id, ctx, swellLaunch s id.uid, va, l, k⟩

/-- LDT (R380, R381): without TE it is ILLEGAL; every active lane goes to its home under the not-before time of the pair; it is outstanding until all have been performed. -/
def execLdt (o : MemOp) (s : State) : Host.Outcome State Fault Refusal :=
  issueChecked (timedForm o true) (packMem 0x35 o.d o.a o.sz.bits o.off o.la) (fun _ f => (timeReg f).isNone) (memRegs o) s fun w f =>
    match timeReg f with
    | none => .next s
    | some ts =>
      let as := (lanesOf (lanesActive w f f.pmx)).map fun l => LaneAcc.mk l.val (memEa w o f.hints.wide l) (sizeBytes o.sz)
      memAccess s w f .timedLoad as false fun s ls =>
        if ls = [] then .next s
        else
          let t := w.spair ts
          let (op, s) := s.addOutst s.cur (.load { sz := o.sz, group := false, d := o.d, a := o.a, disp := memOffset o.off (sizeBytes o.sz) f.hints.wide, lanes := ls, got := [], notBefore := some t, acq := false, cp := .normal })
            o.la.toNat ⟨regsFrom o.a.toNat 2, regsFrom ts.toNat 2 ++ pmRegs f.pmx⟩ ⟨dataRegs o, []⟩
          let s := ls.foldl (fun s l => sendTimed s s.cur w.ctx l.va l.loc (.timedLoad op l.lane (sizeBytes o.sz) t)) s
          .next (s.post (2 ^ 24 + ticksUntil s (dieOfKey s.cur.key) t) (.accessTimeout s.cur.swell op))

/-- STT (R380, R381): without TE it is ILLEGAL; it completes at hand-off. -/
def execStt (o : MemOp) (s : State) : Host.Outcome State Fault Refusal :=
  issueChecked (timedForm o false) (packMem 0x36 o.d o.a o.sz.bits o.off o.la) (fun _ f => (timeReg f).isNone) (memRegs o) s fun w f =>
    match timeReg f with
    | none => .next s
    | some ts =>
      let as := (lanesOf (lanesActive w f f.pmx)).map fun l => LaneAcc.mk l.val (memEa w o f.hints.wide l) (sizeBytes o.sz)
      memAccess s w f .timedStore as false fun s ls =>
        .next (ls.foldl (fun s l => sendTimed s s.cur w.ctx l.va l.loc (.timedStore (storeBytes o.sz (laneData w o l.lane)) (w.spair ts))) s)

/-! ## The tide buffers (R376 to R379) -/

/-- A tide buffer of a die. -/
def State.tide (s : State) (d h : Nat) : Tide := (kvGet (s.die d).tides h).getD Tide.init
/-- Change a tide buffer. -/
def State.updTide (s : State) (d h : Nat) (g : Tide → Tide) : State := s.updDie d fun k => { k with tides := kvSet k.tides h (g (s.tide d h)) }

/-- The time of a timed lane: its tidemark or its not-before time. -/
def Msg.tau (m : Msg) : Nat :=
  match m.kind with
  | .timedStore _ t => t.toNat
  | .timedLoad _ _ _ t => t.toNat
  | _ => 0

/-- A timed store. -/
def Msg.isStore (m : Msg) : Bool := match m.kind with | .timedStore _ _ => true | _ => false

/-- TIDESTAT (R379): LATE, FULLW and OCC. -/
def tideStat (t : Tide) : Addr := t.late ++ t.fullw ++ BitVec.ofNat 16 t.buf.length

/-- A store was late (R378): the home and the context's meter count it, and a notice goes to the issuing core. -/
def lateStore (s : State) (m : Msg) : State :=
  let d := m.loc.die
  let s := s.updTide d (tideHome m.loc) fun t => { t with late := if t.late = BitVec.allOnes 32 then t.late else t.late + 1 }
  let s := s.updMeter d m.ctx fun x => { x with late := x.late + 1 }
  s.post (transit m.src d) (.lateNotice m.fr (BitVec.ofNat 64 m.tau))

/-- Perform a timed lane at its home (R376): a store is a write there, and what it held is served behind it (R377); a load returns the bytes as they stand. -/
def performTimed (s : State) (k : Nat) (m : Msg) : State :=
  let s := atHome (s.dropMsg k) (coreOfKey m.fr.key) m.loc
  match m.kind with
  | .timedStore bs _ => serveWaiting (performStore s m bs) m.loc.die m.line
  | .timedLoad op lane n _ =>
    let bad := badBytes s m.loc n
    let bs := readBytes s.mem m.loc.pa n
    let s := countTraffic s m.ctx m.src m.loc.pa n false m.loc.ms
    answerLane (partRefresh s m.src m.loc n) m.fr.swell op answerTicks (Outst.gotLane bs bad m.va lane) (fun o => !o.loading) (.loadResponse m.fr.swell op)
  | _ => s

/-- A timed lane is in its home's buffer or ingress. -/
def inTide (s : State) (k : Nat) (m : Msg) : Bool :=
  let t := s.tide m.loc.die (tideHome m.loc)
  (t.buf ++ t.ingress).any fun x => x.1 == k

/-- The home looks at its tide buffer again when the ATIME of its die reaches the earliest time held there. -/
def State.armTide (s : State) (d h : Nat) : State :=
  let t := s.tide d h
  match t.buf.map fun x => x.2.tau with
  | [] => if t.ingress = [] then s else s.postOnce 1 (.tideTick d h)
  | x :: xs => s.post ((xs.foldl Nat.min x) - (s.atime d).toNat) (.tideTick d h)

/-- A lane arrives at its home at the die's time (R376): it is performed when its time has come, late when that has passed (R378); else it takes a free entry, or waits at the ingress. One whose home is taken, by an engine that holds the line or by the copy of its channel, is judged now and keeps an entry until that ends (R254, R432). -/
def arriveTimed (s : State) (k : Nat) (m : Msg) : State :=
  let d := m.loc.die
  let h := tideHome m.loc
  let t := (s.atime d).toNat
  let judge (s : State) : State := if m.isStore ∧ m.tau < t then lateStore s m else s
  if m.tau ≤ t ∧ !homeBusy s m.loc then judge (performTimed s k m)
  else if (s.tide d h).buf.length < 256 then judge ((s.updTide d h fun x => { x with buf := x.buf ++ [(k, m)] }).armTide d h)
  else s.updTide d h fun x => { x with ingress := x.ingress ++ [(k, m)], fullw := if x.fullw = BitVec.allOnes 16 then x.fullw else x.fullw + 1 }

/-- Insert a lane behind those with a time no later. -/
def insertTau (m : Nat × Msg) : List (Nat × Msg) → List (Nat × Msg)
  | [] => [m]
  | x :: xs => if m.2.tau < x.2.tau then m :: x :: xs else x :: insertTau m xs

/-- Lanes by ascending time, then arrival. -/
def sortTau (l : List (Nat × Msg)) : List (Nat × Msg) := l.foldl (fun acc m => insertTau m acc) []

/-- The lanes due in a tick, in their order: stores by ascending tidemark, then loads in arrival order (R376). -/
def dueLanes (s : State) (t : Nat) (buf : List (Nat × Msg)) : List (Nat × Msg) :=
  let due := buf.filter fun m => decide (m.2.tau ≤ t) && !homeBusy s m.2.loc
  sortTau (due.filter fun m => m.2.isStore) ++ due.filter fun m => !m.2.isStore

/-- Ingress lanes move into the freed entries in arrival order, each as an arrival. -/
def admitTide (s : State) (d h : Nat) : Nat → State
  | 0 => s
  | n + 1 =>
    let t := s.tide d h
    match t.ingress with
    | [] => s
    | m :: rest =>
      if t.buf.length < 256 then admitTide (arriveTimed (s.updTide d h fun x => { x with ingress := rest }) m.1 m.2) d h n else s

/-- Release the due lanes of a home, then admit those at its ingress (R376). -/
def tideRelease (s : State) (d h : Nat) : State :=
  let due := dueLanes s (s.atime d).toNat (s.tide d h).buf
  let s := s.updTide d h fun t => { t with buf := t.buf.filter fun m => !due.contains m }
  let s := due.foldl (fun s x => performTimed s x.1 x.2) s
  admitTide s d h (s.tide d h).ingress.length

/-- TIMED_LANE_ARRIVAL (R376): arrivals are handled after the tick's releases. A lane of a load that is over is withdrawn; a lane behind an earlier store of its fragment is held, and then handled as an arrival (R377). -/
def execTimedLaneArrival (msg : Nat) (s : State) : Host.Outcome State Fault Refusal :=
  .next <|
    match kvGet s.msgs msg with
    | some m =>
      if inTide s msg m || !m.timed then s
      else if !m.isStore && (s.opAt m.fr.swell (match m.kind with | .timedLoad op _ _ _ => op | _ => 0)).isNone then unholdMsg (s.dropMsg msg) msg m
      else
        let s := tideRelease s m.loc.die (tideHome m.loc)
        if behindOwn s m.fr msg m.loc m.size || (m.loc.host && !hostUp s m.ctx) then holdMsg s msg m else arriveTimed (unholdMsg s msg m) msg m
    | none => s

/-- TIDE_TICK (R376): the start of a tick at a home. -/
def execTideTick (die home : Nat) (s : State) : Host.Outcome State Fault Refusal :=
  let s := tideRelease s die home
  .next <|
    if s.due.any (fun x => x.2 == Internal.tideTick die home && decide (x.1 ≤ s.now + 1)) then s
    else if (s.tide die home).buf.any (fun m => m.2.tau ≤ (s.atime die).toNat) then s.post 1 (.tideTick die home)
    else if s.due.any (fun x => x.2 == Internal.tideTick die home) then s
    else s.armTide die home

end Sys2Proof.Machine
end

