-- ==== Sys2Proof/Machine/Evict.lean ====
section
/-! DEFINITION. Eviction and resume of swells (R54, R61, R62, R193, R212, R232, R238, R312, R374, R381, R406, R407). -/

namespace Sys2Proof.Machine

/-! ## Eviction (R61, R193, R406) -/

/-- The bit of REISSUE that names the instruction at an address (R41). -/
def reissueBit (pc at' : Pc) : Nat := ((pc.setWidth 32 : Word) - at'.setWidth 32).toNat / 4 - 1

/-- The PC that a fragment is saved with: its own, or the one that it goes on at behind loads that are issued again (R41). -/
def Frag.savedPc (f : Frag) : Pc := match f.redo.getLast? with | some x => x.2 | none => f.pc

/-- An outstanding instruction has to complete before a save (R61): anything but a wait, or a remote load that a bit of REISSUE can name. -/
def Frag.mustEnd (f : Frag) (d : Nat) (o : Outst) : Bool :=
  o.fail.isSome || match o.kind with | .load x => !(x.remote d && decide (reissueBit f.savedPc o.pc < 16)) | .wait _ => false | _ => true

/-- A swell may be evicted (R61): every live fragment is at a blocking point, at FUSE or exited, at least one at a blocking point, none of them between a HINT and its instruction (R73), and nothing that has to complete is outstanding. -/
def Swell.evictable (w : Swell) : Bool :=
  (w.liveEnts.all fun e => let f := w.ent e; ((f.st == 1 && f.wait.isSome) || f.st == 2) && f.hints.words == [] && !f.outst.any (f.mustEnd (dieOfCore w.core)))
    && w.liveEnts.any fun e => (w.ent e).st == 1

/-- A swell may leave its core now (R61, R220): it is evictable, no collective of its launch waits there, and none of its stores, render packets or markers is under way, which keeps their order with what it does at another place (R184, R322). -/
def mayLeave (s : State) (key : Nat) (w : Swell) : Bool :=
  w.evictable && !(s.msgs.any fun x => x.2.fr.uid == w.uid && (match x.2.kind with | .store _ | .atomic _ _ _ _ _ | .prim _ | .marker _ => true | _ => false))
    && !(s.swells.any fun x => coreOfKey x.1 == coreOfKey key && x.2.launch == w.launch &&
      x.2.ents.toList.any fun f => f.outst.any fun o => match o.kind with | .reorder _ _ _ _ _ => true | _ => false)

/-- REISSUE of a fragment (R41, R61): bit i for a cancelled load at PC − 4 · (i + 1), and for one that was still to be issued again. -/
def Frag.reissueBits (f : Frag) : BitVec 16 :=
  (f.redo.map fun x => x.1).foldl (fun m a => m ||| BitVec.ofNat 16 (2 ^ reissueBit f.savedPc a))
    (f.outst.foldl (fun m o => match o.kind with | .load _ => m ||| BitVec.ofNat 16 (2 ^ reissueBit f.savedPc o.pc) | _ => m) 0)

/-- A fragment as it is saved: its loads are cancelled (R61). -/
def Frag.saved (f : Frag) : Frag :=
  { f with
    pc := f.savedPc, redo := [], reissue := f.reissueBits, walkWait := [], walkFail := [], age := 0
    outst := f.outst.map fun o => match o.kind with | .load x => { o with kind := .load { x with got := [] } } | _ => o }

/-- Events that belong to a swell's place and go when it leaves. -/
def placeEvent (sw : SwellId) : Internal → Bool
  | .loadResponse x _ => x == sw
  | .accessTimeout x _ => x == sw
  | .swellMoveIn x => x == sw
  | .swellMoveOut x => x == sw
  | .asyncFaultDelivery x => x == sw
  | .twaitExpiry fr => fr.swell == sw
  | _ => false

/-- Everything that waits for the swell at its old place is withdrawn: tag waiters, timed loads and their buffered lanes, latch entries, events (R61, R232, R238, R381). -/
def leavePlace (s : State) (sw : SwellId) : State :=
  let s := s.dropWaiters fun y => y.fr.uid == sw.uid
  let mine (m : Msg) : Bool := m.fr.uid == sw.uid && (match m.kind with | .load _ _ _ | .timedLoad _ _ _ _ => true | _ => false)
  let gone (k : Nat) : Bool := match kvGet s.msgs k with | some m => mine m | none => false
  let s := { s with
    msgs := s.msgs.filter fun (x : Nat × Msg) => !mine x.2
    due := s.due.filter fun (x : Nat × Internal) => !placeEvent sw x.2
    dies := s.dies.map fun (x : Nat × Die) => (x.1, { x.2 with
      tides := x.2.tides.map fun (y : Nat × Tide) => (y.1, { y.2 with buf := y.2.buf.filter (fun m => !mine m.2), ingress := y.2.ingress.filter fun m => !mine m.2 })
      misses := x.2.misses.map fun (y : Nat × List MissReq) => (y.1, y.2.filter fun r => r.sw != sw)
      missWait := x.2.missWait.filter fun r => r.sw != sw
      waiting := x.2.waiting.filter fun y => !gone y.msg }) }
  let s := s.dies.foldl (fun s x =>
    let s := x.2.tides.foldl (fun s y => if y.2.ingress = [] then s else s.postOnce 1 (.tideTick x.1 y.1)) s
    if x.2.missWait = [] then s else (List.range 32).foldl (fun s i => admitMisses s x.1 i 64) s) s
  s.updCore (coreOfKey sw.key) fun x => { x with latch := x.latch.filter fun y => y.slot != slotOfKey sw.key }

/-- The swell as it is saved, with the state of its wake word while it is in a continuation (R54). -/
def savedForm (s : State) (key : Nat) (w : Swell) : Swell :=
  let w : Swell := { w with ents := w.ents.map fun (f : Frag) => if f.live then f.saved else f, active := false }
  if w.contMark then { w with wakeFull := (wakeWord s key).1, wakeVal := (wakeWord s key).2 &&& 3 } else w

/-- Evict a swell (R193): its image goes to a save slot, and its slot and allocation are free. Without room for the image, while a page of the save region is asked for, or while bytes of its core's L1 wait at their home, it stays. -/
def evictSwell (s : State) (sw : SwellId) : State :=
  match s.swellAt sw with
  | none => s
  | some w =>
    if !mayLeave s sw.key w then s
    else
      let s := l1Release s (coreOfKey sw.key) fun _ => true
      if mergeWaits s (coreOfKey sw.key) (fun _ => true) then s.postOnce 64 (.swellEviction sw)
      else match saveSwell s (coreOfKey sw.key) (savedForm s sw.key w) with
      | .error s => s
      | .ok s =>
        let s := evictSections (leavePlace s sw) sw.uid
        let s := { s with swells := kvErase s.swells sw.key }
        (s.updCtx w.ctx fun c => { c with evicted := c.evicted ++ [w.uid] }).nudge (coreOfKey sw.key) w.launch w.ctx

/-- SWELL_EVICTION (R61, R193, R406). -/
def execSwellEviction (sw : SwellId) (s : State) : Host.Outcome State Fault Refusal := .next (evictSwell s sw)

/-! ## Resume (R407) -/

/-- Place of one access made now for a fragment, without waiting for a walk: its page may be read from the tables at once. -/
def placeNow (s : State) (die ctx : Nat) (super : Bool) (k : AccKind) (lane : Nat) (va : Addr) : Except FaultRec LaneLoc × State :=
  if isHost va then
    match (s.ctx ctx).ats.find? fun x => x.1 == pageOf va with
    | some x => (.ok ⟨lane, va, ⟨x.2 * 65536 + va.toNat % 65536, .ucr, false, 64, true⟩⟩, s)
    | none => (.error ⟨.xlate, va, lane, false, false⟩, s)
  else
    match walkTable s die ctx va.toNat with
    | (.absent, s) => (.error ⟨.xlate, va, lane, false, false⟩, s)
    | (.malformed pa, s) => (.error ⟨.perm, va, lane, false, false⟩, s.logError ctx ⟨4, die, BitVec.ofNat 64 pa, 0, 0, 0, 0⟩)
    | (.leaf e big, s) =>
      let l := locOf e big va.toNat
      match accessCheck s ctx die super k e l with
      | some code => (.error ⟨code, va, lane, false, false⟩, s)
      | none => (.ok ⟨lane, va, l⟩, s)

/-- Places of the lanes of a load, or the fault of the lowest faulting one. -/
def placesNow (s : State) (die ctx : Nat) (super : Bool) (k : AccKind) (ls : List LaneLoc) : Except FaultRec (List LaneLoc) × State :=
  ls.foldl (fun r l =>
    match r with
    | (.error e, s) => (.error e, s)
    | (.ok acc, s) => match placeNow s die ctx super k l.lane l.va with
      | (.ok x, s) => (.ok (acc ++ [x]), s)
      | (.error e, s) => (.error e, s)) (.ok [], s)

/-- The address of a load's lane from its source registers as they stand (R61). -/
def LoadOp.addrOf (x : LoadOp) (w : Swell) (lane : Nat) : Addr :=
  (if x.group then w.spair x.a else w.vpair x.a ⟨lane % 32, Nat.mod_lt _ (by decide)⟩) + x.disp

/-- A cancelled load is issued again from the new place, with its source registers as they stand (R61, R381). -/
def reissueLoad (s : State) (id : FragId) (w : Swell) (super : Bool) (op : Nat) (x : LoadOp) : State :=
  let k : AccKind := if x.notBefore.isSome then .timedLoad else .load
  match placesNow s (dieOfKey id.key) w.ctx super k (x.lanes.map fun l => { l with va := x.addrOf w l.lane }) with
  | (.error r, s) => s.failOp id.swell op r
  | (.ok ls, s) =>
    match x.notBefore with
    | none => sendLoad s id w.ctx op { x with lanes := ls }
    | some t =>
      let s := s.updOp id.swell op fun o => { o with kind := .load { x with lanes := ls, got := [] }, sent := s.now }
      let s := ls.foldl (fun s l => sendTimed s id w.ctx l.va l.loc (.timedLoad op l.lane (sizeBytes x.sz) t)) s
      s.post (2 ^ 24 + ticksUntil s (dieOfKey id.key) t) (.accessTimeout id.swell op)

/-- The last register of a list. -/
def lastReg (l : List Nat) : Reg := BitVec.ofNat 7 (l.getLast?.getD 0)

/-- A wait with its address and data from the registers as they stand (R54, R232, R238). -/
def WaitKind.again (w : Swell) (o : Outst) : WaitKind → WaitKind
  | .tag m bs d todo lanes done =>
    .tag m bs d (todo.map fun l =>
      let i : Fin 32 := ⟨l.lane % 32, Nat.mod_lt _ (by decide)⟩
      { l with sa := if bs then w.sreg (lastReg o.reads.s) else (w.vreg (lastReg o.reads.v))[i], data := if m.stores then (w.vreg d)[i] else 0 }) lanes done
  | .bwait _ _ => .bwait (w.sreg (BitVec.ofNat 7 (o.reads.s.head?.getD 0))) (w.sreg (lastReg o.reads.s))
  | .arrive _ _ ex d => .arrive (w.sreg (BitVec.ofNat 7 (o.reads.s.head?.getD 0))) (w.sreg d) ex d
  | k => k

/-- The scratch words that a wait is armed on: lane, address, whether it is an arrival; and the first fault of its addresses. -/
def WaitKind.arms : WaitKind → List (Nat × Word × Bool)
  | .tag _ _ _ todo _ _ => todo.map fun l => (l.lane, l.sa, false)
  | .bwait sa _ => [(0, sa + 16, false)]
  | .arrive sa _ _ _ => [(0, sa + 16, true)]
  | _ => []

/-- The check of a wait's addresses at its new place. -/
def WaitKind.armFault (s : State) (c ctx : Nat) : WaitKind → Option FaultRec
  | .tag m _ _ todo _ _ => todo.findSome? fun l => scratchFault s c ctx l.lane l.sa 4 4 (m != .ldf)
  | .bwait sa _ => barFault s c ctx sa 16 4
  | .arrive sa _ _ _ => barFault s c ctx sa 0 16
  | _ => none

/-- A withdrawn tagged wait, BWAIT or arrival is issued again for what is left of it (R232, R238). -/
def rearmWait (s : State) (id : FragId) (w : Swell) (o : Outst) (k : WaitKind) : State :=
  let c := coreOfKey id.key
  let k := k.again w o
  match k.armFault s c w.ctx with
  | some r => s.failOp id.swell o.id r
  | none =>
    let s := (s.updOp id.swell o.id fun o => { o with kind := .wait k }).updSwell id.swell fun w => w.refreshWait id.ent
    let s := k.arms.foldl (fun s a =>
      s.updCluster (clusterOfCore c) fun x => { x with waiters := x.waiters ++ [⟨id, scratchCore c a.2.1, scratchOff a.2.1 / 4, a.1, a.2.2⟩] }) s
    k.arms.foldl (fun s a => s.serve (scratchCore c a.2.1) (scratchOff a.2.1 / 4)) s

/-- The word at an address as a resumed fragment's fetch would read it now; none where that would fault. -/
def wordAtPc (s : State) (id : FragId) (w : Swell) (f : Frag) (pc : Pc) : Option Word :=
  match placeNow s (dieOfKey id.key) w.ctx (f.priv != 0) .fetch 0 (pc.setWidth 64) with
  | (.ok l, s) => some (fetchWord s l.loc)
  | (.error _, _) => none

/-- The first word of the unit of the instruction at an address: HINTs of different kinds before it belong to it (R73). -/
def unitStart (s : State) (id : FragId) (w : Swell) (f : Frag) : Nat → List (BitVec 2) → Pc → Pc
  | 0, _, pc => pc
  | n + 1, kinds, pc =>
    match wordAtPc s id w f (pc - 4) with
    | some x => if isHint x && !kinds.contains (x.extractLsb' 23 2) then unitStart s id w f n (x.extractLsb' 23 2 :: kinds) (pc - 4) else pc
    | none => pc

/-- The addresses that REISSUE names without a load that the device has kept, the oldest first (R41). -/
def Frag.redoAts (f : Frag) : List Pc :=
  let kept (i : Nat) : Bool := f.outst.any fun o => match o.kind with | .load _ => reissueBit f.pc o.pc == i | _ => false
  ((List.range 16).reverse.filter fun i => f.reissue.getLsbD i && !kept i).map fun i => f.pc - BitVec.ofNat 56 (4 * (i + 1))

/-- Each of some addresses with the PC that follows its unit: the next one's first word, the last one's the saved PC. -/
def redoChain (first : Pc → Pc) (saved : Pc) : List Pc → List (Pc × Pc)
  | [] => []
  | [a] => [(a, saved)]
  | a :: b :: t => (a, first b) :: redoChain first saved (b :: t)

/-- A fragment goes first to the loads that supervisor code has named in its REISSUE, each with its HINTs, and then to its saved PC, where one that waited at FUSE executes it again (R41; log 22). -/
def redoLoads (s : State) (id : FragId) : State :=
  match s.fragAt id with
  | none => s
  | some (w, f) =>
    match f.redoAts with
    | [] => s
    | a :: t =>
      let first := unitStart s id w f 3 []
      s.updFrag id fun f => { f with st := if f.st = 2 then 0 else f.st, pc := first a, redo := redoChain first f.pc (a :: t) }

/-- One fragment goes on at the new place: the loads that REISSUE names are issued again, one whose bit supervisor code has cleared is not, one whose bit it has set is run before the saved PC (R41, R61; log 22). -/
def reviveFrag (s : State) (id : FragId) : State :=
  match s.fragAt id with
  | none => s
  | some (w, f) =>
    let s := redoLoads (presentSections s id) id
    let s := f.outst.foldl (fun s o =>
      match s.swellAt id.swell with
      | none => s
      | some w =>
        match o.kind with
        | .load x => if f.reissue.getLsbD (reissueBit f.pc o.pc) then reissueLoad s id w (f.priv != 0) o.id x else s.finishOp id.swell o.id
        | .wait (.value _ _ _ _) => (completeValue (s.post (2 ^ 24) (.accessTimeout id.swell o.id)) id).settleFails id
        | .wait (.enter _ _ _) => s
        | .wait k => rearmWait s id w o k
        | _ => s) (s.updFrag id fun f => { f with reissue := 0 })
    match f.wait with
    | some (.service page va) =>
      if f.wval ≠ 0 then s.wakeFrag id
      else if s.dies.any fun x => x.2.reqs.any fun r => r.who.any fun a => match a with
          | .swell fr => fr.same id && r.ctx == w.ctx && va == f.waddr && (r.page == page || r.page == page / 512 * 512)
          | _ => false then s
      else s.post 1 (.faultServiceRequest (dieOfKey id.key) w.ctx page ⟨false, false, false, false⟩ (some id))
    | some (.twait t) => s.waitTime id t
    | _ => s

/-- The swell's wake word is written anew, and its token follows (R54). -/
def reviveToken (s : State) (key : Nat) (w : Swell) : State :=
  if w.contMark then
    let c := coreOfKey key
    let s := s.updCore c fun x => x.setWord (wakeOffset x (slotOfKey key)) w.wakeVal w.wakeFull
    s.updSwell ⟨key, w.uid⟩ fun w => { (w.setS 120 (faultToken s key)) with wakeFull := false, wakeVal := 0 }
  else s

/-- Watches and arms of a swell name its new place. -/
def moveWatches (s : State) (key uid : Nat) : State :=
  let mv (y : Watch) : Watch := if y.fr.uid = uid then { y with fr := { y.fr with key := key } } else y
  { s with dies := s.dies.map fun (x : Nat × Die) => (x.1, { x.2 with watches := x.2.watches.map mv, armQueue := x.2.armQueue.map mv }) }

/-- Put a swell back on a core, and let its waits go on (R54, R232, R238, R312, R374, R381, R407). -/
def reviveSwell (s : State) (key base : Nat) (w : Swell) : State :=
  let s := moveWatches (s.placeSwell key base w) key w.uid
  let s := reviveToken s key w
  let s := w.liveEnts.foldl (fun s e => reviveFrag s ⟨key, w.uid, e⟩) s
  if w.pend.late || w.pend.engine then s.postOnce 1 (.asyncFaultDelivery ⟨key, w.uid⟩) else s

/-- Swells of a launch resident on a core. -/
def residentOf (s : State) (c lid : Nat) : Nat := ((coreSwells s c).filter fun x => x.2.launch == lid).length

/-- A core can be given work of a launch: enabled, in use, of its bay, and not marked out (R386, R391, R407). -/
def usable (s : State) (c : Nat) (l : Launch) : Bool := coreEnabled s c && !(s.core c).stopped && l.inBay c && !s.pkg.marked.contains c

/-- Saved swells of a context: the core whose save area holds the swell, or the address of its image. -/
def findSaved (s : State) (ctx uid : Nat) : Option (Sum Nat Addr × Swell) :=
  match s.cores.findSome? fun x => (x.2.save.find? fun w => w.uid == uid).map fun w => (Sum.inl x.1, w) with
  | some r => some r
  | none => ((s.ctx ctx).images.find? fun x => x.1 == uid).map fun x => (Sum.inr x.2.1, x.2.2)

/-- Take a saved swell out of its save slot; an image in memory is read back through the page table, charged to no counter (R409). -/
def takeSaved (s : State) (die ctx uid : Nat) : Except State (Swell × State) :=
  match findSaved s ctx uid with
  | none => .error s
  | some (place, w) =>
    let gone (s : State) : State :=
      { s with cores := s.cores.map fun (x : Nat × Core) => (x.1, { x.2 with save := x.2.save.filter fun y => y.uid != uid }) }.updCtx ctx fun c =>
        { c with images := c.images.filter (fun x => x.1 != uid), evicted := c.evicted.filter fun u => u != uid }
    match place with
    | .inl _ => .ok (w, gone s)
    | .inr a => match saveRead s die ctx (.save uid) a.toNat (saveBytes w.n) with
      | .error e => .error { e.2 with meters := s.meters }
      | .ok (bs, t) => .ok (imageOf w bs, gone { devDone t ctx (.save uid) with meters := s.meters })

/-- A swell that goes on at another core finds what it stored (R184): the new core's L1 drops what it holds, and on another die the SWM copies, which no directory keeps, go as well. -/
def ownStores (s : State) (old new : Nat) : State :=
  let s := if old = new then s else l1Acquire s new (acqClasses true)
  let d := dieOfCore new
  if dieOfCore old = d then s
  else (((partsClean s (dieOfCore old)).die d).partition.filter fun x => x.cls == .swm).foldl (fun s x => partEvict s d x) (partsClean s (dieOfCore old))

/-- SWELL_RESUME (R407): the evicted swell goes on in a free slot of a core of its bay that can hold it; RUN of the slabs of the die it left and of its new die follows (R274). -/
def execSwellResume (ctx uid core slot : Nat) (s : State) : Host.Outcome State Fault Refusal :=
  .next <|
    match findSaved s ctx uid with
    | none => s
    | some (_, w) =>
      match kvGet s.launches w.launch with
      | none => s
      | some l =>
        if (s.ctx ctx).status ≠ 2 ∨ w.ctx ≠ ctx ∨ !usable s core l ∨ 32 ≤ slot ∨ (kvGet s.swells (32 * core + slot)).isSome ∨ !canHold s core l ∨ l.bay.swells ≤ residentOf s core w.launch then s
        else
          -- a save area that the new boundaries would discard is emptied first, so the swell may move to memory on the way
          match setPartition s core l with
          | .error s => s
          | .ok s =>
            match slowPlace s core w.n with
            | none => if slowKib w.n ≤ slowFree s core then startCompaction s core else s
            | some base =>
              match takeSaved s (dieOfCore core) ctx uid with
              | .error s => s
              | .ok (w, s) =>
                let d := dieOfCore core
                let s := ownStores s w.core core
                let s := reviveSwell s (32 * core + slot) base w
                let s := if dieOfCore w.core = d then s else s.slabRunFall (dieOfCore w.core) ctx
                (slabsToRise s d ctx).foldl (fun s i => s.postOnce 0 (.slabRunRise d i)) s

/-! ## Who leaves and who comes back (R386, R391, R398, R406, R407; log 24) -/

/-- A wait of an evicted swell is known to be satisfied (R407): an answer is kept for it, its time has come, or a mailbox word of the pilot is full. -/
def knownReady (s : State) (w : Swell) : Bool :=
  (w.liveEnts.any fun e =>
    let f := w.ent e
    match f.wait with
    | some (.service _ _) => f.wval != 0
    | some (.twait t) => ticksUntil s (dieOfCore w.core) t == 0
    | some (.op _) =>
      (match f.waitOf with
        | some (o, .value _ _ _ ls) => o.fail.isSome || ls.all fun l => l.got.isSome
        | some (_, .enter _ _ _) => s.dies.any fun x => x.2.sluice.waits.any fun y => y.req.fr.uid == w.uid && y.req.fr.ent == e && (y.granted.isSome || y.stalled)
        | _ => false)
    | none => false)
  || (w.contMark && w.wakeFull)
  || (match kvGet s.launches w.launch with | some l => l.pilot && (s.ctx w.ctx).mbFull != 0 | none => false)

/-- The cores on which an evicted swell could resume, the one it left first (R407). -/
def resumeCores (s : State) (w : Swell) (l : Launch) : List Nat :=
  (((if l.inBay w.core then [w.core] else []) ++ l.cores.filter fun c => c != w.core).filter fun c =>
    usable s c l && canHold s c l && (freeSlot s c).isSome && decide (residentOf s c w.launch < l.bay.swells) && decide (slowKib w.n ≤ if (coreSwells s c).isEmpty then l.bay.bndReg / 1024 else slowFree s c))

/-- The dispatcher needs a core: a queued task, or an evicted swell known to be ready, is of a partition that the resident swells do not let in (R398, R406). -/
def coreNeeded (s : State) (c : Nat) : Bool :=
  ((s.cluster (clusterOfCore c)).store.any fun t => t.core == c &&
    (match kvGet s.launches t.launch with | some l => (s.ctx l.ctx).status == 2 && l.active && usable s c l && !canHold s c l | none => false))
  || s.ctxs.any fun x => x.2.status == 2 && x.2.evicted.any fun u =>
    match findSaved s x.1 u with
    | some (_, w) => w.core == c && knownReady s w && (match kvGet s.launches w.launch with | some l => usable s c l && !canHold s c l | none => false)
    | none => false

/-- A resident swell is to leave its core. -/
def wantsOut (s : State) (key : Nat) (w : Swell) : Bool :=
  let c := coreOfKey key
  (s.ctx w.ctx).status == 3 || (s.core c).stopped || !coreEnabled s c || s.pkg.marked.contains c || coreNeeded s c

/-- Every swell that is to leave and can does so at its point of eviction (R406). -/
def evictScan (s : State) : State :=
  s.swells.foldl (fun s x => if mayLeave s x.1 x.2 && wantsOut s x.1 x.2 then s.postOnce 0 (.swellEviction ⟨x.1, x.2.uid⟩) else s) s

/-- One evicted swell of a context resumes: those known to be ready first, in order of eviction, then the others, which leave a core that the dispatcher needs alone (R407). -/
def resumeScan (s : State) (ctx : Nat) : State :=
  let c := s.ctx ctx
  let resuming := s.due.any fun x => match x.2 with | .swellResume k _ _ _ => k == ctx | _ => false
  if c.status ≠ 2 ∨ resuming then s
  else
    let cands := c.evicted.filterMap fun u =>
      match findSaved s ctx u with
      | some (_, w) => match kvGet s.launches w.launch with
        | some l => (match (resumeCores s w l).find? fun k => knownReady s w || !coreNeeded s k with
          | some k => some (u, k, knownReady s w)
          | none => none)
        | none => none
      | none => none
    match (cands.find? fun x => x.2.2) <|> cands.head? with
    | some (u, k, _) => s.post 1 (.swellResume ctx u k ((freeSlot s k).getD 0))
    | none => s

end Sys2Proof.Machine
end

