-- ==== Sys2Proof/Machine/Shelf.lean ====
section
/-! DEFINITION. The weight shelf's refresh, spare bank and slab registers, and the slices' configuration registers (R270, R274 to R278). -/

namespace Sys2Proof.Machine

/-- SHELF_REFRESH_END (R277): what waited at the bank goes on in the order it came; a bank that is still not to be had ends its wait later. -/
def execShelfRefreshEnd (die bank : Nat) (s : State) : Host.Outcome State Fault Refusal :=
  let here (x : HomeWait) : Bool := match kvGet s.msgs x.msg with
    | some m => !m.loc.host && inShelf m.loc.pa && shelfBank m.loc.pa == bank
    | none => false
  let lines := (((s.die die).waiting.filter here).map fun x => x.line).eraseDups
  .next (if lines ≠ [] ∧ refreshLeft s die bank ≠ 0 then s.postOnce (refreshLeft s die bank) (.shelfRefreshEnd die bank)
         else lines.foldl (fun s line => serveWaiting s die line) s)

/-- SHELF_BANK_RETIRE (R278): the spare takes the place of the first failed bank, contents and number, after a copy whose length the manual leaves open (log 63); a further failure makes every shelf access of the die take DATA. -/
def execShelfBankRetire (die bank : Nat) (s : State) : Host.Outcome State Fault Refusal :=
  .next <|
    match (s.die die).spare with
    | none =>
      let (n, s) := s.choose (2 ^ 20)
      s.updDie die fun d => { d with spare := some bank, copyEnd := s.now + n }
    | some _ => s.updDie die fun d => { d with shelfFailed := true }

/-- RUN of a slab rises (R276): it is set, no L1 of the die keeps a line of the slab, and the shelf writes already checked are waited for; the first task starts behind them. -/
def slabRise (s : State) (die slab : Nat) : State :=
  let s := s.updDie die fun d => { d with slabs := kvSet d.slabs slab ((kvGet d.slabs slab).getD 0 ||| BitVec.twoPow 32 30) }
  let s := (s.cores.filter fun x => dieOfCore x.1 == die).foldl (fun s x =>
    (x.2.l1.filter fun l => inSlab die slab (l.line * 256)).foldl (fun s l => l1Flush s x.1 l.line) s) s
  if slabBusy s die slab then s.postOnce 64 (.slabRunRise die slab) else s

/-- SLAB_RUN_RISE (R276). -/
def execSlabRunRise (die slab : Nat) (s : State) : Host.Outcome State Fault Refusal := .next (slabRise s die slab)

/-- A write of a slab register (R274): VALID and OWNER; RUN follows the owner. -/
def slabWrite (s : State) (die slab : Nat) (v : Word) : State :=
  let s := s.updDie die fun d => { d with slabs := kvSet d.slabs slab (v &&& 0x8000003F#32) }
  if v.getLsbD 31 && s.runsOnDie die (v.extractLsb' 0 6).toNat then slabRise s die slab else s

/-- SLAB_REGISTER_WRITE (R274): by firmware or the management function. -/
def execSlabRegisterWrite (die slab : Nat) (v : Word) (s : State) : Host.Outcome State Fault Refusal := .next (slabWrite s die slab v)

/-- Ways of a slice are newly retired: the lines of either partition that stand in them are written back and go (R270). -/
def retireWays (s : State) (d slice : Nat) (gone : Nat → Bool) : State :=
  let hit (line way : Nat) : Bool := sliceOf (line * 256) == slice && gone way
  let s := ((s.die d).partition.filter fun x => hit x.line x.way).foldl (fun s x => partEvict s d x) s
  ((s.die d).slices.filter fun x => hit x.line x.way).foldl (fun s x => sliceDrop s d x) s

/-- SLICE_CONFIG_WRITE (R270): RPW above 8 stores 8; lines of newly retired ways are written back and go, others stay until they are replaced. -/
def execSliceConfigWrite (die slice : Nat) (v : Word) (s : State) : Host.Outcome State Fault Refusal :=
  let rpw : BitVec 4 := if 8 < (v.extractLsb' 8 4).toNat then 8 else v.extractLsb' 8 4
  let r : Word := v.extractLsb' 16 16 ++ 0#4 ++ rpw ++ 0#8
  let old := sliceReg s die slice
  .next (retireWays (s.updDie die fun d => { d with sliceCfg := kvSet d.sliceCfg slice r }) die slice fun w => r.getLsbD (16 + w) && !old.getLsbD (16 + w))

end Sys2Proof.Machine
end

