-- ==== Sys2Proof/Machine/Deal.lean ====
section
/-! DEFINITION. The dispatcher: dealing tasks to cores, starting them, and donation between clusters (R257 to R260, R274, R391, R398, R403). -/

namespace Sys2Proof.Machine

/-- The launch runs, or waits to: its context runs, and it is neither complete nor discarded. -/
def launchLive (s : State) (lid : Nat) : Option Launch :=
  match kvGet s.launches lid with
  | some l => if l.active && (s.ctx l.ctx).status == 2 then some l else none
  | none => none

/-- The core that tasks dealt to bay core number i go to: that core, or the next of the bay when it gets no work (R391; log 25). -/
def dealtCore (s : State) (l : Launch) (i : Nat) : Option Nat :=
  let cs := l.cores
  (cs.drop i ++ cs.take i).find? fun c => usable s c l

/-- Next task of bay core number i (R403). -/
def Launch.cursor (l : Launch) (i : Nat) : Nat := (kvGet l.cursors i).getD i

/-- Cores of the bay. -/
def Launch.width (l : Launch) : Nat := l.bay.rows * l.bay.cols

/-- The lowest task whose cursor a die's dispatcher can deal now: task, bay core number, core (R257, R403). -/
def nextDeal (s : State) (l : Launch) (die : Nat) : Option (Nat × Nat × Nat) :=
  (List.range l.width).foldl (fun b i =>
    let t := l.cursor i
    if l.bay.tasks ≤ t then b
    else match b with
      | some (u, _, _) => if u < t then b else next b t i
      | none => next b t i) none
where
  /-- The cursor's core, when it lies on the die and its cluster's store has room. -/
  next (b : Option (Nat × Nat × Nat)) (t i : Nat) : Option (Nat × Nat × Nat) :=
    match dealtCore s l i with
    | some c => if dieOfCore c = die ∧ (s.cluster (clusterOfCore c)).store.length < 4096 then some (t, i, c) else b
    | none => b

/-- Deal TCBs of a launch from a die's cursors, in ascending task index, while there are tasks and room (R403). -/
def dealAll (die lid : Nat) (l : Launch) : Nat → State → State
  | 0, s => s
  | n + 1, s =>
    match nextDeal s { l with cursors := ((kvGet s.launches lid).map (·.cursors)).getD l.cursors } die with
    | none => s
    | some (t, i, c) =>
      let s := s.updLaunch lid fun l => { l with cursors := kvSet l.cursors i (t + l.width) }
      let s := s.updCluster (clusterOfCore c) fun k => { k with store := k.store ++ [⟨lid, c, t⟩] }
      dealAll die lid l n (s.postOnce 1 (.taskStart c lid))

/-- Entries of a die's task stores have become free: its dispatcher deals again for every launch with tasks left there (R403). -/
def refillDie (s : State) (d : Nat) : State :=
  s.launches.foldl (fun s (x : Nat × Launch) =>
    if x.2.active && x.2.cores.any (fun c => dieOfCore c == d) && (List.range x.2.width).any (fun i => decide (x.2.cursor i < x.2.bay.tasks))
    then s.postOnce 1 (.dispatcherRefill d x.1) else s) s

/-! ## Donation (R259, R260) -/

/-- A launch allows donation: DONATE of its bay record (R395). -/
def Launch.donates (l : Launch) : Bool := l.bay.flags / 2 % 2 == 1

/-- A core has a free slot for a launch (R258, R259). -/
def hasSlot (s : State) (c lid : Nat) (l : Launch) : Bool :=
  usable s c l && canHold s c l && (freeSlot s c).isSome && decide (residentOf s c lid < l.bay.swells)

/-- Cores of a cluster in the bay. -/
def clusterCores (l : Launch) (k : Nat) : List Nat := ((List.range 64).map fun i => 64 * k + i).filter fun c => l.inBay c

/-- Unstarted tasks of a launch in a cluster's store. -/
def unstarted (s : State) (k lid : Nat) : List Tcb := (s.cluster k).store.filter fun t => t.launch == lid

/-- A cluster is idle for a launch (R259). -/
def idleFor (s : State) (k lid : Nat) (l : Launch) : Bool :=
  l.donates && (unstarted s k lid).isEmpty && (clusterCores l k).any fun c => hasSlot s c lid l

/-- The candidates of a pass (R259): clusters of the own die by index, then those of other dies by hops, die and index. -/
def stealOrder (l : Launch) (k : Nat) : List Nat :=
  let cs := (l.cores.map clusterOfCore).eraseDups.filter fun c => c != k
  let d := dieOfCluster k
  (List.range 15).flatMap fun h => (List.range 64).flatMap fun e =>
    if meshHops d e = h then ((List.range 4).map fun i => 4 * e + i).filter cs.contains else []

/-- Ticks of a message between two clusters. -/
def stealTicks (a b : Nat) : Nat := 20 + 40 * meshHops (dieOfCluster a) (dieOfCluster b)

/-- Set, or with none remove, a cluster's search for a launch. -/
def setSteal (s : State) (k lid : Nat) (x : Option Steal) : State :=
  s.updCluster k fun c => { c with steals := (c.steals.filter fun y => y.launch != lid) ++ x.toList }

/-- Begin a pass over the candidates. -/
def beginPass (s : State) (k lid : Nat) (l : Launch) : State :=
  match stealOrder l k with
  | [] => setSteal s k lid none
  | v :: r => (setSteal s k lid (some ⟨lid, v :: r⟩)).postOnce (stealTicks k v) (.stealRequest k lid)

/-- A cluster that is idle for a launch begins to look for work, unless it is looking (R259). -/
def stealCheck (s : State) (k lid : Nat) : State :=
  match launchLive s lid with
  | none => s
  | some l =>
    let inTransit := s.due.any fun x => match x.2 with | .tcbShipment j m _ => j == k && m == lid | _ => false
    if idleFor s k lid l && !inTransit && !(s.cluster k).steals.any fun y => y.launch == lid then beginPass s k lid l else s

/-- DISPATCHER_REFILL (R259, R403): the dispatcher of a die writes TCBs into its clusters' stores, in ascending task index, until every store with a waiting task is full: the four stores of a die hold 4 × 4096 entries. A cluster that got none may be idle. -/
def execDispatcherRefill (die launch : Nat) (s : State) : Host.Outcome State Fault Refusal :=
  .next <|
    match launchLive s launch with
    | none => s
    | some l => ((l.cores.filter fun c => dieOfCore c == die).map clusterOfCore).eraseDups.foldl (fun s k => stealCheck s k launch) (dealAll die launch l 16384 s)

/-- Insert a TCB by its task. -/
def insertTask (t : Tcb) : List Tcb → List Tcb
  | [] => [t]
  | u :: r => if t.task < u.task then t :: u :: r else u :: insertTask t r

/-- TCBs in ascending task index. -/
def sortTasks (l : List Tcb) : List Tcb := l.foldl (fun acc t => insertTask t acc) []

/-- STEAL_REQUEST (R259, R260): the cluster's request is at its next candidate. A candidate with n unstarted TCBs ships min(floor((n + 1) / 2), 64), the highest task indices; one with none is passed over; after a whole pass the cluster tries again in 2^12 ticks. -/
def execStealRequest (cluster launch : Nat) (s : State) : Host.Outcome State Fault Refusal :=
  .next <|
    match launchLive s launch with
    | none => setSteal s cluster launch none
    | some l =>
      if !idleFor s cluster launch l then setSteal s cluster launch none
      else
        let left := match (s.cluster cluster).steals.find? fun y => y.launch == launch with
          | some y => y.left
          | none => stealOrder l cluster
        match left with
        | [] => (setSteal s cluster launch (some ⟨launch, []⟩)).post 4096 (.stealRetry cluster launch)
        | v :: rest =>
          let have_ := sortTasks (unstarted s v launch)
          let m := Nat.min ((have_.length + 1) / 2) 64
          if m = 0 then
            match rest with
            | [] => (setSteal s cluster launch (some ⟨launch, []⟩)).post 4096 (.stealRetry cluster launch)
            | u :: _ => (setSteal s cluster launch (some ⟨launch, rest⟩)).post (stealTicks cluster u) (.stealRequest cluster launch)
          else
            let ship := (have_.drop (have_.length - m)).map fun t => t.task
            let s := s.updCluster v fun k => { k with store := k.store.filter fun t => !(t.launch == launch && ship.contains t.task) }
            let s := (setSteal s cluster launch none).updLaunch launch fun l => { l with donated := l.donated + m }
            refillDie ((s.post (stealTicks v cluster) (.tcbShipment cluster launch ship)).postOnce 1 (.dispatcherRefill (dieOfCluster v) launch)) (dieOfCluster v)

/-- STEAL_RETRY (R259): a cluster that is still idle starts again with its first candidate. -/
def execStealRetry (cluster launch : Nat) (s : State) : Host.Outcome State Fault Refusal :=
  .next <|
    match launchLive s launch with
    | none => setSteal s cluster launch none
    | some l => if idleFor s cluster launch l then beginPass s cluster launch l else setSteal s cluster launch none

/-- Cores that a shipment is dealt over (R260, R391): those of the thief in the bay that have free slots; with none left, those that take work; with none of these either, those of the whole bay (log 71). -/
def shipCores (s : State) (cluster lid : Nat) (l : Launch) : List Nat :=
  let own := (clusterCores l cluster).filter fun c => usable s c l
  match own.filter fun c => hasSlot s c lid l with
  | [] => if own = [] then l.cores.filter fun c => usable s c l else own
  | cs => cs

/-- TCB_SHIPMENT (R257, R260): the TCBs are dealt round robin, each into the store of its core's cluster, once the stores have room; a launch torn down discards them. -/
def execTcbShipment (cluster launch : Nat) (tasks : List Nat) (s : State) : Host.Outcome State Fault Refusal :=
  .next <|
    match kvGet s.launches launch with
    | none => s
    | some l =>
      if !l.active then s
      else
        let cs := shipCores s cluster launch l
        let tcbs := sortTasks (tasks.map fun t => ⟨launch, 0, t⟩)
        let dealt := (List.range tcbs.length).map fun i => (⟨launch, (cs[i % cs.length]?).getD 0, ((tcbs[i]?).map fun t => t.task).getD 0⟩ : Tcb)
        let full (k : Nat) : Bool := decide (4096 < (s.cluster k).store.length + (dealt.filter fun t => clusterOfCore t.core == k).length)
        if cs = [] ∨ dealt.any fun t => full (clusterOfCore t.core) then s.post 64 (.tcbShipment cluster launch tasks)
        else
          let s := dealt.foldl (fun s t => s.updCluster (clusterOfCore t.core) fun k => { k with store := k.store ++ [t] }) s
          (dealt.map fun t => t.core).eraseDups.foldl (fun s c => s.postOnce 1 (.taskStart c launch)) s

/-! ## Starting a task (R258, R398) -/

/-- What a core starts next for a launch: a render swell that waits on its die, else the task of lowest index in its queue (R258, R332). -/
inductive StartWork where
  | swell (w : Swell)
  | task (t : Tcb)
deriving DecidableEq, Repr

/-- The next work of a launch on a core. -/
def nextWork (s : State) (c lid : Nat) (l : Launch) : Option StartWork :=
  match l.frame.bind fun f => f.queued.find? fun x => x.1 == dieOfCore c with
  | some x => some (.swell x.2)
  | none => ((sortTasks ((s.cluster (clusterOfCore c)).store.filter fun t => t.launch == lid && t.core == c)).head?).map .task

/-- The swell that begins, with its place in the bay (R33, R258); a pixel or blend swell keeps its S5 (R328, R330). -/
def startedSwell (s : State) (c lid : Nat) (l : Launch) : StartWork → Swell
  | .task t =>
    let w := freshSwell l lid .group (BitVec.ofNat 32 t.task) l.bay.regs l.bay.entry (BitVec.allOnes 32)
    { ((w.setS 5 (BitVec.ofNat 32 (coreRow c - l.prow))).setS 6 (BitVec.ofNat 32 (coreCol c - l.pcol))) with uid := s.nextUid }
  | .swell w => { w.setS 6 (BitVec.ofNat 32 (coreCol c - l.pcol)) with uid := s.nextUid }

/-- The work has been taken: its TCB leaves the store and counts as started, or the render swell leaves its list; the launch has run on the die (R274). -/
def takeWork (s : State) (c lid : Nat) (x : StartWork) : State :=
  let s := s.updLaunch lid fun l => { l with ran := if l.ran.contains (dieOfCore c) then l.ran else l.ran ++ [dieOfCore c] }
  match x with
  | .task t => (s.updCluster (clusterOfCore c) fun k => { k with store := k.store.erase t }).updLaunch lid fun l => { l with st := .running, started := l.started + 1 }
  | .swell w => s.updLaunch lid fun l => { l with frame := l.frame.map fun f => { f with queued := f.queued.erase (dieOfCore c, w) } }

/-- With its last task started a launch has no more for the dies where its swells have ended (R274). -/
def lastStart (s : State) (lid : Nat) : State :=
  match kvGet s.launches lid with
  | none => s
  | some l => if l.started = l.bay.tasks then l.ran.foldl (fun s d => s.slabRunFall d l.ctx) s else s

/-- A core's free slot may make its cluster idle for other launches (R259). -/
def slotChecks (s : State) (core : Nat) : State :=
  s.launches.foldl (fun s (x : Nat × Launch) => if x.2.active && x.2.inBay core then stealCheck s (clusterOfCore core) x.1 else s) s

/-- TASK_START (R175, R178, R258, R274, R398): a core with a free slot, room and the right partition starts the launch's next work there; else it looks again. -/
def execTaskStart (core launch : Nat) (s : State) : Host.Outcome State Fault Refusal :=
  .next <|
    match launchLive s launch with
    | none => slotChecks s core
    | some l =>
      if !usable s core l then s
      else
        match nextWork s core launch l with
        | none => slotChecks s core
        | some work =>
          let again (s : State) : State := s.postOnce 1024 (.taskStart core launch)
          if l.bay.swells ≤ residentOf s core launch then slotChecks s core
          else if !canHold s core l ∨ (freeSlot s core).isNone then again s
          else
            match setPartition s core l with
            | .error s => again s
            | .ok s =>
              let rise := slabsToRise s (dieOfCore core) l.ctx
              let n := match work with | .task _ => l.bay.regs | .swell w => w.n
              if rise ≠ [] then (rise.foldl (fun s i => s.postOnce 0 (.slabRunRise (dieOfCore core) i)) s).postOnce 1 (.taskStart core launch)
              else
                match slowPlace s core n, freeSlot s core with
                | some base, some slot =>
                  let w := startedSwell s core launch l work
                  let s := (takeWork s core launch work).placeSwell (32 * core + slot) base w
                  let s := lastStart { s with nextUid := s.nextUid + 1 } launch
                  refillDie ((s.postOnce 1 (.taskStart core launch)).postOnce 1 (.dispatcherRefill (dieOfCore core) launch)) (dieOfCore core)
                | _, _ => again (if slowKib n ≤ slowFree s core then startCompaction s core else s)

end Sys2Proof.Machine
end

