-- ==== Sys2Proof/Machine/Links.lean ====
section
/-! DEFINITION. Inter-die links, shore links and host ports: spill and drain of a stalled link, routing tables, and changes of link state (R361 to R364, R383, R384, R418, R419). -/

namespace Sys2Proof.Machine

/-! ## Stalled links (R362 to R364) -/

/-- A message waits in a spill region or before a full one. -/
def isSpilled (s : State) (k : Nat) : Bool := s.dies.any fun x => x.2.links.any fun y => y.spilled.contains k || y.blocked.contains k

/-- Packets queued for an output of a die in their order (R362): those on their way by it that no home holds. The model's packets are requests, class 0 (R265; log 51); with the queue in the region, its buffers are empty. -/
def outQueue (s : State) (d edge cls : Nat) : List Nat :=
  if cls ≠ 0 || (s.die d).links.any fun x => x.carries (edge + 1) && x.stalled then []
  else (s.msgs.filter fun x => !x.2.loc.host && (outputsTo s x.2.loc.die 64 x.2.src).contains (d, edge + 1) && !isSpilled s x.1
    && !((s.die x.2.loc.die).waiting.any fun y => y.msg == x.1) && s.due.any fun y => y.2 == x.2.event x.1).map fun x => x.1

/-- As many of the messages, in order, as the spill region still takes. -/
def spillFit (s : State) : Nat → List Nat → List Nat
  | _, [] => []
  | room, k :: ks =>
    let n := flitsOf s [k]
    if n ≤ room then k :: spillFit s (room - n) ks else []

/-- LINK_STALL_SPILL (R362, R364): the head packet of the output and class has not advanced for 2^16 ticks; the queue goes to the tail of the spill region, what the full region does not take waits behind it, and the edge's register counts the stall. Nothing queued, or nothing taken by a full region, is no stall that causes a spill: the packets wait. -/
def execLinkStallSpill (die edge cls : Nat) (s : State) : Host.Outcome State Fault Refusal :=
  let all := outQueue s die edge cls
  let q := spillFit s (spillRoom s die) all
  .next <|
    if q = [] then s
    else
      let gone (x : Nat × Internal) : Bool := all.any fun k => match kvGet s.msgs k with | some m => x.2 == m.event k | none => false
      let s := { s with due := s.due.filter fun (x : Nat × Internal) => !gone x }
      let s := s.updDie die fun d =>
        let mine (x : LinkOut) : Bool := x.edge == edge && x.cls == cls
        let r := (kvGet d.spillRegs edge).getD ⟨0, 0, 0⟩
        { d with
          links := d.links.filter (fun x => !mine x) ++ [⟨edge, cls, q, all.drop q.length⟩]
          spillRegs := kvSet d.spillRegs edge { r with spills := if r.spills = BitVec.allOnes 32 then r.spills else r.spills + 1, cls := BitVec.ofNat 2 cls } }
      (noteSpill s die edge).postOnce 64 (.linkSpillDrain die edge cls)

/-- What the full region had not taken moves in as there is room (R362). -/
def refillSpill (s : State) (die : Nat) : State :=
  (s.die die).links.foldl (fun s x =>
    let more := spillFit s (spillRoom s die) x.blocked
    if more = [] then s
    else
      (noteSpill (s.updDie die fun d => { d with links := d.links.map fun y =>
        if y.edge = x.edge ∧ y.cls = x.cls then { y with spilled := y.spilled ++ more, blocked := y.blocked.drop more.length } else y }) die x.edge).postOnce 64
          (.linkSpillDrain die x.edge x.cls)) s

/-- LINK_SPILL_DRAIN (R363): the first packet of the region leaves by its output, and the others follow in order. A queue of which the region has taken nothing yet leaves from before it in the same way. -/
def execLinkSpillDrain (die edge cls : Nat) (s : State) : Host.Outcome State Fault Refusal :=
  let mine (x : LinkOut) : Bool := x.edge == edge && x.cls == cls
  .next <|
    match (s.die die).links.find? mine with
    | none => s
    | some x =>
      match x.spilled ++ x.blocked with
      | [] => s
      | k :: _ =>
        let pop (y : LinkOut) : LinkOut :=
          if mine y = false then y else if y.spilled = [] then { y with blocked := y.blocked.drop 1 } else { y with spilled := y.spilled.drop 1 }
        let s := s.updDie die fun d => { d with links := d.links.map pop }
        let s := match kvGet s.msgs k with
          | some m => s.forward (nextDie die (edge + 1)) k m
          | none => s
        let s := refillSpill (noteSpill s die edge) die
        if ((s.die die).links.find? mine).any LinkOut.stalled then s.postOnce 1 (.linkSpillDrain die edge cls) else s

/-! ## Routing tables (R383, R384) -/

/-- Number of a die's edge in the link table. -/
def linkKey (d e : Nat) : Nat := 4 * d + e

/-- The neighbour of a die over an edge: N 0, E 1, S 2, W 3 (R383). -/
def neighbour (d e : Nat) : Option Nat :=
  match e with
  | 0 => if 8 ≤ d then some (d - 8) else none
  | 1 => if d % 8 < 7 then some (d + 1) else none
  | 2 => if d < 56 then some (d + 8) else none
  | _ => if 0 < d % 8 then some (d - 1) else none

/-- Cost of a link (R384): 1, 2 or 4 by width, times 32 / rate rounded up; none for a missing link or a reserved rate. A link the table does not list is at full width and rate (log 6). -/
def linkCost (s : State) (d e : Nat) : Option Nat :=
  let x := (kvGet s.pkg.links (linkKey d e)).getD 0
  let rate := match (x.extractLsb' 12 2).toNat with | 0 => some 32 | 1 => some 24 | 2 => some 16 | _ => none
  match (x.extractLsb' 14 2).toNat, rate with
  | 3, _ => none
  | _, none => none
  | w, some r => some ((2 ^ w * 32 + r - 1) / r)

/-- One round of relaxation of the distances to a destination. -/
def relax (s : State) (dist : List (Option Nat)) : List (Option Nat) :=
  (List.range 64).map fun d =>
    (List.range 4).foldl (fun b e =>
      match neighbour d e, linkCost s d e with
      | some n, some c =>
        match (dist[n]?).bind id, b with
        | some x, some y => some (Nat.min (x + c) y)
        | some x, none => some (x + c)
        | none, _ => b
      | _, _ => b) ((dist[d]?).bind id)

/-- Least costs from every die to a destination. -/
def distances (s : State) (dest : Nat) : List (Option Nat) :=
  (List.range 64).foldl (fun dist _ => relax s dist) ((List.range 64).map fun d => if d = dest then some 0 else none)

/-- The die over an edge when a least-cost path begins with it. -/
def leastHop (s : State) (dist : List (Option Nat)) (d e : Nat) : Option Nat :=
  match neighbour d e, linkCost s d e, (dist[d]?).bind id with
  | some n, some c, some x => if (dist[n]?).bind id = some (x - c) ∧ c ≤ x then some n else none
  | _, _, _ => none

/-- Whether a path of at most n least-cost hops from a die ends at the destination: north–south hops only, or east–west hops before them. -/
def rowFirst (s : State) (dist : List (Option Nat)) (dest : Nat) (ns : Bool) : Nat → Nat → Bool
  | 0, d => d == dest
  | n + 1, d =>
    d == dest || ([0, 2].any fun e => match leastHop s dist d e with | some m => rowFirst s dist dest true n m | none => false)
      || (!ns && [1, 3].any fun e => match leastHop s dist d e with | some m => rowFirst s dist dest false n m | none => false)

/-- The edge code of a die toward a destination (R384; log 29): a least-cost path, one that takes its east–west hops before its north–south hops where there is one, then the lower code. The entry of a destination that no path reaches is 0, the model's choice (log 87). -/
def routeOf (s : State) (dist : List (Option Nat)) (d dest : Nat) : BitVec 4 :=
  if d = dest then 0
  else
    let ordered := (List.range 4).find? fun e => match leastHop s dist d e with | some n => rowFirst s dist dest (e % 2 == 0) 14 n | none => false
    match ordered <|> (List.range 4).find? fun e => (leastHop s dist d e).isSome with
    | some e => BitVec.ofNat 4 (e + 1)
    | none => 0

/-- Every die's routing table from the live link table (R384). -/
def computeRoutes (s : State) : State :=
  let tab := (List.range 64).map fun dest => (dest, distances s dest)
  (List.range 64).foldl (fun s d => s.updDie d fun x => { x with routes := tab.map fun t => routeOf s t.2 d t.1 }) s

/-- ROUTE_TABLE_COMPUTE (R384): new tables are written once no link holds spilled packets. -/
def execRouteTableCompute (s : State) : Host.Outcome State Fault Refusal :=
  .next (if s.dies.any fun x => x.2.links.any LinkOut.stalled then s.post 4096 .routeTableCompute else computeRoutes s)

/-- Field service narrows, takes out or puts in an inter-die link (R383, R384, R432): the entry of the live link table changes, bits 11:0 reading 0, and firmware computes new routes; a link taken out, and an edge of the package boundary, is missing (STATE 3). -/
def serviceLink (s : State) (die edge : Nat) (entry : BitVec 16) (present : Bool) : State :=
  let s := { s with pkg := { s.pkg with links := kvSet s.pkg.links (linkKey die edge) (if present && (neighbour die edge).isSome then entry &&& 0xF000#16 else 0xC000#16) } }
  s.postOnce 1 .routeTableCompute

/-! ## Shore links and host ports (R418, R419) -/

/-- Puts follow the links of their masks (R419): one that waits for a link goes on when one lives; one whose mask has no live link waits for one from now. -/
def followLinks (s : State) : State :=
  s.pkg.puts.foldl (fun s x =>
    let live := routeLive s x.2.node
    if x.2.acked then s
    else if x.2.waiting && live then { s with pkg := { s.pkg with puts := kvSet s.pkg.puts x.1 { x.2 with waiting := false, tried := s.now } } }
    else if !x.2.waiting && !live then
      { s with pkg := { s.pkg with puts := kvSet s.pkg.puts x.1 { x.2 with waiting := true, tried := s.now } } }.post (2 ^ 24) (.putLinkTimeout x.1)
    else s) s

/-- A shore link is live or not. -/
def setShore (s : State) (link : Nat) (live : Bool) : State :=
  let m := BitVec.twoPow 28 link
  followLinks { s with pkg := { s.pkg with shoreLive := if live then s.pkg.shoreLive ||| m else s.pkg.shoreLive &&& ~~~m } }

/-- SHORE_LINK_LIVE_CHANGE (R419). -/
def execShoreLinkLiveChange (link : Nat) (live : Bool) (s : State) : Host.Outcome State Fault Refusal := .next (setShore s link live)

/-- HOST_PORT_LINK_CHANGE (R418): the link of a host port goes up or down; accesses that waited for a port go on. -/
def execHostPortLinkChange (port : Nat) (up : Bool) (s : State) : Host.Outcome State Fault Refusal :=
  let s := { s with pkg := { s.pkg with ports := s.pkg.ports.mapIdx fun i p => if i = port then { p with up := up } else p } }
  .next (if up then ((s.die 64).waiting.map fun x => x.line).eraseDups.foldl (fun s line => serveWaiting s 64 line) s else s)

end Sys2Proof.Machine
end

