-- ==== Sys2Proof/Machine/Discipline.lean ====
section
/-! DEFINITION. Time discipline: Sync and path delay between neighbouring dies, lock, the lead die's source, and the lead role (R365 to R370, R392). -/

namespace Sys2Proof.Machine

/-- Change a die's time discipline. -/
def State.updDisc (s : State) (d : Nat) (g : Disc → Disc) : State := s.updDie d fun x => { x with disc := g x.disc }

/-- The parent of a die: its neighbour on the route toward the lead die (R368). -/
def timeParent (s : State) (d : Nat) : Option Nat :=
  match routeCode s d s.pkg.lead with
  | 0 => none
  | e + 1 => neighbour d e

/-- The children of a die. -/
def timeChildren (s : State) (d : Nat) : List Nat := (List.range 64).filter fun c => c != d && (s.die c).live && timeParent s c == some d

/-- A count, saturating at 255. -/
def satLoss (x : BitVec 8) : BitVec 8 := if x = 255 then x else x + 1

/-- LOCK is cleared: LOSS counts it when it was set (R369). The lead die's LOCK is always 1. -/
def Disc.unlock (d : Disc) : Disc := if d.lead then d else { d with lock := false, good := 0, loss := if d.lock then satLoss d.loss else d.loss }

/-- An offset as OFS holds it, saturating at ±32,767 (R369). -/
def ofsWord (o : Int) : BitVec 16 := BitVec.ofInt 16 (if 32767 < o then 32767 else if o < -32767 then -32767 else o)

/-- SYNC_TIMER (R368): every die's timer runs; a parent sends a Sync to each child, and then its ATIME at the departure. A message of the control lane travels for the path delay that the child has measured (log 83). -/
def execSyncTimer (die : Nat) (s : State) : Host.Outcome State Fault Refusal :=
  let t := s.atime die
  let seq := (s.die die).disc.syncSeq + 1
  let s := s.updDisc die fun d => { d with syncSeq := seq }
  let s := (timeChildren s die).foldl (fun s c =>
    (s.post (s.die c).disc.delay (.sync c seq)).post ((s.die c).disc.delay + 1) (.followUp c t)) s
  .next (s.postOnce 65536 (.syncTimer die))

/-- SYNC (R368): the child notes its own ATIME at the arrival, and waits anew for the next one. -/
def execSync (die seq : Nat) (s : State) : Host.Outcome State Fault Refusal :=
  let s := s.updDisc die fun d => { d with syncAt := s.atime die, syncSeq := Nat.max seq d.syncSeq }
  .next (s.post (2 ^ 20) (.lockLossTimeout die))

/-- FOLLOW_UP (R368, R369): the offset from the parent; LOCK after 16 Syncs within 2 ticks, cleared beyond 4; the rate is adjusted to remove the offset. -/
def execFollowUp (die : Nat) (t : Addr) (s : State) : Host.Outcome State Fault Refusal :=
  let d := (s.die die).disc
  let o : Int := (d.syncAt - t).toInt - d.delay
  let good := if o.natAbs ≤ 2 then Nat.min 16 (d.good + 1) else 0
  let s := s.updDisc die fun d =>
    if d.lead then d
    else
      let d := { d with ofs := ofsWord o, slew := -o }
      if 4 < o.natAbs then d.unlock else { d with good := good, lock := d.lock || good == 16 }
  .next (if (s.die die).disc.lock = d.lock then s else s.postOnce 1 .plockBroadcast)

/-- PDELAY_REQ_TIMER (R368): a child asks its parent. -/
def execPdelayReqTimer (die : Nat) (s : State) : Host.Outcome State Fault Refusal :=
  let s := match timeParent s die with
    | some _ => s.post (s.die die).disc.delay (.pdelayReq die (s.atime die))
    | none => s
  .next (s.postOnce (2 ^ 20) (.pdelayReqTimer die))

/-- PDELAY_REQ (R368): the child's parent answers with its arrival and departure times. -/
def execPdelayReq (die : Nat) (t1 : Addr) (s : State) : Host.Outcome State Fault Refusal :=
  .next <|
    match timeParent s die with
    | some p => s.post (s.die die).disc.delay (.pdelayResp die t1 (s.atime p) (s.atime p))
    | none => s

/-- PDELAY_RESP (R368): half the round trip less the parent's turnaround. -/
def execPdelayResp (die : Nat) (t1 t2 t3 : Addr) (s : State) : Host.Outcome State Fault Refusal :=
  let trip : Int := (s.atime die - t1).toInt - (t3 - t2).toInt
  .next (s.updDisc die fun d => { d with delay := (trip / 2).toNat })

/-- LOCK_LOSS_TIMEOUT (R369): no Sync has arrived for 2^20 ticks; else it looks again when that may be. -/
def execLockLossTimeout (die : Nat) (s : State) : Host.Outcome State Fault Refusal :=
  let d := (s.die die).disc
  .next <|
    if (s.atime die - d.syncAt).toNat < 2 ^ 20 then s.postOnce (2 ^ 20 - (s.atime die - d.syncAt).toNat) (.lockLossTimeout die)
    else
      let s := s.updDisc die Disc.unlock
      if (s.die die).disc.lock = d.lock then s else s.postOnce 1 .plockBroadcast

/-- Live dies. -/
def liveDies (s : State) : List Nat := (List.range 64).filter fun d => (s.die d).live

/-- PLOCK and FLOCK as the lead die broadcasts them (R369). -/
def broadcastLock (s : State) : State :=
  let all := (liveDies s).all fun d => (s.die d).disc.lock
  let fl := (s.die s.pkg.lead).disc.flock
  (liveDies s).foldl (fun s d => s.updDisc d fun x => { x with plock := all, flock := fl }) s

/-- PLOCK_BROADCAST (R369). -/
def execPlockBroadcast (s : State) : Host.Outcome State Fault Refusal := .next (broadcastLock s)

/-- The lead die's source is locked or not. -/
def setFlock (s : State) (v : Bool) : State :=
  (s.updDisc s.pkg.lead fun d => { d with flock := v }).postOnce 1 .plockBroadcast

/-- The lead die's source is lost: it goes on at its last rate and clears FLOCK (R367). -/
def holdOver (s : State) : State := setFlock (s.updDisc s.pkg.lead fun d => { d with holdover := if d.slew = 0 then none else some d.fast }) false

/-- TIME_SOURCE_FAIL (R367): the lead die holds over at its last rate and clears FLOCK. -/
def execTimeSourceFail (s : State) : Host.Outcome State Fault Refusal := .next (holdOver s)

/-- The lead die follows its source (R367): its rate removes the offset, and the source is locked. -/
def disciplineLead (s : State) (src : BitVec 2) (offset : Int) : State :=
  if s.pkg.managed ∧ (s.die s.pkg.lead).disc.src = src then setFlock (s.updDisc s.pkg.lead fun d => { d with slew := -offset, holdover := none }) true else s

/-- PPS_INPUT (R367, R433): the lead die's offset from the 1PPS and 10 MHz reference, with SRC 2 and the management module present. -/
def execPpsInput (offset : Int) (s : State) : Host.Outcome State Fault Refusal := .next (disciplineLead s 2 offset)

/-- PTP_PORT_MESSAGE (R367, R433): the lead die's offset from the outside grandmaster, with SRC 1 and the management module present. -/
def execPtpPortMessage (offset : Int) (s : State) : Host.Outcome State Fault Refusal := .next (disciplineLead s 1 offset)

/-- TDISC_WRITE (R369): SRC, where 3 stores 0, and LOSS cleared by a 1. A new source is not locked yet; with SRC 0 the lead die runs free, uncorrected (R367). -/
def execTdiscWrite (die : Nat) (v : Word) (s : State) : Host.Outcome State Fault Refusal :=
  let src : BitVec 2 := if v.extractLsb' 26 2 = 3 then 0 else v.extractLsb' 26 2
  let old := (s.die die).disc.src
  let s := s.updDisc die fun d => { d with src := src, loss := if v.extractLsb' 16 8 = 0 then d.loss else 0 }
  .next <|
    if die = s.pkg.lead ∧ src ≠ old then setFlock (if src = 0 then s.updDisc die fun d => { d with slew := 0, holdover := none } else s) false else s

/-- TDISC as it reads (R369). -/
def tdiscWord (d : Disc) : Word :=
  BitVec.ofBool d.lock ++ BitVec.ofBool d.plock ++ BitVec.ofBool d.flock ++ BitVec.ofBool d.lead ++ d.src ++ 0#2 ++ d.loss ++ d.ofs

/-- Whether any context exists, or has existed since boot (R365, R366). -/
def anyContext (s : State) : Bool := s.pkg.ctxEver || s.ctxs.any fun x => x.2.status != 0

/-- ATIME_BOOT_SET (R366): every die's count becomes the lead die's value, as it was sent one path delay before it is written, plus the measured path delay; never once a context has been created. -/
def execAtimeBootSet (delays : List Nat) (s : State) : Host.Outcome State Fault Refusal :=
  let off := (s.die s.pkg.lead).off
  .next <|
    if anyContext s then s
    else (List.range 64).foldl (fun s d =>
      if d = s.pkg.lead then s
      else s.updDie d fun x => { x with off := off, disc := { x.disc with delay := (delays[d]?).getD 0 } }) s

/-! ## The lead role (R392) -/

/-- The die that takes the role: the first live die of 0, 7, 56 and 63 that is not being updated, else the lowest-numbered (R392). -/
def nextLead (s : State) : Option Nat := ([0, 7, 56, 63] ++ List.range 64).find? fun d => (s.die d).live && !(s.die d).updating

/-- A die becomes the lead die: LEAD and LOCK are 1 there; its clock becomes the reference with no step (R366, R369, R392). The former lead die's correction ends with its role, and its LOCK, which it had as the lead die, is cleared until Syncs set it (R370; log 82). -/
def setLead (s : State) (d : Nat) : State :=
  let s := s.updDisc s.pkg.lead fun x => Disc.unlock { x with lead := false, flock := false, slew := 0, holdover := none }
  let s := { s with pkg := { s.pkg with lead := d } }
  let s := s.updDisc d fun x => { x with lead := true, lock := true, flock := false, slew := 0, ofs := 0, holdover := none }
  s.postOnce 1 .plockBroadcast

/-- LEAD_ROLE_MOVE (R392): when the lead die is retired or takes a firmware update, the role passes on. -/
def moveLead (s : State) : State :=
  let x := s.die s.pkg.lead
  if x.live && !x.updating then s
  else match nextLead s with
    | some d => setLead s d
    | none => s

/-- LEAD_ROLE_MOVE (R392). -/
def execLeadRoleMove (s : State) : Host.Outcome State Fault Refusal := .next (moveLead s)

end Sys2Proof.Machine
end

