-- ==== Sys2Proof/Machine/Measure.lean ====
section
/-! DEFINITION. Measured start: SHA-256, the measurement registers, and the signed report (R430). -/

namespace Sys2Proof.Machine

/-! ## SHA-256 (FIPS 180-4, which R430 names) -/

/-- The round constants. -/
def shaK : List Word :=
  ([0x428a2f98, 0x71374491, 0xb5c0fbcf, 0xe9b5dba5, 0x3956c25b, 0x59f111f1, 0x923f82a4, 0xab1c5ed5] ++
    [0xd807aa98, 0x12835b01, 0x243185be, 0x550c7dc3, 0x72be5d74, 0x80deb1fe, 0x9bdc06a7, 0xc19bf174] ++
    [0xe49b69c1, 0xefbe4786, 0x0fc19dc6, 0x240ca1cc, 0x2de92c6f, 0x4a7484aa, 0x5cb0a9dc, 0x76f988da] ++
    [0x983e5152, 0xa831c66d, 0xb00327c8, 0xbf597fc7, 0xc6e00bf3, 0xd5a79147, 0x06ca6351, 0x14292967] ++
    [0x27b70a85, 0x2e1b2138, 0x4d2c6dfc, 0x53380d13, 0x650a7354, 0x766a0abb, 0x81c2c92e, 0x92722c85] ++
    [0xa2bfe8a1, 0xa81a664b, 0xc24b8b70, 0xc76c51a3, 0xd192e819, 0xd6990624, 0xf40e3585, 0x106aa070] ++
    [0x19a4c116, 0x1e376c08, 0x2748774c, 0x34b0bcb5, 0x391c0cb3, 0x4ed8aa4a, 0x5b9cca4f, 0x682e6ff3] ++
    [0x748f82ee, 0x78a5636f, 0x84c87814, 0x8cc70208, 0x90befffa, 0xa4506ceb, 0xbef9a3f7, 0xc67178f2]).map (BitVec.ofNat 32)

/-- The first hash value. -/
def shaInit : List Word :=
  [0x6a09e667, 0xbb67ae85, 0x3c6ef372, 0xa54ff53a, 0x510e527f, 0x9b05688c, 0x1f83d9ab, 0x5be0cd19].map (BitVec.ofNat 32)

/-- A big-endian word of four bytes. -/
def beWord (bs : List Byte) : Word := bs.foldl (fun (w : Word) b => (w <<< 8) ||| b.setWidth 32) 0

/-- Bytes of a word, the highest first. -/
def beBytes (w : Word) : List Byte := (wordBytes w).reverse

/-- The padded message: a 1 bit, zeros, and the length in bits as 64 bits. -/
def shaPad (bs : List Byte) : List Byte :=
  bs ++ [0x80] ++ List.replicate ((119 - bs.length % 64) % 64) 0 ++ (bytesOfNat (8 * bs.length) 8).reverse

/-- The message schedule, newest word first. -/
def shaSchedule : Nat → List Word → List Word
  | 0, w => w
  | n + 1, w =>
    let a : Word := w.getD 1 0
    let b : Word := w.getD 14 0
    let s1 := a.rotateRight 17 ^^^ a.rotateRight 19 ^^^ (a >>> 10)
    let s0 := b.rotateRight 7 ^^^ b.rotateRight 18 ^^^ (b >>> 3)
    shaSchedule n ((s1 + w.getD 6 0 + s0 + w.getD 15 0) :: w)

/-- One round over the eight working variables. -/
def shaRound (v : List Word) (kw : Word × Word) : List Word :=
  match v with
  | [a, b, c, d, e, f, g, h] =>
    let t1 := h + (e.rotateRight 6 ^^^ e.rotateRight 11 ^^^ e.rotateRight 25) + ((e &&& f) ^^^ (~~~e &&& g)) + kw.1 + kw.2
    let t2 := (a.rotateRight 2 ^^^ a.rotateRight 13 ^^^ a.rotateRight 22) + ((a &&& b) ^^^ (a &&& c) ^^^ (b &&& c))
    [t1 + t2, a, b, c, d + t1, e, f, g]
  | _ => v

/-- One block of 64 bytes. -/
def shaBlock (h : List Word) (bs : List Byte) : List Word :=
  let w16 := ((List.range 16).map fun i => beWord ((bs.drop (4 * i)).take 4)).reverse
  let w := (shaSchedule 48 w16).reverse
  ((shaK.zip w).foldl shaRound h).zipWith (fun x y => x + y) h

/-- The blocks of a padded message. -/
def shaBlocks : Nat → List Word → List Byte → List Word
  | 0, h, _ => h
  | n + 1, h, bs => shaBlocks n (shaBlock h (bs.take 64)) (bs.drop 64)

/-- SHA-256 of bytes: 32 bytes. -/
def sha256 (bs : List Byte) : List Byte :=
  let p := shaPad bs
  (shaBlocks (p.length / 64) shaInit p).flatMap beBytes

/-! ## Measurements (R430) -/

/-- A die's ROM extends measurement register j with the digest of an image (R430). -/
def extendMeasure (reg : Nat) (image : List Byte) (d : Die) : Die :=
  { d with measures := d.measures.mapIdx fun i m => if i = reg then sha256 (m ++ sha256 image) else m }

/-- FIRMWARE_MEASURE (R430): the die's ROM extends measurement register j with the digest of an image. -/
def execFirmwareMeasure (die reg : Nat) (image : List Byte) (s : State) : Host.Outcome State Fault Refusal :=
  .next (s.updDie die (extendMeasure reg image))

/-- Status byte of a die in the report: bit 0 when it is updating or retired (R430; log 16). -/
def measureStatus (d : Die) : Byte := if d.updating || !d.live then 1 else 0

/-- The link table as the management function shows it: die d, edge e at 8 · d + 2 · e (R415). -/
def linkTableBytes (s : State) : List Byte :=
  (List.range 256).flatMap fun i => bytesOfNat ((kvGet s.pkg.links i).getD (if (neighbour (i / 4) (i % 4)).isSome then 0 else 0xC000)).toNat 2

/-- The fuse maps of all dies. -/
def fuseBytes (s : State) : List Byte := (List.range 64).flatMap fun d => bytesOfNat (s.die d).fuse.toNat 32

/-- The retirement logs of all dies. -/
def retireBytes (s : State) : List Byte :=
  (List.range 64).flatMap fun d => (s.die d).retired.flatMap fun x => bytesOfNat x.1 2 ++ bytesOfNat x.2.1 2 ++ bytesOfNat x.2.2.toNat 8

/-- What the lead die's report holds, in the order of R430 (log 16). -/
def reportBody (s : State) (nonce : List Byte) : List Byte :=
  ((List.range 64).flatMap fun d => (s.die d).measures.flatten ++ [measureStatus (s.die d)]) ++ linkTableBytes s
    ++ Config.recordDigest (fuseBytes s) ++ Config.recordDigest (retireBytes s) ++ nonce

/-- GET_MEASUREMENTS (R430): the signed report is served. -/
def execGetMeasurements (nonce : List Byte) (s : State) : Host.Outcome State Fault Refusal :=
  let body := reportBody s nonce
  .next { s with pkg := { s.pkg with report := body ++ Config.signature s.pkg.serial body } }

end Sys2Proof.Machine
end

