-- ==== Sys2Proof/Machine/Manage.lean ====
section
/-! DEFINITION. Cores, rectangles and dies in service: suspect cores, self-test, retirement, enumeration, sparing, firmware update and hot swap (R385 to R392, R432, R433). -/

namespace Sys2Proof.Machine

/-! ## Which cores exist (R385, R387) -/

/-- The log holds an entry for a core site that no reinstatement record cancels (R385). -/
def loggedOut (d : Die) (i : Nat) : Bool :=
  (List.range d.retired.length).any fun j => (match d.retired[j]? with | some x => x.1 == i | none => false) && !d.reinstated.contains (i, j)

/-- A core site is out: fused, or retired with no valid reinstatement (R385). -/
def coreOut (d : Die) (i : Nat) : Bool := d.fuse.getLsbD i || loggedOut d i

/-- Die-local row and column of a core site number: 64 · cluster + index. -/
def siteRow (i : Nat) : Nat := 8 * (i / 128) + i % 64 / 8
/-- Die-local column. -/
def siteCol (i : Nat) : Nat := 8 * (i / 64 % 2) + i % 8
/-- The site at a die-local row and column. -/
def siteAt (r c : Nat) : Nat := 64 * (2 * (r / 8) + c / 8) + 8 * (r % 8) + c % 8

/-- The sites that firmware leaves enabled: the good ones, but for those beyond the cap, disabled from row 15 and column 15 down (R387). -/
def enabledSites (d : Die) (cap : Nat) : BitVec 256 :=
  let good := ((List.range 256).map fun j => siteAt (j / 16) (j % 16)).filter fun i => !coreOut d i
  (good.take cap).foldl (fun (m : BitVec 256) i => m ||| BitVec.twoPow 256 i) 0

/-! ## Enumeration (R388 to R391) -/

/-- Enabled, unassigned cores of a package row as a mask of columns. -/
def rowMask (s : State) (r : Nat) : Nat :=
  (List.range 128).foldl (fun m c => if coreEnabled s (coreAt r c) then m + 2 ^ c else m) 0

/-- The longest run of ones in a mask, with what is left of the mask after each shortening: its length and the columns it can start at. -/
def longestRun : Nat → Nat → Nat → Nat × Nat
  | 0, n, m => (n, m)
  | fuel + 1, n, m => if m &&& (m >>> 1) = 0 then (n, m) else longestRun fuel (n + 1) (m &&& (m >>> 1))

/-- The lowest one of a mask. -/
def lowBit (m : Nat) : Nat := ((List.range 128).find? fun i => m.testBit i).getD 0

/-- A rectangle found: rows, columns, first row, first column. -/
structure Found where
  rows : Nat
  cols : Nat
  row0 : Nat
  col0 : Nat
deriving DecidableEq, Repr

/-- The larger of two rectangles; a tie goes to the smaller row0, the smaller col0, then more rows (R388). -/
def Found.better (a b : Found) : Bool :=
  let x := a.rows * a.cols
  let y := b.rows * b.cols
  decide (y < x) || (x == y && (decide (a.row0 < b.row0) || (a.row0 == b.row0 && (decide (a.col0 < b.col0) || (a.col0 == b.col0 && decide (b.rows < a.rows))))))

/-- The best rectangle that begins at a row: the masks below it are joined row by row. -/
def bestFrom (row0 : Nat) : Nat → Nat → List Nat → Option Found → Option Found
  | _, _, [], b => b
  | n, m, r :: rs, b =>
    let m := m &&& r
    if m = 0 then b
    else
      let (len, at_) := longestRun 128 1 m
      let f : Found := ⟨n + 1, len, row0, lowBit at_⟩
      bestFrom row0 (n + 1) m rs (match b with | some x => if f.better x then some f else some x | none => some f)

/-- The largest rectangle of unassigned cores. -/
def bestRect (masks : List Nat) : Option Found :=
  (List.range masks.length).foldl (fun b r => bestFrom r 0 (2 ^ 128 - 1) (masks.drop r) b) none

/-- The rectangles, largest first, at most 64 (R388). -/
def findRects : Nat → List Nat → List Found
  | 0, _ => []
  | n + 1, masks =>
    match bestRect masks with
    | none => []
    | some f =>
      let cut := (2 ^ f.cols - 1) * 2 ^ f.col0
      f :: findRects n (masks.mapIdx fun i m => if f.row0 ≤ i ∧ i < f.row0 + f.rows then m - (m &&& cut) else m)

/-- RECT entries with their first L2P indices. -/
def rectList (at_ : Nat) : List Found → List Rect
  | [] => []
  | f :: fs => ⟨at_, f.rows, f.cols, f.row0, f.col0⟩ :: rectList (at_ + f.rows * f.cols) fs

/-- L2P entries of a rectangle (R390). -/
def rectNames (r : Rect) : List (BitVec 16) :=
  (List.range (r.rows * r.cols)).map fun i => BitVec.ofNat 16 ((r.prow + i / r.cols) * 256 + (r.pcol + i % r.cols))

/-- Enumerate the enabled cores anew: the tables and GEN, which is never 0 (R388 to R390). -/
def enumerate (s : State) : State :=
  let rects := rectList 0 (findRects 64 ((List.range 128).map (rowMask s)))
  let gen := if s.pkg.gen = BitVec.allOnes 32 then 1 else s.pkg.gen + 1
  { s with pkg := { s.pkg with rects := rects, l2p := rects.flatMap rectNames, gen := gen, marked := [] } }

/-- A launch runs on a rectangle that holds a retired core (R391). -/
def markedBusy (s : State) : Bool :=
  let holds (r : Rect) (c : Nat) : Bool := decide (r.prow ≤ coreRow c) && decide (coreRow c < r.prow + r.rows) && decide (r.pcol ≤ coreCol c) && decide (coreCol c < r.pcol + r.cols)
  s.pkg.rects.any fun r => s.pkg.marked.any (holds r) && s.launches.any fun x => x.2.active && x.2.cores.any (holds r)

/-- ENUMERATION (R388, R391): while a launch runs on the rectangle of a retired core it waits. -/
def execEnumeration (s : State) : Host.Outcome State Fault Refusal := .next (if markedBusy s then s.postOnce 65536 .enumeration else enumerate s)

/-! ## Retirement of a core (R385, R386, R391) -/

/-- Queued tasks of a core go to the core that its work is dealt to now (R391; log 25); before a full store a task waits as one shipped there (R260, R403). -/
def moveTasks (s : State) (c : Nat) : State :=
  let k := clusterOfCore c
  ((s.cluster k).store.filter fun t => t.core == c).foldl (fun s t =>
    match kvGet s.launches t.launch with
    | none => s
    | some l =>
      match (let cs := l.cores; (cs.dropWhile (fun x => x != c) ++ cs).find? fun x => usable s x l) with
      | none => s
      | some n =>
        let s := s.updCluster k fun x => { x with store := x.store.erase t }
        if 4096 ≤ (s.cluster (clusterOfCore n)).store.length then s.post 64 (.tcbShipment (clusterOfCore n) t.launch [t.task])
        else (s.updCluster (clusterOfCore n) fun x => { x with store := x.store ++ [{ t with core := n }] }).postOnce 1 (.taskStart n t.launch)) s

/-- A core of the tables is marked out in its L2P entry until the next enumeration (R391). -/
def markCore (s : State) (c : Nat) : State :=
  let name := BitVec.ofNat 16 (coreRow c * 256 + coreCol c)
  if s.pkg.l2p.contains name then
    { s with pkg := { s.pkg with marked := if s.pkg.marked.contains c then s.pkg.marked else s.pkg.marked ++ [c]
                                 l2p := s.pkg.l2p.map fun e => if e = name then e ||| 0x8000 else e } }
  else s

/-- Retire a core: a log entry with a reason and the ATIME, the core is out, its tasks move, its swells are to leave, and the rectangles are enumerated again when they are free (R385, R386, R391). Reason 1 is a failed self-test, 2 the retirement of its die (log 30). -/
def retireCore (s : State) (c reason : Nat) : State :=
  let d := dieOfCore c
  let s := s.updDie d fun x => { x with
    retired := x.retired ++ [(c % 256, reason, s.atime d)]
    enabled := x.enabled &&& ~~~(BitVec.twoPow 256 (c % 256)) }
  (moveTasks (markCore s c) c).postOnce 1 .enumeration

/-- SUSPECT_CORE_SERVICE (R386): tasks stop on a suspect core, and its swells are to leave; their unstarted tasks can be donated. -/
def execSuspectCoreService (core : Nat) (s : State) : Host.Outcome State Fault Refusal :=
  .next (if (s.core core).err.getLsbD 63 then s.updCore core fun x => { x with stopped := true } else s)

/-- CORE_SELF_TEST (R386): a core that fails is retired; one that passes is no longer suspect and takes work again. -/
def execCoreSelfTest (core : Nat) (passed : Bool) (s : State) : Host.Outcome State Fault Refusal :=
  .next <|
    if passed then
      let s := s.updCore core fun x => { x with stopped := false, err := x.err &&& ~~~(BitVec.twoPow 64 63) }
      s.launches.foldl (fun s x => if x.2.active && x.2.inBay core then s.postOnce 1 (.taskStart core x.1) else s) s
    else if coreOut (s.die (dieOfCore core)) (core % 256) then s
    else retireCore s core 1

/-! ## Dies, memory and modules (R295, R391, R392, R432, R433) -/

/-- A retired die's place in a context's sluice list goes to a live die, with its entries and records (R295). -/
def replaceSluiceDie (s : State) (ctx retired live : Nat) : State :=
  match execSluiceDieReplace ctx retired live s with
  | .next s => s
  | _ => s

/-- DIE_RETIREMENT (R391, R392, R432): every core of the die is retired, its place in the sluice lists goes to a live die, and the lead role moves if it was the lead die. -/
def execDieRetirement (die live : Nat) (s : State) : Host.Outcome State Fault Refusal :=
  let s := (List.range 256).foldl (fun s i => if coreOut (s.die die) i then s else retireCore s (256 * die + i) 2) s
  let s := s.ctxs.foldl (fun s x => if x.2.sluiceDies.contains die then replaceSluiceDie s x.1 die live else s) s
  let s := s.updDie die fun d => { d with live := false }
  .next (((moveLead s).postOnce 1 .plockBroadcast).postOnce 1 .routeTableCompute)

/-- HBM_CHANNEL_SPARE (R432): a failed channel is copied to one of the two spares, and accesses to it wait for the copy (log 63); a third failure makes the die's HBM4E accesses take DATA. -/
def execHbmChannelSpare (die channel : Nat) (s : State) : Host.Outcome State Fault Refusal :=
  .next <|
    if (s.die die).hbmSpares.length < 2 then
      let (n, s) := s.choose (2 ^ 20)
      s.updDie die fun d => { d with hbmSpares := d.hbmSpares ++ [channel], hbmCopyEnd := s.now + n }
    else s.updDie die fun d => { d with hbmFailed := true }

/-- FIRMWARE_UPDATE (R392, R432): while a die's firmware is updated, requests to its controller wait; the lead role moves first. One die at a time. Before the new image runs it extends register 7 (R430). -/
def execFirmwareUpdate (die : Nat) (phase : UpdPhase) (s : State) : Host.Outcome State Fault Refusal :=
  .next <|
    match phase with
    | .begin => if s.dies.any fun x => x.2.updating then s else moveLead (s.updDie die fun d => { d with updating := true })
    | .finish image => s.updDie die fun d => if d.updating then { extendMeasure 7 image d with updating := false } else d

/-- A number joins or leaves a list. -/
def inOut (l : List Nat) (n : Nat) (present : Bool) : List Nat := if present then l.filter fun x => x != n else if l.contains n then l else l ++ [n]

/-- MODULE_HOT_SWAP (R432, R433): a pulled optical module takes its shore link down; without the management module the lead die's outside source is lost and it holds over; stages and pumps are only noted; an inter-die link is serviced. -/
def execModuleHotSwap (part : SwapPart) (inserted : Bool) (s : State) : Host.Outcome State Fault Refusal :=
  .next <|
    match part with
    | .powerStage n => { s with pkg := { s.pkg with stagesOut := inOut s.pkg.stagesOut n inserted } }
    | .pump n => { s with pkg := { s.pkg with pumpsOut := inOut s.pkg.pumpsOut n inserted } }
    | .optical link => setShore s link inserted
    | .interDie die edge entry => serviceLink s die edge entry inserted
    | .management =>
      let s := { s with pkg := { s.pkg with managed := inserted } }
      if inserted ∨ (s.die s.pkg.lead).disc.src = 0 then s else holdOver s

end Sys2Proof.Machine
end

