-- ==== Sys2Proof/Machine/Boot.lean ====
section
/-! DEFINITION. Power-on boot: reset values, the cores and links that the part's records give, the lead die, the tables and the timers (R366, R384 to R388, R392, R409, R411). -/

namespace Sys2Proof.Machine

/-- The primary port (R411): the configured one when its link is up and the management module is present, else the first of dies 0, 7, 56 and 63 whose link is up; die 0 when none is (log 34). -/
def primaryDie (cfg : BootCfg) : Nat :=
  match cfg.primary with
  | some d => if cfg.managed ∧ cfg.portsUp.contains d ∧ [0, 7, 56, 63].contains d then d else firstUp
  | none => firstUp
where
  /-- The first port whose link is up. -/
  firstUp : Nat := ([0, 7, 56, 63].find? fun d => cfg.portsUp.contains d).getD 0

/-- Core sites of a die in a list of core numbers. -/
def sitesOf (l : List Nat) (d : Nat) : List Nat := (l.filter fun c => dieOfCore c == d).map fun c => c % 256

/-- Enabled cores of a die at most: 240, or the cap of a feature token, which lies from 240 to 256 (R387). -/
def bootCap (cfg : BootCfg) : Nat :=
  match cfg.cap with
  | some n => if 240 ≤ n ∧ n ≤ 256 then n else 240
  | none => 240

/-- The three records of a die as boot finds them (R385): those it holds, with what the part brings; a reinstatement record counts on the part of its serial number, for an entry that the log holds. -/
def bootRecords (old : Die) (serial : Addr) (cfg : BootCfg) (d : Nat) : Die :=
  let log := ((cfg.retired.filter fun x => dieOfCore x.1 == d).map fun x => (x.1 % 256, x.2)).filter fun x => !old.retired.contains x
  let held := old.retired ++ log
  let back := ((cfg.reinstated.filter fun x => x.serial == serial && dieOfCore x.core == d && decide (x.entry < held.length)).map fun x => (x.core % 256, x.entry)).filter fun x => !old.reinstated.contains x
  { Die.init with
    fuse := (sitesOf cfg.fused d).foldl (fun (m : BitVec 256) i => m ||| BitVec.twoPow 256 i) old.fuse
    retired := held
    reinstated := old.reinstated ++ back }

/-- A die as boot leaves it: its records, failing cores entered in the retirement log with reason 1, and the cores that stay enabled (R385 to R387). -/
def bootDie (s : State) (old : Die) (serial : Addr) (cfg : BootCfg) (d : Nat) : Die :=
  let x := bootRecords old serial cfg d
  let fails := (sitesOf cfg.failing d).filter fun i => !coreOut x i
  let x := { x with retired := x.retired ++ fails.map fun i => (i, 1, s.atime d) }
  { x with enabled := enabledSites x (bootCap cfg) }

/-- The timers that run from boot on (R368, R409): Sync, path delay and meters of every die. One that is no parent, or no child, now may become it. -/
def bootTimers (s : State) : State :=
  (List.range 64).foldl (fun s d =>
    ((s.post (2 ^ 20) (.meterUpdate d)).post 65536 (.syncTimer d)).post (2 ^ 20) (.pdelayReqTimer d)) s

/-- Power-on boot (R366, R384 to R388, R411): nothing survives but GEN, the serial number, the dies' records of their cores, the memory of the host, what is on its way from outside, and the tick count of the model. -/
def bootState (s : State) (cfg : BootCfg) : State :=
  let lead := primaryDie cfg
  let s0 : State := { State.reset with hostMem := s.hostMem, inbox := s.inbox, now := s.now, freeCtr := s.freeCtr }
  let s1 : State := { s0 with
    dies := (List.range 64).map fun d => (d, bootDie s0 (s.die d) s.pkg.serial cfg d)
    pkg := { Pkg.init with
      gen := s.pkg.gen, serial := s.pkg.serial, links := cfg.links.foldl (fun (m : KV (BitVec 16)) (x : Nat × BitVec 16) => kvSet m x.1 x.2) [], lead := lead, primary := lead,
      ports := Pkg.init.ports.map fun (p : Port) => { p with up := cfg.portsUp.contains p.die }, managed := cfg.managed, cap := bootCap cfg, idleSince := s.now } }
  let s2 := s1.updDisc lead fun x => { x with lead := true, lock := true }
  bootTimers (enumerate (computeRoutes s2))

/-- BOOT (R411). -/
def execBoot (cfg : BootCfg) (s : State) : Host.Outcome State Fault Refusal := .next (bootState s cfg)

end Sys2Proof.Machine
end

