-- ==== Sys2Proof/Machine/Launch.lean ====
section
/-! DEFINITION. LAUNCH and LQRY, the checks of a bay record, and the completion of a launch (R316, R317, R338, R391, R395 to R397, R400 to R404). -/

namespace Sys2Proof.Machine

/-! ## The bay record (R395 to R397) -/

/-- A bay record from its 64 bytes. -/
def bayOf (bs : List Byte) : Bay :=
  let a (off : Nat) : Addr := BitVec.ofNat 64 (listNat bs off 8)
  { entry := a 0, args := a 8, done := a 0x10, tasks := listNat bs 0x18 4, rect := listNat bs 0x1C 1, pri := listNat bs 0x1D 1,
    flags := listNat bs 0x1E 2, row0 := listNat bs 0x20 2, col0 := listNat bs 0x22 2, rows := listNat bs 0x24 2, cols := listNat bs 0x26 2,
    regs := listNat bs 0x28 1, swells := listNat bs 0x29 1, scratch := listNat bs 0x2A 2, l1 := listNat bs 0x2C 2 }

/-- RENDER of a bay record. -/
def Bay.render (b : Bay) : Bool := b.flags % 2 == 1
/-- HOST of a bay record. -/
def Bay.host (b : Bay) : Bool := b.flags / 8 % 2 == 1

/-- A field of a bay record outside its limits, or a partition too small for its swells (R395, R396). A bay without cores is refused as well (log 26). -/
def bayLimits (s : State) (bs : List Byte) : Bool :=
  let b := bayOf bs
  let rect := s.pkg.rects[b.rect]?
  b.entry.toNat % 4 != 0 || b.entry.extractLsb' 56 8 != 0 || b.done.toNat % 4 != 0 || b.tasks == 0 || decide (7 < b.pri) || decide (15 < b.flags)
    || b.rows == 0 || b.cols == 0
    || (match rect with | some r => decide (r.rows < b.row0 + b.rows) || decide (r.cols < b.col0 + b.cols) | none => true)
    || b.regs == 0 || decide (128 < b.regs) || b.swells == 0 || decide (32 < b.swells) || decide (511 < b.scratch) || decide (256 < b.l1) || b.l1 % 16 != 0
    || (bs.drop 0x2E).any (fun x => x != 0) || decide (bayTop / 1024 < b.l1 + (b.scratch + 1) + b.swells * slowKib b.regs)

/-- A power of two. -/
def isPow2 (n : Nat) : Bool := (List.range 16).any fun i => n == 2 ^ i

/-- A cove of a bay (R397). -/
def isCove (b own : Bay) : Bool :=
  b.rect == own.rect && isPow2 b.rows && isPow2 b.cols && decide (own.row0 ≤ b.row0) && decide (own.col0 ≤ b.col0)
    && (b.row0 - own.row0) % b.rows == 0 && (b.col0 - own.col0) % b.cols == 0
    && decide (b.row0 + b.rows ≤ own.row0 + own.rows) && decide (b.col0 + b.cols ≤ own.col0 + own.cols)

/-- What a launch may launch (R397): a HOST launch any record, another only a cove of its own bay with HOST clear. -/
def mayLaunch (b own : Bay) : Bool := own.host || (!b.host && isCove b own)

/-- The launch that a record describes. -/
def newLaunch (s : State) (ctx : Nat) (va : Addr) (b : Bay) (pilot : Bool) : Launch :=
  let r := (s.pkg.rects[b.rect]?).getD ⟨0, 0, 0, 0, 0⟩
  { ctx := ctx, handle := 0, bayVa := va, bay := b, prow := r.prow + b.row0, pcol := r.pcol + b.col0, pilot := pilot, st := .queued, started := 0, ended := 0,
    donated := 0, cursors := [], ran := [], frame := none, doneStep := 0 }

/-- A bay that includes a core marked out (R391). -/
def bayMarked (s : State) (l : Launch) : Bool := s.pkg.marked.any l.inBay

/-! ## Handing a launch to the dispatcher (R401, R403) -/

/-- The number of the context's next launch: modulo 2^32, skipping 0 (R401). -/
def nextHandle (n : Nat) : Nat := if (n + 1) % 2 ^ 32 = 0 then n + 2 else n + 1

/-- Hand a launch to the dispatchers of its dies. -/
def acceptLaunch (s : State) (l : Launch) : Word × State :=
  let n := nextHandle (s.ctx l.ctx).launches
  let lid := s.nextMsg
  let l := { l with handle := BitVec.ofNat 32 n, frame := l.frame.map fun f => if f.desc.reshade then f.again else f }
  let s := { s with launches := kvSet s.launches lid l, nextMsg := lid + 1 }.updCtx l.ctx fun c => { c with launches := n }
  (l.handle, l.dieList.foldl (fun s d => s.postOnce 1 (.dispatcherRefill d lid)) s)

/-- Accesses of one lane for n bytes from an address, one per line. -/
def lineAccs (va : Addr) (n : Nat) : List LaneAcc := (linePieces va.toNat (n / 256 + 2) n).map fun p => ⟨0, BitVec.ofNat 64 p.1, 1⟩

/-- Read bytes coherently at package scope as an SLD does (R401): the places of every line, or what ends the issue; bytes that cannot be corrected take DATA. -/
def readCoherent (s : State) (w : Swell) (f : Frag) (va : Addr) (n : Nat) (go : State → List Byte → Done) : Done :=
  withPlaces s w f .load (lineAccs va n) fun s ls =>
    let ps := ((linePieces va.toNat (n / 256 + 2) n).map fun p => p.2).zip ls
    match ps.find? fun p => badBytes s p.2.loc p.1 with
    | some p => .fault s ⟨.data, p.2.va, 0, false, false⟩
    | none =>
      let at_ (s : State) (p : Nat × LaneLoc) : State := countTraffic s w.ctx (dieOfKey s.cur.key) p.2.loc.pa p.1 false p.2.loc.ms
      go (ps.foldl (fun s p => if p.2.loc.host then s else at_ s p) s)
        (ps.flatMap fun p => if p.2.loc.host then readBytes s.hostMem p.2.loc.pa p.1 else coherentBytes s p.2.loc.pa p.1)

/-- Tiles that a die owns. -/
def ownedTiles (tmap : List Nat) (d : Nat) : Nat := (tmap.filter fun x => x == d).length

/-- A check of R316 or R317 over the tile map and the group table fails. -/
def renderBad (d : RenderDesc) (dies tmap : List Nat) (gtab : List Nat) : Bool :=
  tmap.any (fun x => !dies.contains x)
    || dies.any (fun e => decide (d.binsz * 2 ^ 20 < d.pmax * 64 + ownedTiles tmap e * 8192))
    || gtab.any (fun x => decide (65535 < x)) || (gtab.zip gtab.tail).any fun x => decide (x.2 < x.1)

/-- The frame of a render launch, when its descriptor, map and group table pass their checks; LAUNCH otherwise (R316, R317). -/
def withFrame (s : State) (w : Swell) (f : Frag) (l : Launch) (bad : FaultRec) (go : State → Option Frame → Done) : Done :=
  if !l.bay.render then go s none
  else readCoherent s w f l.bay.args 128 fun s bs =>
    if renderDescBad bs l.bay.entry then .fault s bad
    else
      let d := renderDesc bs
      let n := d.tw * d.th
      let map (go : State → List Nat → Done) : Done :=
        if d.tmap = 0 then go s ((List.range n).map fun t => defaultOwner l.dieList d.tw t)
        else readCoherent s w f d.tmap n fun s bs => go s (bs.map fun b => b.toNat)
      map fun s tmap => readCoherent s w f d.gtab (4 * l.bay.tasks) fun s bs =>
        let gtab := (List.range l.bay.tasks).map fun i => listNat bs (4 * i) 4
        if renderBad d l.dieList tmap gtab then .fault s bad
        else go s (some (Frame.init d tmap gtab l.dieList))

/-- LAUNCH (R401): a release at package scope, the record and its checks, the wait for fewer than 256 launches, then the hand-off. -/
def execLaunch (o : Reg2LA) (s : State) : Host.Outcome State Fault Refusal :=
  issue { brk := true } [] s fun w f =>
    let va := w.spair o.a
    let bad : FaultRec := ⟨.launch, va, 0, false, false⟩
    if f.acquiring || !relReady s s.cur f then .stall s
    else
      releasing s s.cur true fun s =>
      if va.extractLsb' 56 8 ≠ 0 then .fault s ⟨.align, va, 0, false, false⟩
      else if va.toNat % 64 ≠ 0 then .fault s bad
      else readCoherent s w f va 64 fun s bs =>
        let l := newLaunch s w.ctx va (bayOf bs) false
        let own := (kvGet s.launches w.launch).map fun x => x.bay
        if bayLimits s bs || !(match own with | some b => mayLaunch l.bay b | none => false) || bayMarked s l then .fault s bad
        else withFrame s w f l bad fun s frame =>
          if 256 ≤ (s.launches.filter fun x => x.2.ctx == w.ctx && x.2.active).length then .stall s
          else
            let (h, s) := acceptLaunch s { l with frame := frame }
            .next (s.updSwell s.cur.swell fun w => w.setS o.d h)

/-! ## LQRY (R402) -/

/-- A RECT entry (R389). -/
def Rect.bits (r : Rect) : Addr := BitVec.ofNat 64 (r.l2pb * 2 ^ 48 + r.cols * 2 ^ 32 + r.rows * 2 ^ 24 + r.pcol * 2 ^ 8 + r.prow)

/-- STATE of a launch as LQRY reports it. -/
def LaunchState.num : LaunchState → Nat
  | .queued => 1 | .running => 2 | .complete => 3 | .discarded => 4

/-- The launch a handle of a context names: the newest with that handle. -/
def launchOf (s : State) (ctx : Nat) (h : Word) : Option Launch := ((s.launches.filter fun x => x.2.ctx == ctx && x.2.handle == h).getLast?).map fun x => x.2

/-- The four registers of LQRY. The counts for an unknown handle, which no rule states, are free values (log 85). -/
def lqryWords (s : State) (ctx kind : Nat) (arg : Word) : List Word :=
  let none_ := List.replicate 4 (BitVec.allOnes 32)
  match kind with
  | 0 => match launchOf s ctx arg with
    | some l => [l.st.num, l.started, l.ended, l.donated].map (BitVec.ofNat 32)
    | none => 0 :: (List.range 3).map fun i => Config.freeCount (s.freeCtr + i)
  | 1 => match s.pkg.rects[arg.toNat]? with
    | some r => [loWord r.bits, hiWord r.bits, s.pkg.gen, BitVec.ofNat 32 s.pkg.rects.length]
    | none => none_
  | 2 => match s.pkg.l2p[arg.toNat]? with
    | some e => [e.setWidth 32, s.pkg.gen, 0, 0]
    | none => none_
  | _ => none_

/-- LQRY (R402). -/
def execLqry (o : Reg2LA) (s : State) : Host.Outcome State Fault Refusal :=
  issueChecked {} (packReg 0x79 o.d o.a 1 o.la) (fun w _ => (w.sreg o.a).extractLsb' 8 24 != 0) [] s fun w _ =>
    let kind := (w.sreg o.a).toNat % 256
    let t : State := if kind = 0 ∧ (launchOf s w.ctx (w.sreg (o.a + 1))).isNone then { s with freeCtr := s.freeCtr + 3 } else s
    .next (t.updSwell s.cur.swell fun w' => w'.setSList o.d (lqryWords s w.ctx kind (w.sreg (o.a + 1))))

/-! ## Completion (R338, R404) -/

/-- The frame of a launch is done: no swell waits to start, no map bit waits, and every tile is finished. -/
def frameDone (l : Launch) : Bool :=
  match l.frame with
  | some f => f.queued.isEmpty && f.mapWaits.isEmpty && f.parts.all fun p => p.tiles.all fun t => t.st == .finished
  | none => true

/-- Every task of a launch has ended, none of its swells is left, and no tile is queued for shading (R337, R404). -/
def tasksDone (s : State) (lid : Nat) (l : Launch) : Bool :=
  decide (l.bay.tasks ≤ l.ended) && !launchSwells s lid (fun _ => true) && frameDone l &&
    !s.due.any fun x => match x.2 with | .tileShadeStart _ m _ => m == lid | _ => false

/-- Every store and engine command of a launch has been performed (R404). -/
def worksDone (s : State) (lid : Nat) : Bool :=
  !s.msgs.any (fun x => x.2.launch == lid) && !s.clusters.any fun x => x.2.engines.toList.any fun e => e.cmds.any fun m => m.launch == lid

/-- A write that the lead die makes for a launch (R404): performed, waited for, or skipped and logged with KIND 8. -/
def leadWrite (s : State) (lid : Nat) (l : Launch) (va : Addr) (bs : List Byte) (go : State → State) : State :=
  let lead := s.pkg.lead
  let u : DevUser := .done lid
  match devPlace s lead l.ctx true .store va.toNat bs.length u with
  | (.ok loc, s) => go (homeWrite (devDone s l.ctx u) l.ctx lead loc bs)
  | (.page p, s) => devAsk s lead l.ctx p true u
  | (.later t, s) => s.postOnce t (.launchCompletion lid)
  | (.fail _, s) => go ((devDone s l.ctx u).logError l.ctx ⟨8, lead, va, 0, 0, 0, 0⟩)

/-- The frame status record (R338). -/
def fstatBytes (f : Frame) : List Byte :=
  [f.nf, f.cull, f.reshaded, bitNat f.ovf].flatMap (fun x => bytesOfNat x 4) ++ List.replicate 16 0

/-- The last writes of a launch in order: the frame status record, then the completion word; then it is complete. -/
def finishLaunch (s : State) (lid : Nat) (l : Launch) : State :=
  let done (s : State) : State :=
    let s := s.updLaunch lid fun l => { l with st := .complete, doneStep := 2 }
    l.ran.foldl (fun s d => s.slabRunFall d l.ctx) s
  let word (s : State) : State :=
    let s := s.updLaunch lid fun l => { l with doneStep := 1 }
    if l.bay.done = 0 then done s else leadWrite s lid l l.bay.done (wordBytes 1) done
  match l.frame with
  | some f => if l.doneStep = 0 then leadWrite s lid l f.desc.fstat (fstatBytes f) word else word s
  | none => word s

/-- LAUNCH_COMPLETION (R338, R404): when every task has ended and all their accesses are performed, dirty lines of the cores that ran the launch are written back, and once they have reached their homes the lead die makes the last writes. -/
def execLaunchCompletion (launch : Nat) (s : State) : Host.Outcome State Fault Refusal :=
  let s := retryMapBits s launch
  .next <|
    match kvGet s.launches launch with
    | none => s
    | some l =>
      let st := (s.ctx l.ctx).status
      if !l.active || st < 2 || 4 < st || !tasksDone s launch l then s
      else if !worksDone s launch then s.postOnce 64 (.launchCompletion launch)
      else
        let s := l.cores.foldl (fun s c => l1Release s c fun _ => true) s
        if l.cores.any fun c => mergeWaits s c fun _ => true then s.postOnce 64 (.launchCompletion launch) else finishLaunch s launch l

end Sys2Proof.Machine
end

