-- ==== Sys2Proof/Machine/Power.lean ====
section
/-! DEFINITION. Power: emergencies and their count, meters, and power states (R371, R409, R410, R431). -/

namespace Sys2Proof.Machine

/-! ## Emergencies (R371) -/

/-- The floor of a die's core clock in 1/1,024 of the nominal clock. -/
def clockFloor (s : State) : Nat := 1024 - (s.pkg.pwrhr.extractLsb' 0 10).toNat

/-- POWER_EMERGENCY (R371): an over-temperature or a current limit sets a die's core clock, in 1/1,024 of nominal; below the floor, the interval counts. -/
def execPowerEmergency (die clock : Nat) (s : State) : Host.Outcome State Fault Refusal :=
  .next (s.updDie die fun d => { d with clock := clock, emergency := d.emergency || decide (clock < clockFloor s) })

/-- POWER_EMERGENCY_END (R371): the die runs at the nominal clock again; the interval it ran below the floor in still counts. -/
def execPowerEmergencyEnd (die : Nat) (s : State) : Host.Outcome State Fault Refusal := .next (s.updDie die fun d => { d with clock := 1024 })

/-- A die whose clock is below the floor counts in this interval (R371). -/
def noteFloor (s : State) : State :=
  { s with dies := s.dies.map fun (x : Nat × Die) => (x.1, { x.2 with emergency := x.2.emergency || decide (x.2.clock < clockFloor s) }) }

/-- An interval of 2^20 ticks ends: EMERG counts it when some die ran below the floor (R371). The intervals begin at boot and end with the lead die's METER_UPDATE, the model's choice (log 88). -/
def countInterval (s : State) : State :=
  let low := s.dies.any fun x => x.2.emergency
  let e : BitVec 16 := s.pkg.pwrhr.extractLsb' 16 16
  let e := if low ∧ e ≠ BitVec.allOnes 16 then e + 1 else e
  let s := { s with pkg := { s.pkg with pwrhr := e ++ (s.pkg.pwrhr.setWidth 16 : BitVec 16) } }
  { s with dies := s.dies.map fun (x : Nat × Die) => (x.1, { x.2 with emergency := decide (x.2.clock < clockFloor s) }) }

/-! ## Meters (R409, R410) -/

/-- The published record of a meter: SEQ, UTIME, the counters, and SEQ2 (R409). -/
def meterBytes (m : Meter) (time : Addr) : List Byte :=
  [m.seq, time, m.mxbusy, m.vissue, m.copyb, m.hbmrd, m.hbmwr, m.meshb, m.shelfb, m.energy, m.late].flatMap (fun x => bytesOfNat x.toNat 8)
    ++ List.replicate 32 0 ++ bytesOfNat m.seq.toNat 8

/-- METER_UPDATE (R409, R410): the die controller publishes every context's counters, and its estimate of energy; the lead die's interval is counted. -/
def execMeterUpdate (die : Nat) (s : State) : Host.Outcome State Fault Refusal :=
  let s := (List.range 64).foldl (fun s k =>
    let s := s.updMeter die k fun m =>
      let m := { m with seq := m.seq + 1, energy := m.energy + Config.freeEnergy s.freeCtr k }
      { m with published := writeBytes [] 0 (meterBytes m (s.atime die)) }
    { s with freeCtr := s.freeCtr + 1 }) s
  let s := if die = s.pkg.lead then countInterval s else s
  .next (s.postOnce (2 ^ 20) (.meterUpdate die))

/-! ## Power states (R431) -/

/-- Nothing keeps the device in I0: no resident swell, no engine command, no queued launch, no put in flight. -/
def deviceIdle (s : State) : Bool :=
  s.swells.isEmpty && s.pkg.puts.isEmpty && s.pkg.heldPuts.isEmpty && !(s.launches.any fun x => x.2.st == .queued)
    && !s.clusters.any fun x => x.2.engines.toList.any fun e => e.cmds != []

/-- The deepest state whose wake latency is at most LTOL microseconds; LTOL 0 keeps I0. -/
def deepest (ltol : Nat) : BitVec 2 := if 1000 ≤ ltol then 3 else if 50 ≤ ltol then 2 else if 2 ≤ ltol then 1 else 0

/-- Wake latency of a state in microseconds, as LTR reports it. -/
def wakeMicros (p : BitVec 2) : Nat := match p.toNat with | 0 => 0 | 1 => 2 | 2 => 50 | _ => 1000

/-- POWER_STATE_ENTRY (R431): after 2^20 idle ticks; in I3 the slices are flushed. -/
def execPowerStateEntry (s : State) : Host.Outcome State Fault Refusal :=
  let p := deepest (s.pkg.ltol.extractLsb' 0 20).toNat
  .next <|
    if !deviceIdle s || s.now < s.pkg.idleSince + 2 ^ 20 then s
    else
      let s := if p = 3 then s.dies.foldl (fun s (x : Nat × Die) => x.2.slices.foldl (fun s l => sliceDrop s x.1 l) (x.2.partition.foldl (fun s l => partEvict s x.1 l) s)) s else s
      { s with pkg := { s.pkg with powerState := p } }

/-- The device is in I0 again. -/
def wakeDevice (s : State) : State := { s with pkg := { s.pkg with powerState := 0, idleSince := s.now } }

/-- POWER_STATE_WAKE (R431): the first access wakes the device. -/
def execPowerStateWake (s : State) : Host.Outcome State Fault Refusal := .next (wakeDevice s)

end Sys2Proof.Machine
end

