-- ==== Sys2Proof/Machine/Context.lean ====
section
/-! DEFINITION. Contexts and what the host writes: creation with the pilot launch, suspend, resume, teardown and free, mailbox words, function registers and apertures (R294, R393, R394, R397, R399, R405, R406, R408, R411 to R418). -/

namespace Sys2Proof.Machine

/-- A host write that is dropped is logged with KIND 5 (R414, R416). -/
def dropWrite (s : State) (ctx : Nat) (addr : Nat) : State := s.logError ctx ⟨5, s.pkg.lead, BitVec.ofNat 64 addr, 0, 0, 0, 0⟩

/-- BAR0 offset of STATE in a context record. -/
def stateOff : Nat := 0x55

/-! ## Creation (R393, R394, R397) -/

/-- A field of the context record outside its limits (R393). -/
def recordBad (c : Ctx) : Bool :=
  c.ptroot % 16384 != 0 || c.field 0x18 8 % 65536 != 0 || c.field 0x20 8 % 65536 != 0 || c.field 0x2C 4 == 0 || c.field 0x38 8 % 65536 != 0
    || c.field 0x50 4 % 128 != 0 || (c.field 0x54 1 != 0 && (decide (c.field 0x54 1 < 20) || decide (40 < c.field 0x54 1)))
    || c.field 0x56 10 != 0 || c.field 0x68 24 != 0

/-- A create request is refused: STATE returns to 0, and KIND 6 is logged with the pilot record's address (R397). -/
def refuseCreate (s : State) (ctx : Nat) : State :=
  ((devDone s ctx .create).updCtx ctx fun c => c.setStatus 0).logError ctx ⟨6, s.pkg.lead, BitVec.ofNat 64 ((s.ctx ctx).field 0x40 8), 0, 0, 0, 0⟩

/-- Set the sluice die list: the dies of the mask, which is that of the pilot bay when the field is 0 (R294). -/
def setSluiceDies (s : State) (ctx : Nat) (l : Launch) : State :=
  s.updCtx ctx fun c =>
    let mask : BitVec 64 := BitVec.ofNat 64 (c.field 0x10 8)
    let mask := if mask = 0 then l.dieList.foldl (fun (m : BitVec 64) d => m ||| BitVec.twoPow 64 d) 0 else mask
    { c with sluiceDies := (List.range 64).filter fun d => mask.getLsbD d, bar := writeBytes c.bar 0x10 (bytesOfNat mask.toNat 8) }

/-- A context begins: its handler entry and counters are set as the record says; mailbox words accepted since its create request are kept (R399). -/
def beginContext (s : State) (ctx : Nat) : State :=
  { s with pkg := { s.pkg with ctxEver := true } }.updCtx ctx fun c => { c with
    fvec := (fvecPc (BitVec.ofNat 64 (c.field 0x08 8))).setWidth 64, fvecWas := none, launches := 0, images := [], evicted := [], devWaits := [], devDenied := [] }

/-- The render checks of a pilot record, made by the device; none while a page is waited for. -/
def deviceFrame (s : State) (ctx : Nat) (l : Launch) : Except (EngPlace × State) (Option (Option Frame) × State) :=
  if !l.bay.render then .ok (some none, s)
  else
    match saveRead s s.pkg.lead ctx .create l.bay.args.toNat 128 with
    | .error e => .error e
    | .ok (bs, s) =>
      if renderDescBad bs l.bay.entry then .ok (none, s)
      else
        let d := renderDesc bs
        let n := d.tw * d.th
        match (if d.tmap = 0 then .ok ((List.range n).map (fun t => BitVec.ofNat 8 (defaultOwner l.dieList d.tw t)), s)
               else saveRead s s.pkg.lead ctx .create d.tmap.toNat n : Except (EngPlace × State) (List Byte × State)) with
        | .error e => .error e
        | .ok (ms, s) =>
          match saveRead s s.pkg.lead ctx .create d.gtab.toNat (4 * l.bay.tasks) with
          | .error e => .error e
          | .ok (gs, s) =>
            let tmap := ms.map fun b => b.toNat
            let gtab := (List.range l.bay.tasks).map fun i => listNat gs (4 * i) 4
            .ok (if renderBad d l.dieList tmap gtab then none else some (some (Frame.init d tmap gtab l.dieList)), s)

/-- A create request is served (R397): the record and the pilot bay record are checked, and the pilot is launched; a page of the pilot record that is not resident is waited for with STATE 1. -/
def createContext (s : State) (ctx : Nat) : State :=
  let c := s.ctx ctx
  let va := c.field 0x40 8
  if recordBad c || va % 64 != 0 then refuseCreate s ctx
  else
    match devPlace s s.pkg.lead ctx true .load va 64 .create with
    | (.page p, s) => devAsk s s.pkg.lead ctx p false .create
    | (.later t, s) => s.postOnce t (.contextCreate ctx)
    | (.fail _, s) => refuseCreate s ctx
    | (.ok loc, s) =>
      let bs := if loc.host then readBytes s.hostMem loc.pa 64 else coherentBytes s loc.pa 64
      let l := newLaunch s ctx (BitVec.ofNat 64 va) (bayOf bs) true
      if bayLimits s bs || !l.bay.host || bayMarked s l then refuseCreate s ctx
      else
        match deviceFrame s ctx l with
        | .error (.page _, s) | .error (.ok _, s) => s
        | .error (.later t, s) => s.postOnce t (.contextCreate ctx)
        | .error (.fail _, s) => refuseCreate s ctx
        | .ok (none, s) => refuseCreate s ctx
        | .ok (some frame, s) =>
          let s := (setSluiceDies (beginContext s ctx) ctx l).updCtx ctx fun c => c.setStatus 2
          (acceptLaunch s { l with frame := frame }).2

/-- STATE is written 1 by the driver of a free context: the queues begin at 0 (R414), and the mailbox words are empty (R399). -/
def requestCreate (s : State) (ctx : Nat) : State :=
  s.updCtx ctx fun c => { c.setStatus 1 with mbWords := List.replicate 32 0, mbFull := 0, fqhead := 0, fqtail := 0, elhead := 0, eltail := 0 }

/-- CONTEXT_CREATE (R394, R397): a create request of a free context, or one that waits. -/
def execContextCreate (ctx : Nat) (s : State) : Host.Outcome State Fault Refusal :=
  .next <|
    match (s.ctx ctx).status with
    | 0 => createContext (requestCreate s ctx) ctx
    | 1 => createContext s ctx
    | _ => dropWrite s ctx stateOff

/-! ## Suspend and resume (R394, R406, R407) -/

/-- A context in suspend: once no swell of it is resident it is suspended (R406). -/
def suspendContext (s : State) (ctx : Nat) : State :=
  if s.swells.any fun x => x.2.ctx == ctx then
    s.swells.foldl (fun s x => if x.2.ctx == ctx && mayLeave s x.1 x.2 then s.postOnce 0 (.swellEviction ⟨x.1, x.2.uid⟩) else s) s
  else s.updCtx ctx fun c => c.setStatus 4

/-- CONTEXT_SUSPEND (R394, R406). -/
def execContextSuspend (ctx : Nat) (s : State) : Host.Outcome State Fault Refusal :=
  .next <|
    match (s.ctx ctx).status with
    | 2 => suspendContext (s.updCtx ctx fun c => c.setStatus 3) ctx
    | 3 => suspendContext s ctx
    | _ => dropWrite s ctx stateOff

/-- A suspended context runs again (R394): its dispatchers look at their work; evicted swells resume as they can (R407). -/
def resumeContext (s : State) (ctx : Nat) : State :=
  let s := s.updCtx ctx fun c => c.setStatus 2
  s.launches.foldl (fun s x =>
    if x.2.ctx == ctx && x.2.active then
      let s := x.2.dieList.foldl (fun s d => s.postOnce 1 (.dispatcherRefill d x.1)) s
      x.2.cores.foldl (fun s c => s.postOnce 1 (.taskStart c x.1)) s
    else s) s

/-- CONTEXT_RESUME (R394). -/
def execContextResume (ctx : Nat) (s : State) : Host.Outcome State Fault Refusal :=
  .next (if (s.ctx ctx).status = 4 then resumeContext s ctx else dropWrite s ctx stateOff)

/-! ## Teardown and free (R63, R256, R274, R405, R408) -/

/-- Stop one resident swell (R63): it leaves with no save; its sections are abandoned. -/
def stopSwell (s : State) (key : Nat) (w : Swell) : State :=
  let s := tearSections (leavePlace s ⟨key, w.uid⟩) w
  { s with
    swells := kvErase s.swells key
    dies := s.dies.map fun (x : Nat × Die) => (x.1, { x.2 with
      watches := x.2.watches.filter fun y => y.fr.uid != w.uid
      armQueue := x.2.armQueue.filter fun y => y.fr.uid != w.uid }) }

/-- Stop one saved swell. -/
def stopSaved (s : State) (w : Swell) : State :=
  let s := tearSections s w
  { s with
    cores := s.cores.map fun (x : Nat × Core) => (x.1, { x.2 with save := x.2.save.filter fun y => y.uid != w.uid })
    dies := s.dies.map fun (x : Nat × Die) => (x.1, { x.2 with
      watches := x.2.watches.filter fun y => y.fr.uid != w.uid
      armQueue := x.2.armQueue.filter fun y => y.fr.uid != w.uid }) }

/-- The context's engine commands are cancelled: STATE 3 with REASON 9, nothing counted (R256); its puts that have not left go with them, and those that have are performed whole (R422). -/
def cancelCommands (s : State) (ctx : Nat) : State :=
  let s := s.clusters.foldl (fun s x => (List.range 5).foldl (fun s e =>
    ((s.engine x.1 e).cmds.filter fun m => m.ctx == ctx).foldl (fun s m => endCmd s x.1 e m true 9) s) s) s
  { s with
    pkg := { s.pkg with puts := s.pkg.puts.filter (fun (x : Nat × Put) => !(x.2.ctx == ctx && x.2.waiting)), xfers := s.pkg.xfers.filter fun x => x.ctx != ctx }
    dies := s.dies.map fun (x : Nat × Die) => (x.1, { x.2 with colls := x.2.colls.filter (fun y => y.ctx != ctx), collDead := x.2.collDead.filter fun y => y.1 != ctx }) }

/-- The slabs of a context are freed (R408). -/
def freeSlabs (s : State) (ctx : Nat) : State :=
  { s with dies := s.dies.map fun (x : Nat × Die) => (x.1, { x.2 with
      slabs := x.2.slabs.map fun (y : Nat × Word) => if slabOwned y.2 ctx then (y.1, 0) else y }) }

/-- The teardown report (R408): how many launches were discarded, and up to 62 of their handles, ascending. -/
def teardownReport (hs : List Nat) : List Byte :=
  bytesOfNat hs.length 8 ++ (hs.take 62).flatMap (fun h => bytesOfNat h 4) ++ List.replicate (248 - 4 * Nat.min 62 hs.length) 0

/-- Insert a number keeping a list rising, equals kept. -/
def insertUp (n : Nat) : List Nat → List Nat
  | [] => [n]
  | m :: t => if n < m then n :: m :: t else m :: insertUp n t

/-- Everything of a context stops (R63, R405, R408), its page requests with it (R293). -/
def stopContext (s : State) (ctx : Nat) : State :=
  let s := s.savedSwells.foldl (fun s w => if w.ctx == ctx then stopSaved s w else s) s
  let s := s.swells.foldl (fun s x => if x.2.ctx == ctx then stopSwell s x.1 x.2 else s) s
  let s := freeSlabs (cancelCommands s ctx) ctx
  let mine (lid : Nat) : Bool := match kvGet s.launches lid with | some l => l.ctx == ctx | none => false
  let s := { s with
    clusters := s.clusters.map fun (x : Nat × Cluster) => (x.1, { x.2 with
      store := x.2.store.filter fun t => !mine t.launch
      steals := x.2.steals.filter fun t => !mine t.launch })
    dies := s.dies.map fun (x : Nat × Die) => (x.1, { x.2 with reqs := x.2.reqs.filter fun r => r.ctx != ctx })
    launches := s.launches.map fun (x : Nat × Launch) =>
      if x.2.ctx == ctx && x.2.active then (x.1, { x.2 with st := .discarded, cursors := [], frame := none }) else x
    pkg := { s.pkg with heldPuts := s.pkg.heldPuts.filter fun x => x.1.ctx != ctx } }
  s.dies.foldl (fun s x => refillDie s x.1) (s.updCtx ctx fun c => { c with images := [], evicted := [], devWaits := [], devDenied := [] })

/-- Handles of launches accepted but with no task started when the teardown begins, ascending (R405). -/
def discardedHandles (s : State) (ctx : Nat) : List Nat :=
  (s.launches.filter fun x => x.2.ctx == ctx && x.2.st == .queued).foldl (fun l x => insertUp x.2.handle.toNat l) []

/-- The report is written, and STATE becomes 6; a page that is not resident is waited for, one that cannot be written is skipped (R408; log 31). -/
def reportTeardown (s : State) (ctx : Nat) (bs : List Byte) : State :=
  let va := (s.ctx ctx).field 0x60 8
  let done (s : State) : State := s.updCtx ctx fun c => c.setStatus 6
  let (r, s) := (linePieces va 3 256).foldl (fun (r : Option EngPlace × State) p =>
    match r.1 with
    | some _ => r
    | none => match devPlace r.2 r.2.pkg.lead ctx false .store p.1 p.2 .teardown with
      | (.ok _, s) => (none, s)
      | (x, s) => (some x, s)) (none, s)
  match r with
  | some (.page p) => devAsk (s.postOnce 65536 (.contextTeardown ctx)) s.pkg.lead ctx p true .teardown
  | some (.later t) => s.postOnce t (.contextTeardown ctx)
  | some _ => done s
  | none => match saveWrite s s.pkg.lead ctx .teardown va bs with
    | .ok s => done s
    | .error e => done e.2

/-- Puts of a context that are still on their way to their target, or not counted yet. -/
def putsLeft (s : State) (ctx : Nat) : List (Nat × Put) := s.pkg.puts.filter fun x => x.2.ctx == ctx

/-- A put whose command has been torn down and whose acknowledgement has come is counted at OCNT as if the command stood (R422); a page that cannot be had leaves it uncounted. -/
def countPut (s : State) (k : Nat) (p : Put) : State :=
  let die := dieOfCluster p.cluster
  let drop (s : State) : State := { s with pkg := { s.pkg with puts := kvErase s.pkg.puts k } }
  match devPlace s die p.ctx false .atomic ((s.ctx p.ctx).window p.win).ocnt 4 .teardown with
  | (.ok l, s) => drop (addWordAt (devDone s p.ctx .teardown) p.ctx die l 1)
  | (.page q, s) => devAsk s die p.ctx q true .teardown
  | (.later _, s) => s
  | (.fail _, s) => drop (devDone s p.ctx .teardown)

/-- Count the puts of a context whose acknowledgements have come. -/
def countPuts (s : State) (ctx : Nat) : State := ((putsLeft s ctx).filter fun x => x.2.acked).foldl (fun s x => countPut s x.1 x.2) s

/-- Teardown of a context (R405, R408, R422): puts that have left are performed whole first; what is discarded is remembered in the launches until the report can be written. -/
def teardownContext (s : State) (ctx : Nat) (first : Bool) : State :=
  let hs := if first then discardedHandles s ctx
            else (s.launches.filter fun x => x.2.ctx == ctx && x.2.st == .discarded && x.2.started == 0).foldl (fun l x => insertUp x.2.handle.toNat l) []
  let s := countPuts (if first then stopContext s ctx else s) ctx
  if putsLeft s ctx = [] then reportTeardown s ctx (teardownReport hs) else s.postOnce 4096 (.contextTeardown ctx)

/-- CONTEXT_TEARDOWN (R394, R406, R408): from running or suspended, and from a suspend that does not end (log 32). -/
def execContextTeardown (ctx : Nat) (s : State) : Host.Outcome State Fault Refusal :=
  .next <|
    match (s.ctx ctx).status with
    | 2 | 3 | 4 => teardownContext (s.updCtx ctx fun c => c.setStatus 5) ctx true
    | 5 => teardownContext s ctx false
    | _ => dropWrite s ctx stateOff

/-- Free the replicas in a context's replica areas (R346). -/
def freeReplicas (s : State) (ctx : Nat) : State :=
  let (base, n) := replicaArea (s.ctx ctx)
  let mine (x : Nat × Nat) : Bool := decide (x.1 * dieWindow + base ≤ x.2) && decide (x.2 < x.1 * dieWindow + base + n * 65536)
  { s with dies := s.dies.map fun (x : Nat × Die) => (x.1, { x.2 with
      ros := (x.2.ros.map fun (r : RosRec) => { r with copies := r.copies.filter fun y => !mine y }).filter fun (r : RosRec) => r.copies != [] }) }

/-- CONTEXT_FREE (R315, R346, R394): STATE returns to 0; the context's section entries, outstanding requests, launches and replicas are gone, and its translations (log 59). A core that it held belongs to no context: one made under its number afterwards is another (R178, R398). -/
def freeContext (s : State) (ctx : Nat) : State :=
  let s := tlbiRemove (freeReplicas s ctx) ctx none
  let s := { s with
    launches := s.launches.filter fun (x : Nat × Launch) => x.2.ctx != ctx
    dies := s.dies.map fun (x : Nat × Die) => (x.1, { x.2 with
      reqs := x.2.reqs.filter fun r => r.ctx != ctx
      sluice := { x.2.sluice with ents := x.2.sluice.ents.filter (fun e => e.ctx != ctx), waits := x.2.sluice.waits.filter (fun y => y.ctx != ctx)
                                  ingress := x.2.sluice.ingress.filter fun y => y.req.ctx != ctx } })
    cores := s.cores.map fun (x : Nat × Core) => if x.2.ctx = some ctx then (x.1, { x.2 with ctx := none }) else x }
  let s := settleAll (s.dies.foldl (fun s (x : Nat × Die) => endWalks s x.1 fun y => y.ctx == ctx) s)
  s.updCtx ctx fun c => { c.setStatus 0 with sluiceDies := [], devWaits := [], devDenied := [], ats := [] }

/-- CONTEXT_FREE (R394). -/
def execContextFree (ctx : Nat) (s : State) : Host.Outcome State Fault Refusal :=
  .next (if (s.ctx ctx).status = 6 then freeContext s ctx else dropWrite s ctx stateOff)

/-- The values that the table of R394 lets the driver write in a state. -/
def stateMoves (n v : Nat) : Bool := [(0, 1), (4, 1), (2, 3), (2, 5), (3, 5), (4, 5), (6, 0)].contains (n, v)

/-- A write of STATE (R394, R414): a value that the table allows from the present state acts; any other is dropped and logged (log 28). -/
def writeState (s : State) (ctx v : Nat) : State :=
  let go (o : Host.Outcome State Fault Refusal) : State := match o with | .next t => t | _ => s
  match (s.ctx ctx).status, v with
  | 0, 1 => (requestCreate s ctx).postOnce 1 (.contextCreate ctx)
  | 4, 1 => go (execContextResume ctx s)
  | 2, 3 => go (execContextSuspend ctx s)
  | 2, 5 => go (execContextTeardown ctx s)
  | 3, 5 => go (execContextTeardown ctx s)
  | 4, 5 => go (execContextTeardown ctx s)
  | 6, 0 => go (execContextFree ctx s)
  | _, _ => dropWrite s ctx stateOff

/-- Ticks until the host writes of a context that wait for a shelf bank have been performed: later ones come behind them (R413). -/
def hostBehind (s : State) (ctx : Nat) : Nat :=
  (s.due.filterMap fun x => match x.2 with
    | .homeWrite k => (kvGet s.msgs k).bind fun m => if m.fr.uid == 0 && m.fr.key % 8192 == 31 && m.ctx == ctx then some (x.1 - s.now) else none
    | _ => none).foldl Nat.max 0

/-! ## The mailbox (R399) -/

/-- The core that holds a context's mailbox words in its scratch now. -/
def mailboxCore (s : State) (ctx : Nat) : Option Nat :=
  match pilotCore s ctx with
  | some c => if (s.core c).ctx = some ctx then some c else none
  | none => none

/-- MBSTAT (R399): the tags of the mailbox words. -/
def mbStat (s : State) (ctx : Nat) : Word :=
  match mailboxCore s ctx with
  | some c => (List.range 32).foldl (fun (m : Word) i => if (s.core c).full.contains (mbOffset s ctx i / 4) then m ||| BitVec.twoPow 32 i else m) 0
  | none => (s.ctx ctx).mbFull

/-- A host write of a mailbox word (R399): an STF into an empty word; into a full one it is dropped and MBOVF notes it. While the context is free or torn down the write is dropped and logged. It acts once the earlier writes of the function are performed, of which it is a release. The device wakes first (R431). -/
def writeMailbox (s : State) (ctx i : Nat) (v : Word) : State :=
  let s := if s.pkg.powerState = 0 then s else wakeDevice s
  let wait := hostBehind s ctx
  if wait ≠ 0 then s.post wait (.mailboxWrite ctx i v)
  else if (s.ctx ctx).status = 0 ∨ (s.ctx ctx).status = 6 then dropWrite s ctx (0x10000 + 4 * i)
  else if (mbStat s ctx).getLsbD i then s.updCtx ctx fun c => { c with mbOvf := c.mbOvf ||| BitVec.twoPow 32 i }
  else match mailboxCore s ctx with
    | some c => s.fillWord c (mbOffset s ctx i) v
    | none => s.updCtx ctx fun c => { c with mbWords := c.mbWords.set i v, mbFull := c.mbFull ||| BitVec.twoPow 32 i }

/-- MAILBOX_WRITE (R399). -/
def execMailboxWrite (ctx word : Nat) (v : Word) (s : State) : Host.Outcome State Fault Refusal := .next (writeMailbox s ctx word v)

/-! ## Function registers (R414, R415, R418) -/

/-- APBASE keeps bits 51:36 (R414). -/
def apMask (v : Addr) : Addr := v &&& 0x000FFFF000000000#64

/-- An 8-byte register after a write of `size` bytes at an offset within it. -/
def mergeReg (old : Addr) (at_ size : Nat) (v : Addr) : Addr :=
  if size = 8 then v
  else if at_ = 0 then (old.extractLsb' 32 32 : Word) ++ (v.setWidth 32 : Word)
  else (v.setWidth 32 : Word) ++ (old.setWidth 32 : Word)

/-- A write into the context record (R414): STATE acts as R394 gives; the other bytes are written while STATE is 0 or 6, else dropped and logged. A write of which more is dropped than one byte makes one record (log 28). -/
def writeRecord (s : State) (ctx off : Nat) (bs : List Byte) : State :=
  let free := (s.ctx ctx).status = 0 ∨ (s.ctx ctx).status = 6
  let cells := ((List.range bs.length).map fun i => (off + i, (bs[i]?).getD 0)).filter fun x => x.1 != stateOff
  let s := if free then s.updCtx ctx fun c => { c with bar := cells.foldl (fun m x => putByte m x.1 x.2) c.bar }
    else if cells ≠ [] then dropWrite s ctx off else s
  let v := ((bs[stateOff - off]?).getD 0).toNat
  if off ≤ stateOff ∧ stateOff < off + bs.length ∧ (free ∨ cells = [] ∨ stateMoves (s.ctx ctx).status v) then writeState s ctx v else s

/-- A write of one 4-byte register of a work function, but for the record and the 8-byte registers. -/
def writeWork4 (s : State) (ctx off : Nat) (v : Word) : State :=
  if off = 0x10C then fqFlush (s.updCtx ctx fun c => { c with fqtail := v }) ctx
  else if off = 0x11C then s.updCtx ctx fun c => { c with eltail := v }
  else if off = 0x120 then (if v = 0 then s else s.updCtx ctx fun c => { c with elovf := 0 })
  else if 0x10000 ≤ off ∧ off < 0x20000 then
    if off < 0x10080 then writeMailbox s ctx ((off - 0x10000) / 4) v
    else if (s.ctx ctx).status = 0 ∨ (s.ctx ctx).status = 6 then dropWrite s ctx off
    else if off = 0x10104 then s.updCtx ctx fun c => { c with mbOvf := c.mbOvf &&& ~~~v }
    else s
  else if 0x20000 ≤ off ∧ off < 0x24000 then s.updCtx ctx fun c => { c with bar := writeBytes c.bar off (wordBytes v) }
  else s

/-- A write of a work function's BAR0 (R414). A write of half of FQANS stands for the whole register with its other half 0: at 0x110 a result of 0, which is logged, at 0x114 nothing, the reading of log 80. -/
def writeWork (s : State) (ctx off size : Nat) (v : Addr) : State :=
  if off < 0x80 then writeRecord s ctx off (bytesOfNat v.toNat size)
  else if 0x100 ≤ off ∧ off < 0x108 then s.updCtx ctx fun c => { c with apbase := apMask (mergeReg c.apbase (off - 0x100) size v) }
  else if off = 0x110 then
    match execFaultAnswer ctx (if size = 8 then v else v.setWidth 32 |>.setWidth 64) s with
    | .next t => t
    | _ => s
  else if size = 8 then writeWork4 (writeWork4 s ctx off (loWord v)) ctx (off + 4) (hiWord v)
  else writeWork4 s ctx off (loWord v)

/-- A write of one 4-byte management register (R371, R415). -/
def writePf1 (s : State) (off : Nat) (v : Word) : State :=
  if off = 0 then
    let e : BitVec 16 := if v.extractLsb' 16 16 = 0 then s.pkg.pwrhr.extractLsb' 16 16 else 0
    noteFloor { s with pkg := { s.pkg with pwrhr := e ++ 0#6 ++ v.extractLsb' 0 10 } }
  else if off = 4 then { s with pkg := { s.pkg with ltol := v &&& 0xFFFFF#32 } }
  else if off = 8 then { s with pkg := { s.pkg with node := v &&& 0xFF#32 } }
  else if 0x100 ≤ off ∧ off < 0x500 then
    followLinks { s with pkg := { s.pkg with routeTable := kvSet s.pkg.routeTable ((off - 0x100) / 4) (v &&& 0x0FFFFFFF#32) } }
  else if 0x10000 ≤ off ∧ off < 0x50000 then
    let d := (off - 0x10000) / 4096
    let o := off % 4096
    if 0x300 ≤ o ∧ o < 0x380 then slabWrite s d ((o - 0x300) / 4) v else s
  else s

/-- A firmware write of 4 bytes at an offset of the die block: SPILLS of a link spill register, LATE and FULLW of a TIDESTAT are cleared by a 1 in any of their bits (R364, R379). The management function only reads these registers (R415). -/
def writeFirmware4 (s : State) (die off : Nat) (v : Word) : State :=
  if 8 ≤ off ∧ off < 0x28 ∧ off % 8 = 4 ∧ v ≠ 0 then
    s.updDie die fun x => { x with spillRegs := kvSet x.spillRegs ((off - 8) / 8) { ((kvGet x.spillRegs ((off - 8) / 8)).getD ⟨0, 0, 0⟩) with spills := 0 } }
  else if 0x100 ≤ off ∧ off < 0x300 then
    s.updTide die ((off - 0x100) / 8) fun t =>
      if off % 8 = 4 then { t with late := if v = 0 then t.late else 0 }
      else { t with fullw := if v.extractLsb' 16 16 = 0 then t.fullw else 0 }
  else s

/-- The host port on a die. -/
def updPort (s : State) (die : Nat) (g : Port → Port) : State :=
  { s with pkg := { s.pkg with ports := s.pkg.ports.map fun p => if p.die = die then g p else p } }

/-- A write of a data function's BAR0 (R418). -/
def writeData (s : State) (die off size : Nat) (v : Addr) : State :=
  if off = 0 then updPort s die fun p => { p with apsel := v.extractLsb' 0 6 }
  else if 8 ≤ off ∧ off < 16 then updPort s die fun p => { p with apbase := apMask (mergeReg p.apbase (off - 8) size v) }
  else s

/-- A write that comes over PCIe: the first access wakes the device (R431). Firmware's writes stay inside it. -/
def HostFn.outside : HostFn → Bool
  | .firmware _ => false
  | _ => true

/-- REGISTER_WRITE (R364, R379, R411, R414, R415, R418): a naturally aligned write of 4 or 8 bytes; any other offset, and any other size, writes nothing. -/
def execRegisterWrite (fn : HostFn) (off size : Nat) (v : Addr) (s : State) : Host.Outcome State Fault Refusal :=
  let s := if s.pkg.powerState = 0 || !HostFn.outside fn then s else wakeDevice s
  .next <|
    if (size ≠ 4 ∧ size ≠ 8) ∨ off % size ≠ 0 then s
    else match fn with
      | .work ctx => writeWork s ctx off size v
      | .pf1 => if size = 8 then writePf1 (writePf1 s off (loWord v)) (off + 4) (hiWord v) else writePf1 s off (loWord v)
      | .data die => writeData s die off size v
      | .config ctx => if off = 0 then s.updCtx ctx fun c => { c with pasid := v.extractLsb' 0 20 } else s
      | .firmware die => if size = 8 then writeFirmware4 (writeFirmware4 s die off (loWord v)) die (off + 4) (hiWord v) else writeFirmware4 s die off (loWord v)

/-! ## Apertures (R413, R418) -/

/-- Whether a physical address is memory that an aperture reaches: the HBM4E of one of the 64 dies below its link spill region, or its shelf (R262, R339, R362; log 33). -/
def paExists (pa : Nat) : Bool := decide (paDie pa < 64) && (decide (paOff pa < hbmEnd) || inShelf pa)

/-- Perform a host write of bytes of one line at its home, once its bank is out of refresh and the earlier writes are performed (R277, R413). -/
def hostPiece (s : State) (ctx : Nat) (pa : Nat) (bs : List Byte) : State :=
  let l : Loc := ⟨pa, .coh, false, paDie pa, false⟩
  let wait := Nat.max (bankWait s l) (hostBehind s ctx)
  if wait = 0 then homeWrite s ctx l.die l bs
  else
    let m : Msg := ⟨⟨8192 * l.die + 31, 0, 0⟩, ctx, 0, 0, l, .merge (rangeMask (pa % 256) bs.length) (lineBytes (pa % 256) bs)⟩
    (s.numberMsg m).post wait (.homeWrite s.nextMsg)

/-- A host write at physical addresses for a context (R413): performed at the home; into the shelf only with the slab VALID, its own and not in RUN, else dropped and logged; so is one where nothing is (log 33). -/
def hostWriteAt (s : State) (ctx pa : Nat) (bs : List Byte) : State :=
  let ok (a : Nat) : Bool := paExists a && (!inShelf a ||
    (let r := slabReg s (paDie a) (shelfOff a / 2 ^ 26); slabOwned r ctx && !r.getLsbD 30))
  if !ok pa || !ok (pa + bs.length - 1) then dropWrite s ctx pa
  else (linePieces pa (bs.length + 1) bs.length).foldl (fun s p => hostPiece s ctx p.1 ((bs.drop (p.1 - pa)).take p.2)) s

/-- The context and the base of the aperture that BAR2 of a function is: of a work function its own; of a data function the context that APSEL names, at the base in its own APBASE (R413, R418). PF1 has none (R415). -/
def apertureOf (s : State) : HostFn → Option (Nat × Addr)
  | .work ctx => some (ctx, (s.ctx ctx).apbase)
  | .data die => ((s.pkg.ports.find? fun p => p.die == die && p.die != s.pkg.primary).map fun p => (p.apsel.toNat, p.apbase))
  | .pf1 | .firmware _ | .config _ => none

/-- APERTURE_WRITE (R413, R418): a host write through the aperture of a function; the device wakes first (R431). -/
def execApertureWrite (fn : HostFn) (off : Nat) (bytes : List Byte) (s : State) : Host.Outcome State Fault Refusal :=
  .next <|
    match apertureOf s fn with
    | none => s
    | some (ctx, base) =>
      let s := if s.pkg.powerState = 0 then s else wakeDevice s
      if bytes = [] then s else hostWriteAt s ctx (base.toNat + off % 2 ^ 36) bytes

end Sys2Proof.Machine
end

