-- ==== Sys2Proof/Machine/Fence.lean ====
section
/-! DEFINITION. FENCE and CMAINT (R286 to R291, R348, R357). -/

namespace Sys2Proof.Machine

/-- An outstanding memory-class word (R167): every long instruction but MMA and MMAZ. -/
def Outst.memClass (o : Outst) : Bool := match o.kind with | .mma _ => false | _ => true

/-- The body of a FENCE (R287): it waits for the fragment's earlier memory-class words, then releases, acquires, or both. DP lines take part from CLUSTER scope on, SH lines at package scope at every scope (R283, R357). -/
def fenceBody (s : State) (f : Frag) (scope : FenceScope) (rel acq : Bool) : Done :=
  if f.outst.any Outst.memClass || (rel && !relReady s s.cur f) then .stall s
  else
    let go (s : State) : Done := .next (if acq then acquireAll s s.cur (scope != .core) else s)
    if rel then releasing s s.cur (scope != .core) go else go s

/-- FENCE_ACQ (R287). -/
def execFenceAcq (scope : FenceScope) (s : State) : Host.Outcome State Fault Refusal :=
  issue {} [] s fun _ f => fenceBody s f scope false true

/-- FENCE_REL (R287). -/
def execFenceRel (scope : FenceScope) (s : State) : Host.Outcome State Fault Refusal :=
  issue {} [] s fun _ f => fenceBody s f scope true false

/-- FENCE_AR (R287): a release followed by an acquire. -/
def execFenceAr (scope : FenceScope) (s : State) : Host.Outcome State Fault Refusal :=
  issue {} [] s fun _ f => fenceBody s f scope true true

/-! ## CMAINT -/

/-- The functions of CMAINT (R288). -/
inductive CacheFn where | clean | inv | clinv
deriving DecidableEq, Repr

/-- The access a function makes for the checks of R289. -/
def CacheFn.access : CacheFn → AccKind
  | .clean => .clean | .inv => .inv | .clinv => .inv

/-- A piece of a range within one 64 KiB granule: first address, length, place and leaf. -/
structure CachePiece where
  va : Addr
  len : Nat
  loc : Loc
  leaf : Addr
deriving DecidableEq, Repr

/-- The granules of a range: first address and length in each. -/
def granules (ea len : Nat) : List (Nat × Nat) :=
  (List.range ((ea + len + 65535) / 65536 - ea / 65536)).map fun i =>
    let lo := Nat.max ea ((ea / 65536 + i) * 65536)
    (lo, Nat.min (ea + len) ((ea / 65536 + i + 1) * 65536) - lo)

/-- The leaf that translates an address for CMAINT, from a TLB or a walk; none where the page has no valid, resident translation. A walk that finds a malformed entry writes its record (R342); that page is skipped like the others (log 72). -/
def cacheLeaf (s : State) (c ctx va : Nat) : Option (Addr × Bool) × State :=
  match (s.core c).tlb.find? (fun t => t.covers ctx va) <|> (s.cluster (clusterOfCore c)).tlb.find? (fun t => t.covers ctx va) with
  | some t => (some (t.leaf, t.big), s)
  | none =>
    match walkTable s (dieOfCore c) ctx va with
    | (.leaf e big, s) => (some (e, big), s)
    | (.malformed pa, s) => (none, s.logError ctx ⟨4, dieOfCore c, BitVec.ofNat 64 pa, 0, 0, 0, 0⟩)
    | (.absent, s) => (none, s)

/-- The pieces of a range that have a translation; the others are skipped (R289), as is host memory, of which nothing is cached (R412). -/
def cachePieces (s : State) (c ctx : Nat) : List (Nat × Nat) → List CachePiece × State
  | [] => ([], s)
  | (va, n) :: rest =>
    if isHost (BitVec.ofNat 64 va) then cachePieces s c ctx rest
    else
      let (leaf, s) := cacheLeaf s c ctx va
      let (ps, s) := cachePieces s c ctx rest
      match leaf with
      | some (e, big) => (⟨BitVec.ofNat 64 va, n, locOf e big va, e⟩ :: ps, s)
      | none => (ps, s)

/-- The first piece that fails a check with a code. -/
def pieceFault (s : State) (ctx die : Nat) (super : Bool) (fn : CacheFn) (code : FaultCode) (ps : List CachePiece) : Option FaultRec :=
  (ps.find? fun p => accessCheck s ctx die super fn.access p.leaf p.loc == some code).map fun p => ⟨code, p.va, 0, fn != .clean, false⟩

/-- Whether a line lies in a piece. -/
def CachePiece.has (p : CachePiece) (line : Nat) : Bool := p.loc.pa ≤ line * 256 && line * 256 < p.loc.pa + p.len

/-- The function on a page of a class: INV discards no store on COH and ROS pages (R348). -/
def CacheFn.on (fn : CacheFn) (cls : PageClass) : CacheFn := if fn == .inv && (cls == .coh || cls == .ros) then .clinv else fn

/-- The L1 part of R290. -/
def CacheFn.l1 (fn : CacheFn) (s : State) (c : Nat) (x : CacheLine) : State :=
  match fn with
  | .clean => l1Clean s c x.line
  | .inv => l1Drop s c x.line
  | .clinv => l1Flush s c x.line

/-- The partition part of R290; a copy that the directory keeps is recalled, whatever the page is now. -/
def CacheFn.part (fn : CacheFn) (s : State) (d : Nat) (x : CacheLine) : State :=
  if x.cls == .coh then recallOne s d x.line (fn != .clean)
  else match fn with
    | .clean => partClean s d x
    | .inv => partDrop s d x.line
    | .clinv => partEvict s d x

/-- The home directory's part for a COH line (R348): exclusive copies are written back and become shared, or every copy is dropped. -/
def CacheFn.dir (fn : CacheFn) (s : State) (line : Nat) : State :=
  match fn with
  | .clean => recallShared s line 64
  | .inv | .clinv => recallOthers s line 64

/-- CMAINT on one piece (R290, R348): the issuing core's L1, the partitions of its die, the COH directory, and the replicas of a ROS granule. -/
def cachePiece (fn : CacheFn) (c : Nat) (s : State) (p : CachePiece) : State :=
  let d := dieOfCore c
  let fn := fn.on p.loc.cls
  let s := ((s.core c).l1.filter fun x => p.has x.line).foldl (fun s x => fn.l1 s c x) s
  let s := ((s.die d).partition.filter fun x => p.has x.line).foldl (fun s x => fn.part s d x) s
  match p.loc.cls with
  | .coh => ((s.die p.loc.die).dir.filter fun r => p.has r.line).foldl (fun s r => fn.dir s r.line) s
  | .ros => if fn == .clean then s else s.updDie p.loc.die fun k => { k with ros := k.ros.filter fun r => r.granule != p.loc.pa / 65536 }
  | .dp | .ucr | .swm => s

/-- Whether an earlier access of the fragment, a write-back of its core, an engine command or a timed store still has a line of the piece (R184, R254, R281, R377). -/
def pieceBusy (s : State) (f : Frag) (p : CachePiece) : Bool :=
  (f.outst.any fun o => match o.kind with | .load x => x.lanes.any fun l => !x.has l.lane && !l.loc.host && p.has (l.loc.pa / 256) | _ => false)
    || (s.msgs.any fun m => m.2.fr.uid == s.cur.uid && !m.2.loc.host && p.has m.2.line && m.2.writes)
    || mergeWaits s (coreOfKey s.cur.key) p.has
    || (List.range (p.len / 256)).any fun i => lineHeld s (p.loc.pa / 256 + i)

/-- CMAINT (R289 to R291): the checks of the whole range, PERM before CLASS (log 72), then its lines. It waits until the fragment's earlier accesses to the range have been performed, and ends when its own write-backs have been (R290, R291). -/
def cmaintOp (fn : CacheFn) (o : Reg2LA) (s : State) : Host.Outcome State Fault Refusal :=
  issue {} [] s fun w f =>
    let ea := w.spair o.a
    let len := (w.sreg o.d).toNat
    let c := coreOfKey s.cur.key
    let super := f.priv != 0
    if ea.toNat % 256 ≠ 0 ∨ len % 256 ≠ 0 ∨ 2 ^ 56 ≤ ea.toNat ∨ 2 ^ 56 < ea.toNat + len then .fault s (plainFault .align ea)
    else if f.acquiring then .stall s
    else
      let (ps, t) := cachePieces s c w.ctx (if len = 0 then [] else granules ea.toNat len)
      match pieceFault t w.ctx (dieOfCore c) super fn .perm ps <|> pieceFault t w.ctx (dieOfCore c) super fn .cls ps with
      | some r => .fault t r
      | none =>
        if ps.any (pieceBusy t f) then .stall s
        else
          let t := ps.foldl (cachePiece fn c) t
          if ps.any fun p => mergeWaits t c p.has then .stall t else .next t

/-- CLEAN (R290). -/
def execClean (o : Reg2LA) (s : State) : Host.Outcome State Fault Refusal := cmaintOp .clean o s

/-- INV (R290). -/
def execInv (o : Reg2LA) (s : State) : Host.Outcome State Fault Refusal := cmaintOp .inv o s

/-- CLINV (R290). -/
def execClinv (o : Reg2LA) (s : State) : Host.Outcome State Fault Refusal := cmaintOp .clinv o s

end Sys2Proof.Machine
end

