-- ==== Sys2Proof/Machine/Alu.lean ====
section
/-! DEFINITION. The shapes of short computing words: one operation of words applied in every active lane, or once on S registers (R93, R95, R113, R115). -/

namespace Sys2Proof.Machine

/-- A row from a function of the lane. -/
def rowOf (g : Fin 32 → Word) : Row := Vector.ofFn g

/-- The flags of the lanes of a mask, ORed (R114). -/
def flagsOf (m : Word) (g : Fin 32 → Word) : Word := (lanesOf m).foldl (fun acc l => acc ||| g l) 0

/-- The register that HOLD keeps (R69). -/
def holdReg (h : Hold) (d a b : Reg) : Option Reg :=
  match h with
  | .none => none
  | .a => some a
  | .b => some b
  | .c => some d

/-- Form of a REG word with HP. -/
def hpForm (rse : Bool) (o : RegHP) : Form := { rse := rse, hold := holdReg o.hold o.d o.a o.b, writes := [o.d] }
/-- Form of a FUN word with HP. -/
def funForm (rse : Bool) (o : FunHP) : Form := { rse := rse, hold := holdReg o.hold o.d o.a o.a, writes := [o.d] }

/-- REG with HP: g of d, a and b in every active lane. -/
def laneHP (o : RegHP) (s : State) (g : Word → Word → Word → Word) : Host.Outcome State Fault Refusal :=
  issueSwell (hpForm false o) [o.d.toNat, o.a.toNat, o.b.toNat] s fun w f =>
    w.setV (lanesActive w f o.pm) o.d (rowOf fun l => g (w.vreg o.d)[l] (w.vreg o.a)[l] (w.vreg o.b)[l])

/-- REG with HP and flags, under the unit's rounding environment. -/
def laneHPF (o : RegHP) (s : State) (g : FEnv → Word → Word → Word → Word × Word) : Host.Outcome State Fault Refusal :=
  issueSwell (hpForm true o) [o.d.toNat, o.a.toNat, o.b.toNat] s fun w f =>
    let r (l : Fin 32) := g f.env (w.vreg o.d)[l] (w.vreg o.a)[l] (w.vreg o.b)[l]
    let m := lanesActive w f o.pm
    (w.setV m o.d (rowOf fun l => (r l).1)).orFlags (flagsOf m fun l => (r l).2)

/-- REG or REGF on S registers. -/
def groupReg (o : Reg3) (s : State) (g : Word → Word → Word → Word) : Host.Outcome State Fault Refusal :=
  issueSwell {} [] s fun w _ => w.setS o.d (g (w.sreg o.d) (w.sreg o.a) (w.sreg o.b))

/-- REG or REGF on S registers, with flags. -/
def groupRegF (o : Reg3) (s : State) (g : FEnv → Word → Word → Word → Word × Word) : Host.Outcome State Fault Refusal :=
  issueSwell { rse := true } [] s fun w f =>
    let r := g f.env (w.sreg o.d) (w.sreg o.a) (w.sreg o.b)
    (w.setS o.d r.1).orFlags r.2

/-- REGF, PMX selecting lanes. -/
def laneRegF (o : Reg3) (s : State) (g : Word → Word → Word → Word) : Host.Outcome State Fault Refusal :=
  issueSwell { pmx := true, writes := [o.d] } [o.d.toNat, o.a.toNat, o.b.toNat] s fun w f =>
    w.setV (lanesActive w f f.pmx) o.d (rowOf fun l => g (w.vreg o.d)[l] (w.vreg o.a)[l] (w.vreg o.b)[l])

/-- REGF with flags: FCMP and H2. The operation is given the fragment's HF. -/
def laneRegFF (o : Reg3) (s : State) (g : Bool → FEnv → Word → Word → Word → Word × Word) : Host.Outcome State Fault Refusal :=
  issueSwell { pmx := true, rse := true, writes := [o.d] } [o.d.toNat, o.a.toNat, o.b.toNat] s fun w f =>
    let r (l : Fin 32) := g f.hf f.env (w.vreg o.d)[l] (w.vreg o.a)[l] (w.vreg o.b)[l]
    let m := lanesActive w f f.pmx
    (w.setV m o.d (rowOf fun l => (r l).1)).orFlags (flagsOf m fun l => (r l).2)

/-- REGF writing the pair D:D+1: DIVS and DIVN (R106). -/
def lanePair (o : Reg3) (s : State) (g : Word → Word → Word × Word) : Host.Outcome State Fault Refusal :=
  issueSwell { pmx := true, writes := [o.d, o.d + 1] } [o.d.toNat + 1, o.a.toNat, o.b.toNat] s fun w f =>
    let r (l : Fin 32) := g (w.vreg o.a)[l] (w.vreg o.b)[l]
    let m := lanesActive w f f.pmx
    (w.setV m o.d (rowOf fun l => (r l).1)).setV m (o.d + 1) (rowOf fun l => (r l).2)

/-- The group form of a pair result: D and the register after it (R95). -/
def groupPair (o : Reg3) (s : State) (g : Word → Word → Word × Word) : Host.Outcome State Fault Refusal :=
  issueSwell {} [] s fun w _ =>
    let r := g (w.sreg o.a) (w.sreg o.b)
    (w.setS o.d r.1).setS (o.d + 1) r.2

/-- FUN with HP. -/
def laneFun (o : FunHP) (s : State) (g : Word → Word) : Host.Outcome State Fault Refusal :=
  issueSwell (funForm false o) [o.d.toNat, o.a.toNat] s fun w f =>
    w.setV (lanesActive w f o.pm) o.d (rowOf fun l => g (w.vreg o.a)[l])

/-- FUN with HP and flags; the operation also reads D. -/
def laneFunF (o : FunHP) (s : State) (g : FEnv → Word → Word → Word × Word) : Host.Outcome State Fault Refusal :=
  issueSwell (funForm true o) [o.d.toNat, o.a.toNat] s fun w f =>
    let r (l : Fin 32) := g f.env (w.vreg o.d)[l] (w.vreg o.a)[l]
    let m := lanesActive w f o.pm
    (w.setV m o.d (rowOf fun l => (r l).1)).orFlags (flagsOf m fun l => (r l).2)

/-- FUN on S registers. -/
def groupFun (o : Reg2) (s : State) (g : Word → Word) : Host.Outcome State Fault Refusal :=
  issueSwell {} [] s fun w _ => w.setS o.d (g (w.sreg o.a))

/-- FUN on S registers, with flags. -/
def groupFunF (o : Reg2) (s : State) (g : FEnv → Word → Word → Word × Word) : Host.Outcome State Fault Refusal :=
  issueSwell { rse := true } [] s fun w f =>
    let r := g f.env (w.sreg o.d) (w.sreg o.a)
    (w.setS o.d r.1).orFlags r.2

/-- IMM with PM: g of A and the immediate of R75. -/
def laneImm (d a : Reg) (pm : Pm) (imm : Option (BitVec 23) → Word) (s : State) (g : Word → Word → Word) : Host.Outcome State Fault Refusal :=
  issueSwell { wide := true, writes := [d] } [d.toNat, a.toNat] s fun w f =>
    w.setV (lanesActive w f pm) d (rowOf fun l => g (w.vreg a)[l] (imm f.hints.wide))

/-- IMM on S registers. -/
def groupImm (d a : Reg) (imm : Option (BitVec 23) → Word) (s : State) (g : Word → Word → Word) : Host.Outcome State Fault Refusal :=
  issueSwell { wide := true } [] s fun w f => w.setS d (g (w.sreg a) (imm f.hints.wide))

/-- SHI with PM (R110): no wide-immediate HINT. -/
def laneShift (o : ShiftPM) (s : State) (g : Word → Word → Word) : Host.Outcome State Fault Refusal :=
  issueSwell { writes := [o.d] } [o.d.toNat, o.a.toNat] s fun w f =>
    w.setV (lanesActive w f o.pm) o.d (rowOf fun l => g (w.vreg o.a)[l] (o.amount.setWidth 32))

/-- SHI on S registers. -/
def groupShift (o : ShiftG) (s : State) (g : Word → Word → Word) : Host.Outcome State Fault Refusal :=
  issueSwell {} [] s fun w _ => w.setS o.d (g (w.sreg o.a) (o.amount.setWidth 32))

end Sys2Proof.Machine
end

