-- ==== Sys2Proof/Machine/Float.lean ====
section
/-! DEFINITION. Floating point, conversion and packed 16-bit instructions (R113 to R133): one meaning per word. -/

namespace Sys2Proof.Machine

/-- FADD (R119). -/
def execFadd (o : RegHP) (s : State) : Host.Outcome State Fault Refusal :=
  laneHPF o s fun e _ a b => fadd e a b

/-- FADD_GROUP (R119). -/
def execFaddGroup (o : Reg3) (s : State) : Host.Outcome State Fault Refusal :=
  groupRegF o s fun e _ a b => fadd e a b

/-- FSUB (R119). -/
def execFsub (o : RegHP) (s : State) : Host.Outcome State Fault Refusal :=
  laneHPF o s fun e _ a b => fsub e a b

/-- FSUB_GROUP (R119). -/
def execFsubGroup (o : Reg3) (s : State) : Host.Outcome State Fault Refusal :=
  groupRegF o s fun e _ a b => fsub e a b

/-- FMUL (R119). -/
def execFmul (o : RegHP) (s : State) : Host.Outcome State Fault Refusal :=
  laneHPF o s fun e _ a b => fmul e a b

/-- FMUL_GROUP (R119). -/
def execFmulGroup (o : Reg3) (s : State) : Host.Outcome State Fault Refusal :=
  groupRegF o s fun e _ a b => fmul e a b

/-- FFMA (R119). -/
def execFfma (o : RegHP) (s : State) : Host.Outcome State Fault Refusal :=
  laneHPF o s fun e d a b => ffma e d a b

/-- FFMA_GROUP (R119). -/
def execFfmaGroup (o : Reg3) (s : State) : Host.Outcome State Fault Refusal :=
  groupRegF o s fun e d a b => ffma e d a b

/-- FMIN (R121). -/
def execFmin (o : RegHP) (s : State) : Host.Outcome State Fault Refusal :=
  laneHPF o s fun _ _ a b => fmin a b

/-- FMIN_GROUP (R121). -/
def execFminGroup (o : Reg3) (s : State) : Host.Outcome State Fault Refusal :=
  groupRegF o s fun _ _ a b => fmin a b

/-- FMAX (R121). -/
def execFmax (o : RegHP) (s : State) : Host.Outcome State Fault Refusal :=
  laneHPF o s fun _ _ a b => fmax a b

/-- FMAX_GROUP (R121). -/
def execFmaxGroup (o : Reg3) (s : State) : Host.Outcome State Fault Refusal :=
  groupRegF o s fun _ _ a b => fmax a b

/-- FDIV (R119). -/
def execFdiv (o : RegHP) (s : State) : Host.Outcome State Fault Refusal :=
  laneHPF o s fun e _ a b => fdiv e a b

/-- FDIV_GROUP (R119). -/
def execFdivGroup (o : Reg3) (s : State) : Host.Outcome State Fault Refusal :=
  groupRegF o s fun e _ a b => fdiv e a b

/-- FCMP_EQ (R122). -/
def execFcmpEq (o : Reg3) (s : State) : Host.Outcome State Fault Refusal :=
  laneRegFF o s fun _ _ _ a b => fcmp .eq a b

/-- FCMP_EQ_GROUP (R122). -/
def execFcmpEqGroup (o : Reg3) (s : State) : Host.Outcome State Fault Refusal :=
  groupRegF o s fun _ _ a b => fcmp .eq a b

/-- FCMP_NE (R122). -/
def execFcmpNe (o : Reg3) (s : State) : Host.Outcome State Fault Refusal :=
  laneRegFF o s fun _ _ _ a b => fcmp .ne a b

/-- FCMP_NE_GROUP (R122). -/
def execFcmpNeGroup (o : Reg3) (s : State) : Host.Outcome State Fault Refusal :=
  groupRegF o s fun _ _ a b => fcmp .ne a b

/-- FCMP_LT (R122). -/
def execFcmpLt (o : Reg3) (s : State) : Host.Outcome State Fault Refusal :=
  laneRegFF o s fun _ _ _ a b => fcmp .lt a b

/-- FCMP_LT_GROUP (R122). -/
def execFcmpLtGroup (o : Reg3) (s : State) : Host.Outcome State Fault Refusal :=
  groupRegF o s fun _ _ a b => fcmp .lt a b

/-- FCMP_LE (R122). -/
def execFcmpLe (o : Reg3) (s : State) : Host.Outcome State Fault Refusal :=
  laneRegFF o s fun _ _ _ a b => fcmp .le a b

/-- FCMP_LE_GROUP (R122). -/
def execFcmpLeGroup (o : Reg3) (s : State) : Host.Outcome State Fault Refusal :=
  groupRegF o s fun _ _ a b => fcmp .le a b

/-- FCMP_GT (R122). -/
def execFcmpGt (o : Reg3) (s : State) : Host.Outcome State Fault Refusal :=
  laneRegFF o s fun _ _ _ a b => fcmp .gt a b

/-- FCMP_GT_GROUP (R122). -/
def execFcmpGtGroup (o : Reg3) (s : State) : Host.Outcome State Fault Refusal :=
  groupRegF o s fun _ _ a b => fcmp .gt a b

/-- FCMP_GE (R122). -/
def execFcmpGe (o : Reg3) (s : State) : Host.Outcome State Fault Refusal :=
  laneRegFF o s fun _ _ _ a b => fcmp .ge a b

/-- FCMP_GE_GROUP (R122). -/
def execFcmpGeGroup (o : Reg3) (s : State) : Host.Outcome State Fault Refusal :=
  groupRegF o s fun _ _ a b => fcmp .ge a b

/-- FCMP_UO (R122). -/
def execFcmpUo (o : Reg3) (s : State) : Host.Outcome State Fault Refusal :=
  laneRegFF o s fun _ _ _ a b => fcmp .uo a b

/-- FCMP_UO_GROUP (R122). -/
def execFcmpUoGroup (o : Reg3) (s : State) : Host.Outcome State Fault Refusal :=
  groupRegF o s fun _ _ a b => fcmp .uo a b

/-- FCMP_OR (R122). -/
def execFcmpOr (o : Reg3) (s : State) : Host.Outcome State Fault Refusal :=
  laneRegFF o s fun _ _ _ a b => fcmp .or a b

/-- FCMP_OR_GROUP (R122). -/
def execFcmpOrGroup (o : Reg3) (s : State) : Host.Outcome State Fault Refusal :=
  groupRegF o s fun _ _ a b => fcmp .or a b

/-- FABS (R124). -/
def execFabs (o : FunHP) (s : State) : Host.Outcome State Fault Refusal :=
  laneFunF o s fun _ _ a => (fabs a, 0)

/-- FABS_GROUP (R124). -/
def execFabsGroup (o : Reg2) (s : State) : Host.Outcome State Fault Refusal :=
  groupFunF o s fun _ _ a => (fabs a, 0)

/-- FNEG (R124). -/
def execFneg (o : FunHP) (s : State) : Host.Outcome State Fault Refusal :=
  laneFunF o s fun _ _ a => (fneg a, 0)

/-- FNEG_GROUP (R124). -/
def execFnegGroup (o : Reg2) (s : State) : Host.Outcome State Fault Refusal :=
  groupFunF o s fun _ _ a => (fneg a, 0)

/-- FCPS (R124). -/
def execFcps (o : FunHP) (s : State) : Host.Outcome State Fault Refusal :=
  laneFunF o s fun _ d a => (fcps d a, 0)

/-- FCPS_GROUP (R124). -/
def execFcpsGroup (o : Reg2) (s : State) : Host.Outcome State Fault Refusal :=
  groupFunF o s fun _ d a => (fcps d a, 0)

/-- FRCP (R125). -/
def execFrcp (o : FunHP) (s : State) : Host.Outcome State Fault Refusal :=
  laneFunF o s fun e _ a => frcp e a

/-- FRCP_GROUP (R125). -/
def execFrcpGroup (o : Reg2) (s : State) : Host.Outcome State Fault Refusal :=
  groupFunF o s fun e _ a => frcp e a

/-- FRSQ (R125). -/
def execFrsq (o : FunHP) (s : State) : Host.Outcome State Fault Refusal :=
  laneFunF o s fun e _ a => frsq e a

/-- FRSQ_GROUP (R125). -/
def execFrsqGroup (o : Reg2) (s : State) : Host.Outcome State Fault Refusal :=
  groupFunF o s fun e _ a => frsq e a

/-- FSQRT (R125). -/
def execFsqrt (o : FunHP) (s : State) : Host.Outcome State Fault Refusal :=
  laneFunF o s fun e _ a => fsqrt e a

/-- FSQRT_GROUP (R125). -/
def execFsqrtGroup (o : Reg2) (s : State) : Host.Outcome State Fault Refusal :=
  groupFunF o s fun e _ a => fsqrt e a

/-- FEXP2 (R125). -/
def execFexp2 (o : FunHP) (s : State) : Host.Outcome State Fault Refusal :=
  laneFunF o s fun e _ a => fexp2 e a

/-- FEXP2_GROUP (R125). -/
def execFexp2Group (o : Reg2) (s : State) : Host.Outcome State Fault Refusal :=
  groupFunF o s fun e _ a => fexp2 e a

/-- FLOG2 (R125). -/
def execFlog2 (o : FunHP) (s : State) : Host.Outcome State Fault Refusal :=
  laneFunF o s fun e _ a => flog2 e a

/-- FLOG2_GROUP (R125). -/
def execFlog2Group (o : Reg2) (s : State) : Host.Outcome State Fault Refusal :=
  groupFunF o s fun e _ a => flog2 e a

/-- FRNDN (R126). -/
def execFrndn (o : FunHP) (s : State) : Host.Outcome State Fault Refusal :=
  laneFunF o s fun _ _ a => frnd .rne a

/-- FRNDN_GROUP (R126). -/
def execFrndnGroup (o : Reg2) (s : State) : Host.Outcome State Fault Refusal :=
  groupFunF o s fun _ _ a => frnd .rne a

/-- FRNDZ (R126). -/
def execFrndz (o : FunHP) (s : State) : Host.Outcome State Fault Refusal :=
  laneFunF o s fun _ _ a => frnd .rtz a

/-- FRNDZ_GROUP (R126). -/
def execFrndzGroup (o : Reg2) (s : State) : Host.Outcome State Fault Refusal :=
  groupFunF o s fun _ _ a => frnd .rtz a

/-- FRNDP (R126). -/
def execFrndp (o : FunHP) (s : State) : Host.Outcome State Fault Refusal :=
  laneFunF o s fun _ _ a => frnd .rup a

/-- FRNDP_GROUP (R126). -/
def execFrndpGroup (o : Reg2) (s : State) : Host.Outcome State Fault Refusal :=
  groupFunF o s fun _ _ a => frnd .rup a

/-- FRNDM (R126). -/
def execFrndm (o : FunHP) (s : State) : Host.Outcome State Fault Refusal :=
  laneFunF o s fun _ _ a => frnd .rdn a

/-- FRNDM_GROUP (R126). -/
def execFrndmGroup (o : Reg2) (s : State) : Host.Outcome State Fault Refusal :=
  groupFunF o s fun _ _ a => frnd .rdn a

/-- FCLASS (R127). -/
def execFclass (o : FunHP) (s : State) : Host.Outcome State Fault Refusal :=
  laneFunF o s fun _ _ a => (fclass a, 0)

/-- FCLASS_GROUP (R127). -/
def execFclassGroup (o : Reg2) (s : State) : Host.Outcome State Fault Refusal :=
  groupFunF o s fun _ _ a => (fclass a, 0)

/-- H2ADD (R133). -/
def execH2add (o : Reg3) (s : State) : Host.Outcome State Fault Refusal :=
  laneRegFF o s fun h e _ a b => h2add h e a b

/-- H2SUB (R133). -/
def execH2sub (o : Reg3) (s : State) : Host.Outcome State Fault Refusal :=
  laneRegFF o s fun h e _ a b => h2sub h e a b

/-- H2MUL (R133). -/
def execH2mul (o : Reg3) (s : State) : Host.Outcome State Fault Refusal :=
  laneRegFF o s fun h e _ a b => h2mul h e a b

/-- H2FMA (R133). -/
def execH2fma (o : Reg3) (s : State) : Host.Outcome State Fault Refusal :=
  laneRegFF o s fun h e d a b => h2fma h e d a b

/-- H2MIN (R133). -/
def execH2min (o : Reg3) (s : State) : Host.Outcome State Fault Refusal :=
  laneRegFF o s fun h _ _ a b => h2min h a b

/-- H2MAX (R133). -/
def execH2max (o : Reg3) (s : State) : Host.Outcome State Fault Refusal :=
  laneRegFF o s fun h _ _ a b => h2max h a b

/-- CVT (R130). -/
def execCvt (o : CvtPM) (s : State) : Host.Outcome State Fault Refusal :=
  laneFunF ⟨o.d, o.a, o.hold, o.pm⟩ s fun e _ a => cvt o.src o.dst e a

/-- CVT_GROUP (R130). -/
def execCvtGroup (o : CvtG) (s : State) : Host.Outcome State Fault Refusal :=
  groupFunF ⟨o.d, o.a⟩ s fun e _ a => cvt o.src o.dst e a

/-- The value of a block source element (R129). -/
def blockVal (src : CvtSrc) (a : Word) : FVal :=
  match src with
  | .fp32 => unpackF .fp32 a.toNat
  | .fp16 => unpackF .fp16 (a.toNat % 65536)
  | _ => unpackF .bf16 (a.toNat % 65536)

/-- An element times 2^(127 − e), rounded to an integer, and whether it is inexact (R131). -/
def blockElem (rm : Rm) (x : FVal) (e : Nat) : Int × Bool :=
  match x with
  | .fin n m x => roundInt rm n m (x + 127 - e)
  | _ => (0, false)

/-- The least scale for which no magnitude rounds above QMAX (R131). -/
def blockScale (rm : Rm) (qmax : Int) (xs : List FVal) : Nat :=
  if xs.all FVal.isZero then 127
  else ((List.range 255).find? fun e => xs.all fun x => (blockElem rm (match x with | .fin _ m k => .fin false m k | y => y) e).1 ≤ qmax).getD 254

/-- CVT to BS8 or BS4 over the active lanes (R131): elements of wd bits with the scale byte in bits 15:8, and the flags. -/
def blockConvert (wd : Nat) (rm : Rm) (m : Word) (x : Fin 32 → FVal) : (Fin 32 → Word) × Word :=
  let xs := (lanesOf m).map x
  if xs.any fun v => v.isNan || v.isInf then
    (fun _ => 0xFF00, flagIf (xs.any fun v => v.isInf || v.isSnan) flagNV)
  else
    let e := blockScale rm (2 ^ (wd - 1) - 1) xs
    (fun l => BitVec.ofNat 32 (((blockElem rm (x l) e).1 % (2 ^ wd : Int)).toNat + e * 256), flagIf (xs.any fun v => (blockElem rm v e).2) flagNX)

/-- The shape of both block conversions. -/
def laneBlock (wd : Nat) (o : CvtBlkPM) (s : State) : Host.Outcome State Fault Refusal :=
  issueSwell (funForm true ⟨o.d, o.a, o.hold, o.pm⟩) [o.d.toNat, o.a.toNat] s fun w f =>
    let m := lanesActive w f o.pm
    let r := blockConvert wd f.env.rm m fun l => blockVal o.src (w.vreg o.a)[l]
    (w.setV m o.d (rowOf r.1)).orFlags r.2

/-- CVT_BS8 (R131). -/
def execCvtBs8 (o : CvtBlkPM) (s : State) : Host.Outcome State Fault Refusal :=
  laneBlock 8 o s

/-- CVT_BS4 (R131). -/
def execCvtBs4 (o : CvtBlkPM) (s : State) : Host.Outcome State Fault Refusal :=
  laneBlock 4 o s

end Sys2Proof.Machine
end

