-- ==== Sys2Proof/Machine/Integer.lean ====
section
/-! DEFINITION. The integer instructions (R93 to R112) and PRMT (R140): one meaning per word. -/

namespace Sys2Proof.Machine

/-- The payload of a wide-immediate HINT that MOVI may not take: p[22:16] not zero (R75). -/
def wideMoviBad : Option (BitVec 23) → Option (BitVec 23)
  | some p => if p.extractLsb' 16 7 = 0 then none else some p
  | none => none

/-- ADD (R100). -/
def execAdd (o : RegHP) (s : State) : Host.Outcome State Fault Refusal :=
  laneHP o s fun _ a b => a + b

/-- ADD_GROUP (R100). -/
def execAddGroup (o : Reg3) (s : State) : Host.Outcome State Fault Refusal :=
  groupReg o s fun _ a b => a + b

/-- SUB (R100). -/
def execSub (o : RegHP) (s : State) : Host.Outcome State Fault Refusal :=
  laneHP o s fun _ a b => a - b

/-- SUB_GROUP (R100). -/
def execSubGroup (o : Reg3) (s : State) : Host.Outcome State Fault Refusal :=
  groupReg o s fun _ a b => a - b

/-- MUL (R100). -/
def execMul (o : RegHP) (s : State) : Host.Outcome State Fault Refusal :=
  laneHP o s fun _ a b => a * b

/-- MUL_GROUP (R100). -/
def execMulGroup (o : Reg3) (s : State) : Host.Outcome State Fault Refusal :=
  groupReg o s fun _ a b => a * b

/-- MAC (R100). -/
def execMac (o : RegHP) (s : State) : Host.Outcome State Fault Refusal :=
  laneHP o s fun d a b => d + a * b

/-- MAC_GROUP (R100). -/
def execMacGroup (o : Reg3) (s : State) : Host.Outcome State Fault Refusal :=
  groupReg o s fun d a b => d + a * b

/-- AND (R100). -/
def execAnd (o : RegHP) (s : State) : Host.Outcome State Fault Refusal :=
  laneHP o s fun _ a b => a &&& b

/-- AND_GROUP (R100). -/
def execAndGroup (o : Reg3) (s : State) : Host.Outcome State Fault Refusal :=
  groupReg o s fun _ a b => a &&& b

/-- OR (R100). -/
def execOr (o : RegHP) (s : State) : Host.Outcome State Fault Refusal :=
  laneHP o s fun _ a b => a ||| b

/-- OR_GROUP (R100). -/
def execOrGroup (o : Reg3) (s : State) : Host.Outcome State Fault Refusal :=
  groupReg o s fun _ a b => a ||| b

/-- XOR (R100). -/
def execXor (o : RegHP) (s : State) : Host.Outcome State Fault Refusal :=
  laneHP o s fun _ a b => a ^^^ b

/-- XOR_GROUP (R100). -/
def execXorGroup (o : Reg3) (s : State) : Host.Outcome State Fault Refusal :=
  groupReg o s fun _ a b => a ^^^ b

/-- ANDN (R100). -/
def execAndn (o : RegHP) (s : State) : Host.Outcome State Fault Refusal :=
  laneHP o s fun _ a b => a &&& ~~~b

/-- ANDN_GROUP (R100). -/
def execAndnGroup (o : Reg3) (s : State) : Host.Outcome State Fault Refusal :=
  groupReg o s fun _ a b => a &&& ~~~b

/-- SHL (R101). -/
def execShl (o : RegHP) (s : State) : Host.Outcome State Fault Refusal :=
  laneHP o s fun _ a b => shl a b

/-- SHL_GROUP (R101). -/
def execShlGroup (o : Reg3) (s : State) : Host.Outcome State Fault Refusal :=
  groupReg o s fun _ a b => shl a b

/-- SHR (R101). -/
def execShr (o : RegHP) (s : State) : Host.Outcome State Fault Refusal :=
  laneHP o s fun _ a b => shr a b

/-- SHR_GROUP (R101). -/
def execShrGroup (o : Reg3) (s : State) : Host.Outcome State Fault Refusal :=
  groupReg o s fun _ a b => shr a b

/-- SRA (R101). -/
def execSra (o : RegHP) (s : State) : Host.Outcome State Fault Refusal :=
  laneHP o s fun _ a b => sra a b

/-- SRA_GROUP (R101). -/
def execSraGroup (o : Reg3) (s : State) : Host.Outcome State Fault Refusal :=
  groupReg o s fun _ a b => sra a b

/-- MIN (R100). -/
def execMin (o : RegHP) (s : State) : Host.Outcome State Fault Refusal :=
  laneHP o s fun _ a b => smin a b

/-- MIN_GROUP (R100). -/
def execMinGroup (o : Reg3) (s : State) : Host.Outcome State Fault Refusal :=
  groupReg o s fun _ a b => smin a b

/-- MAX (R100). -/
def execMax (o : RegHP) (s : State) : Host.Outcome State Fault Refusal :=
  laneHP o s fun _ a b => smax a b

/-- MAX_GROUP (R100). -/
def execMaxGroup (o : Reg3) (s : State) : Host.Outcome State Fault Refusal :=
  groupReg o s fun _ a b => smax a b

/-- MINN (R100). -/
def execMinn (o : RegHP) (s : State) : Host.Outcome State Fault Refusal :=
  laneHP o s fun _ a b => nmin a b

/-- MINN_GROUP (R100). -/
def execMinnGroup (o : Reg3) (s : State) : Host.Outcome State Fault Refusal :=
  groupReg o s fun _ a b => nmin a b

/-- MAXN (R100). -/
def execMaxn (o : RegHP) (s : State) : Host.Outcome State Fault Refusal :=
  laneHP o s fun _ a b => nmax a b

/-- MAXN_GROUP (R100). -/
def execMaxnGroup (o : Reg3) (s : State) : Host.Outcome State Fault Refusal :=
  groupReg o s fun _ a b => nmax a b

/-- SEL (R100). -/
def execSel (o : RegHP) (s : State) : Host.Outcome State Fault Refusal :=
  laneHP o s fun d a b => selBits d a b

/-- SEL_GROUP (R100). -/
def execSelGroup (o : Reg3) (s : State) : Host.Outcome State Fault Refusal :=
  groupReg o s fun d a b => selBits d a b

/-- CEQ (R100). -/
def execCeq (o : RegHP) (s : State) : Host.Outcome State Fault Refusal :=
  laneHP o s fun _ a b => boolWord (a == b)

/-- CEQ_GROUP (R100). -/
def execCeqGroup (o : Reg3) (s : State) : Host.Outcome State Fault Refusal :=
  groupReg o s fun _ a b => boolWord (a == b)

/-- CNE (R100). -/
def execCne (o : RegHP) (s : State) : Host.Outcome State Fault Refusal :=
  laneHP o s fun _ a b => boolWord (a != b)

/-- CNE_GROUP (R100). -/
def execCneGroup (o : Reg3) (s : State) : Host.Outcome State Fault Refusal :=
  groupReg o s fun _ a b => boolWord (a != b)

/-- CLT (R100). -/
def execClt (o : RegHP) (s : State) : Host.Outcome State Fault Refusal :=
  laneHP o s fun _ a b => boolWord (a.slt b)

/-- CLT_GROUP (R100). -/
def execCltGroup (o : Reg3) (s : State) : Host.Outcome State Fault Refusal :=
  groupReg o s fun _ a b => boolWord (a.slt b)

/-- CLE (R100). -/
def execCle (o : RegHP) (s : State) : Host.Outcome State Fault Refusal :=
  laneHP o s fun _ a b => boolWord (a.sle b)

/-- CLE_GROUP (R100). -/
def execCleGroup (o : Reg3) (s : State) : Host.Outcome State Fault Refusal :=
  groupReg o s fun _ a b => boolWord (a.sle b)

/-- CLTN (R100). -/
def execCltn (o : RegHP) (s : State) : Host.Outcome State Fault Refusal :=
  laneHP o s fun _ a b => boolWord (a.ult b)

/-- CLTN_GROUP (R100). -/
def execCltnGroup (o : Reg3) (s : State) : Host.Outcome State Fault Refusal :=
  groupReg o s fun _ a b => boolWord (a.ult b)

/-- CLEN (R100). -/
def execClen (o : RegHP) (s : State) : Host.Outcome State Fault Refusal :=
  laneHP o s fun _ a b => boolWord (a.ule b)

/-- CLEN_GROUP (R100). -/
def execClenGroup (o : Reg3) (s : State) : Host.Outcome State Fault Refusal :=
  groupReg o s fun _ a b => boolWord (a.ule b)

/-- MULH (R104). -/
def execMulh (o : Reg3) (s : State) : Host.Outcome State Fault Refusal :=
  laneRegF o s fun _ a b => mulh a b

/-- MULH_GROUP (R104). -/
def execMulhGroup (o : Reg3) (s : State) : Host.Outcome State Fault Refusal :=
  groupReg o s fun _ a b => mulh a b

/-- MULHN (R104). -/
def execMulhn (o : Reg3) (s : State) : Host.Outcome State Fault Refusal :=
  laneRegF o s fun _ a b => mulhn a b

/-- MULHN_GROUP (R104). -/
def execMulhnGroup (o : Reg3) (s : State) : Host.Outcome State Fault Refusal :=
  groupReg o s fun _ a b => mulhn a b

/-- ADDS (R104). -/
def execAdds (o : Reg3) (s : State) : Host.Outcome State Fault Refusal :=
  laneRegF o s fun _ a b => adds a b

/-- ADDS_GROUP (R104). -/
def execAddsGroup (o : Reg3) (s : State) : Host.Outcome State Fault Refusal :=
  groupReg o s fun _ a b => adds a b

/-- SUBS (R104). -/
def execSubs (o : Reg3) (s : State) : Host.Outcome State Fault Refusal :=
  laneRegF o s fun _ a b => subs a b

/-- SUBS_GROUP (R104). -/
def execSubsGroup (o : Reg3) (s : State) : Host.Outcome State Fault Refusal :=
  groupReg o s fun _ a b => subs a b

/-- ROL (R104). -/
def execRol (o : Reg3) (s : State) : Host.Outcome State Fault Refusal :=
  laneRegF o s fun _ a b => rol a b

/-- ROL_GROUP (R104). -/
def execRolGroup (o : Reg3) (s : State) : Host.Outcome State Fault Refusal :=
  groupReg o s fun _ a b => rol a b

/-- BFX (R105). -/
def execBfx (o : Reg3) (s : State) : Host.Outcome State Fault Refusal :=
  laneRegF o s fun _ a b => bfx a b

/-- BFX_GROUP (R105). -/
def execBfxGroup (o : Reg3) (s : State) : Host.Outcome State Fault Refusal :=
  groupReg o s fun _ a b => bfx a b

/-- BFXN (R105). -/
def execBfxn (o : Reg3) (s : State) : Host.Outcome State Fault Refusal :=
  laneRegF o s fun _ a b => bfxn a b

/-- BFXN_GROUP (R105). -/
def execBfxnGroup (o : Reg3) (s : State) : Host.Outcome State Fault Refusal :=
  groupReg o s fun _ a b => bfxn a b

/-- BFI (R105). -/
def execBfi (o : Reg3) (s : State) : Host.Outcome State Fault Refusal :=
  laneRegF o s fun d a b => bfi d a b

/-- BFI_GROUP (R105). -/
def execBfiGroup (o : Reg3) (s : State) : Host.Outcome State Fault Refusal :=
  groupReg o s fun d a b => bfi d a b

/-- ORN (R104). -/
def execOrn (o : Reg3) (s : State) : Host.Outcome State Fault Refusal :=
  laneRegF o s fun _ a b => a ||| ~~~b

/-- ORN_GROUP (R104). -/
def execOrnGroup (o : Reg3) (s : State) : Host.Outcome State Fault Refusal :=
  groupReg o s fun _ a b => a ||| ~~~b

/-- XNOR (R104). -/
def execXnor (o : Reg3) (s : State) : Host.Outcome State Fault Refusal :=
  laneRegF o s fun _ a b => ~~~(a ^^^ b)

/-- XNOR_GROUP (R104). -/
def execXnorGroup (o : Reg3) (s : State) : Host.Outcome State Fault Refusal :=
  groupReg o s fun _ a b => ~~~(a ^^^ b)

/-- DIVS (R106). -/
def execDivs (o : Reg3) (s : State) : Host.Outcome State Fault Refusal :=
  lanePair o s divs

/-- DIVS_GROUP (R106). -/
def execDivsGroup (o : Reg3) (s : State) : Host.Outcome State Fault Refusal :=
  groupPair o s divs

/-- DIVN (R106). -/
def execDivn (o : Reg3) (s : State) : Host.Outcome State Fault Refusal :=
  lanePair o s divn

/-- DIVN_GROUP (R106). -/
def execDivnGroup (o : Reg3) (s : State) : Host.Outcome State Fault Refusal :=
  groupPair o s divn

/-- MOV (R108). -/
def execMov (o : FunHP) (s : State) : Host.Outcome State Fault Refusal :=
  laneFun o s fun a => a

/-- MOV_GROUP (R108). -/
def execMovGroup (o : Reg2) (s : State) : Host.Outcome State Fault Refusal :=
  groupFun o s fun a => a

/-- NOT (R108). -/
def execNot (o : FunHP) (s : State) : Host.Outcome State Fault Refusal :=
  laneFun o s fun a => ~~~a

/-- NOT_GROUP (R108). -/
def execNotGroup (o : Reg2) (s : State) : Host.Outcome State Fault Refusal :=
  groupFun o s fun a => ~~~a

/-- NEG (R108). -/
def execNeg (o : FunHP) (s : State) : Host.Outcome State Fault Refusal :=
  laneFun o s fun a => negWord a

/-- NEG_GROUP (R108). -/
def execNegGroup (o : Reg2) (s : State) : Host.Outcome State Fault Refusal :=
  groupFun o s fun a => negWord a

/-- ABS (R108). -/
def execAbs (o : FunHP) (s : State) : Host.Outcome State Fault Refusal :=
  laneFun o s fun a => absWord a

/-- ABS_GROUP (R108). -/
def execAbsGroup (o : Reg2) (s : State) : Host.Outcome State Fault Refusal :=
  groupFun o s fun a => absWord a

/-- CLZ (R108). -/
def execClz (o : FunHP) (s : State) : Host.Outcome State Fault Refusal :=
  laneFun o s fun a => clz a

/-- CLZ_GROUP (R108). -/
def execClzGroup (o : Reg2) (s : State) : Host.Outcome State Fault Refusal :=
  groupFun o s fun a => clz a

/-- CTZ (R108). -/
def execCtz (o : FunHP) (s : State) : Host.Outcome State Fault Refusal :=
  laneFun o s fun a => ctz a

/-- CTZ_GROUP (R108). -/
def execCtzGroup (o : Reg2) (s : State) : Host.Outcome State Fault Refusal :=
  groupFun o s fun a => ctz a

/-- POPC (R108). -/
def execPopc (o : FunHP) (s : State) : Host.Outcome State Fault Refusal :=
  laneFun o s fun a => popc a

/-- POPC_GROUP (R108). -/
def execPopcGroup (o : Reg2) (s : State) : Host.Outcome State Fault Refusal :=
  groupFun o s fun a => popc a

/-- BREV (R108). -/
def execBrev (o : FunHP) (s : State) : Host.Outcome State Fault Refusal :=
  laneFun o s fun a => brev a

/-- BREV_GROUP (R108). -/
def execBrevGroup (o : Reg2) (s : State) : Host.Outcome State Fault Refusal :=
  groupFun o s fun a => brev a

/-- BSWAP (R108). -/
def execBswap (o : FunHP) (s : State) : Host.Outcome State Fault Refusal :=
  laneFun o s fun a => bswap a

/-- BSWAP_GROUP (R108). -/
def execBswapGroup (o : Reg2) (s : State) : Host.Outcome State Fault Refusal :=
  groupFun o s fun a => bswap a

/-- SEXTB (R108). -/
def execSextb (o : FunHP) (s : State) : Host.Outcome State Fault Refusal :=
  laneFun o s fun a => sextb a

/-- SEXTB_GROUP (R108). -/
def execSextbGroup (o : Reg2) (s : State) : Host.Outcome State Fault Refusal :=
  groupFun o s fun a => sextb a

/-- SEXTH (R108). -/
def execSexth (o : FunHP) (s : State) : Host.Outcome State Fault Refusal :=
  laneFun o s fun a => sexth a

/-- SEXTH_GROUP (R108). -/
def execSexthGroup (o : Reg2) (s : State) : Host.Outcome State Fault Refusal :=
  groupFun o s fun a => sexth a

/-- ZEXTB (R108). -/
def execZextb (o : FunHP) (s : State) : Host.Outcome State Fault Refusal :=
  laneFun o s fun a => zextb a

/-- ZEXTB_GROUP (R108). -/
def execZextbGroup (o : Reg2) (s : State) : Host.Outcome State Fault Refusal :=
  groupFun o s fun a => zextb a

/-- ZEXTH (R108). -/
def execZexth (o : FunHP) (s : State) : Host.Outcome State Fault Refusal :=
  laneFun o s fun a => zexth a

/-- ZEXTH_GROUP (R108). -/
def execZexthGroup (o : Reg2) (s : State) : Host.Outcome State Fault Refusal :=
  groupFun o s fun a => zexth a

/-- ADDI (R109). -/
def execAddi (o : ImmPM) (s : State) : Host.Outcome State Fault Refusal :=
  laneImm o.d o.a o.pm (imm9 o.imm) s fun a i => a + i

/-- ADDI_GROUP (R109). -/
def execAddiGroup (o : ImmG) (s : State) : Host.Outcome State Fault Refusal :=
  groupImm o.d o.a (imm9 o.imm) s fun a i => a + i

/-- ANDI (R109). -/
def execAndi (o : ImmPM) (s : State) : Host.Outcome State Fault Refusal :=
  laneImm o.d o.a o.pm (imm9 o.imm) s fun a i => a &&& i

/-- ANDI_GROUP (R109). -/
def execAndiGroup (o : ImmG) (s : State) : Host.Outcome State Fault Refusal :=
  groupImm o.d o.a (imm9 o.imm) s fun a i => a &&& i

/-- ORI (R109). -/
def execOri (o : ImmPM) (s : State) : Host.Outcome State Fault Refusal :=
  laneImm o.d o.a o.pm (imm9 o.imm) s fun a i => a ||| i

/-- ORI_GROUP (R109). -/
def execOriGroup (o : ImmG) (s : State) : Host.Outcome State Fault Refusal :=
  groupImm o.d o.a (imm9 o.imm) s fun a i => a ||| i

/-- XORI (R109). -/
def execXori (o : ImmPM) (s : State) : Host.Outcome State Fault Refusal :=
  laneImm o.d o.a o.pm (imm9 o.imm) s fun a i => a ^^^ i

/-- XORI_GROUP (R109). -/
def execXoriGroup (o : ImmG) (s : State) : Host.Outcome State Fault Refusal :=
  groupImm o.d o.a (imm9 o.imm) s fun a i => a ^^^ i

/-- SHLI (R110). -/
def execShli (o : ShiftPM) (s : State) : Host.Outcome State Fault Refusal :=
  laneShift o s shl

/-- SHLI_GROUP (R110). -/
def execShliGroup (o : ShiftG) (s : State) : Host.Outcome State Fault Refusal :=
  groupShift o s shl

/-- SHRI (R110). -/
def execShri (o : ShiftPM) (s : State) : Host.Outcome State Fault Refusal :=
  laneShift o s shr

/-- SHRI_GROUP (R110). -/
def execShriGroup (o : ShiftG) (s : State) : Host.Outcome State Fault Refusal :=
  groupShift o s shr

/-- SRAI (R110). -/
def execSrai (o : ShiftPM) (s : State) : Host.Outcome State Fault Refusal :=
  laneShift o s sra

/-- SRAI_GROUP (R110). -/
def execSraiGroup (o : ShiftG) (s : State) : Host.Outcome State Fault Refusal :=
  groupShift o s sra

/-- ROLI (R110). -/
def execRoli (o : ShiftPM) (s : State) : Host.Outcome State Fault Refusal :=
  laneShift o s rol

/-- ROLI_GROUP (R110). -/
def execRoliGroup (o : ShiftG) (s : State) : Host.Outcome State Fault Refusal :=
  groupShift o s rol

/-- MOVI (R111). A wide-immediate HINT with a bit of p[22:16] set takes ILLEGAL with the HINT word (R74, R75). Beside another HINT that MOVI does not accept, FVAL names that other one, wherever it stands: the model's choice, since R74 does not say which of two offending HINT words it is (log 86). -/
def execMovi (o : MoviPM) (s : State) : Host.Outcome State Fault Refusal :=
  issue { wide := true, writes := [o.d] } [] s fun w f =>
    match wideMoviBad f.hints.wide with
    | some p => .fault s (plainFault .illegal ((packHint 0 p).setWidth 64))
    | none =>
      match regRange w.n [o.d.toNat] with
      | some r => .fault s (plainFault .regrange (BitVec.ofNat 64 r))
      | none => .next (s.updSwell s.cur.swell fun _ => w.setV (lanesActive w f o.pm) o.d (rowOf fun _ => imm16 o.imm f.hints.wide))

/-- MOVI_GROUP (R111). Of two offending HINT words FVAL names the same one as MOVI's (log 86). -/
def execMoviGroup (o : MoviG) (s : State) : Host.Outcome State Fault Refusal :=
  issue { wide := true } [] s fun w f =>
    match wideMoviBad f.hints.wide with
    | some p => .fault s (plainFault .illegal ((packHint 0 p).setWidth 64))
    | none => .next (s.updSwell s.cur.swell fun _ => w.setS o.d (imm16 o.imm f.hints.wide))

/-- CMPI_EQ (R112). -/
def execCmpiEq (o : CmpPM) (s : State) : Host.Outcome State Fault Refusal :=
  laneImm o.d o.a o.pm (immCmpS o.imm) s fun a i => boolWord (a == i)

/-- CMPI_EQ_GROUP (R112). -/
def execCmpiEqGroup (o : CmpG) (s : State) : Host.Outcome State Fault Refusal :=
  groupImm o.d o.a (immCmpS o.imm) s fun a i => boolWord (a == i)

/-- CMPI_NE (R112). -/
def execCmpiNe (o : CmpPM) (s : State) : Host.Outcome State Fault Refusal :=
  laneImm o.d o.a o.pm (immCmpS o.imm) s fun a i => boolWord (a != i)

/-- CMPI_NE_GROUP (R112). -/
def execCmpiNeGroup (o : CmpG) (s : State) : Host.Outcome State Fault Refusal :=
  groupImm o.d o.a (immCmpS o.imm) s fun a i => boolWord (a != i)

/-- CMPI_LT (R112). -/
def execCmpiLt (o : CmpPM) (s : State) : Host.Outcome State Fault Refusal :=
  laneImm o.d o.a o.pm (immCmpS o.imm) s fun a i => boolWord (a.slt i)

/-- CMPI_LT_GROUP (R112). -/
def execCmpiLtGroup (o : CmpG) (s : State) : Host.Outcome State Fault Refusal :=
  groupImm o.d o.a (immCmpS o.imm) s fun a i => boolWord (a.slt i)

/-- CMPI_LE (R112). -/
def execCmpiLe (o : CmpPM) (s : State) : Host.Outcome State Fault Refusal :=
  laneImm o.d o.a o.pm (immCmpS o.imm) s fun a i => boolWord (a.sle i)

/-- CMPI_LE_GROUP (R112). -/
def execCmpiLeGroup (o : CmpG) (s : State) : Host.Outcome State Fault Refusal :=
  groupImm o.d o.a (immCmpS o.imm) s fun a i => boolWord (a.sle i)

/-- CMPI_LTN (R112). -/
def execCmpiLtn (o : CmpPM) (s : State) : Host.Outcome State Fault Refusal :=
  laneImm o.d o.a o.pm (immCmpN o.imm) s fun a i => boolWord (a.ult i)

/-- CMPI_LTN_GROUP (R112). -/
def execCmpiLtnGroup (o : CmpG) (s : State) : Host.Outcome State Fault Refusal :=
  groupImm o.d o.a (immCmpN o.imm) s fun a i => boolWord (a.ult i)

/-- CMPI_LEN (R112). -/
def execCmpiLen (o : CmpPM) (s : State) : Host.Outcome State Fault Refusal :=
  laneImm o.d o.a o.pm (immCmpN o.imm) s fun a i => boolWord (a.ule i)

/-- CMPI_LEN_GROUP (R112). -/
def execCmpiLenGroup (o : CmpG) (s : State) : Host.Outcome State Fault Refusal :=
  groupImm o.d o.a (immCmpN o.imm) s fun a i => boolWord (a.ule i)

/-- PRMT (R140). -/
def execPrmt (o : RegHP) (s : State) : Host.Outcome State Fault Refusal :=
  laneHP o s prmt

end Sys2Proof.Machine
end

