-- ==== Sys2Proof/Machine/LaneMove.lean ====
section
/-! DEFINITION. Lane movement (R134 to R138) and the neighbour record with its derivatives (R141 to R144). -/

namespace Sys2Proof.Machine

/-- SHFL: each active lane takes A of its source lane, or keeps D where there is none (R135). -/
def shuffle (d : Reg) (regs : List Nat) (a : Reg) (src : Swell → Fin 32 → Option (Fin 32)) (s : State) : Host.Outcome State Fault Refusal :=
  issueSwell { pmx := true, writes := [d] } regs s fun w f =>
    w.setV (lanesActive w f f.pmx) d (rowOf fun l => match src w l with | some t => (w.vreg a)[t] | none => (w.vreg d)[l])

/-- Lane n mod 32. -/
def laneMod (n : Nat) : Fin 32 := ⟨n % 32, Nat.mod_lt _ (by decide)⟩

/-- SHFL_IDX (R135). -/
def execShflIdx (o : Reg3) (s : State) : Host.Outcome State Fault Refusal :=
  shuffle o.d [o.d.toNat, o.a.toNat, o.b.toNat] o.a (fun w l => some (laneMod (w.vreg o.b)[l].toNat)) s

/-- SHFL_UP (R135). -/
def execShflUp (o : ShflKeep) (s : State) : Host.Outcome State Fault Refusal :=
  shuffle o.d [o.d.toNat, o.a.toNat] o.a (fun _ l => if l.val < o.c.toNat ∧ o.keep then none else some (laneMod (l.val + 32 - o.c.toNat))) s

/-- SHFL_DN (R135). -/
def execShflDn (o : ShflKeep) (s : State) : Host.Outcome State Fault Refusal :=
  shuffle o.d [o.d.toNat, o.a.toNat] o.a (fun _ l => if 31 < l.val + o.c.toNat ∧ o.keep then none else some (laneMod (l.val + o.c.toNat))) s

/-- SHFL_XOR (R135). -/
def execShflXor (o : ShflXor) (s : State) : Host.Outcome State Fault Refusal :=
  shuffle o.d [o.d.toNat, o.a.toNat] o.a (fun _ l => some (laneMod (l.val ^^^ o.c.toNat))) s

/-- The lane t = S[b] mod 32 of R137. -/
def laneSel (w : Swell) (b : Reg) : Fin 32 := laneMod (w.sreg b).toNat

/-- BCAST (R137). -/
def execBcast (o : Reg3) (s : State) : Host.Outcome State Fault Refusal :=
  issueSwell { pmx := true, writes := [o.d] } [o.d.toNat, o.a.toNat] s fun w f =>
    w.setV (lanesActive w f f.pmx) o.d (rowOf fun _ => (w.vreg o.a)[laneSel w o.b])

/-- VEXT (R137). -/
def execVext (o : Reg3) (s : State) : Host.Outcome State Fault Refusal :=
  issueSwell { pmx := true } [o.a.toNat] s fun w _ => w.setS o.d (w.vreg o.a)[laneSel w o.b]

/-- VINS (R137). -/
def execVins (o : Reg3) (s : State) : Host.Outcome State Fault Refusal :=
  issueSwell { pmx := true, writes := [o.d] } [o.d.toNat] s fun w f =>
    w.setV (lanesActive w f f.pmx &&& BitVec.twoPow 32 (laneSel w o.b).val) o.d (rowOf fun _ => w.sreg o.a)

/-- MSK (R137). -/
def execMsk (o : Reg2) (s : State) : Host.Outcome State Fault Refusal :=
  issueSwell { pmx := true } [o.a.toNat] s fun w f =>
    w.setS o.d (maskOf ((lanesOf (lanesActive w f f.pmx)).filter fun l => (w.vreg o.a)[l] != 0))

/-- UNMSK (R137). -/
def execUnmsk (o : Reg2) (s : State) : Host.Outcome State Fault Refusal :=
  issueSwell { pmx := true, writes := [o.d] } [o.d.toNat] s fun w f =>
    w.setV (lanesActive w f f.pmx) o.d (rowOf fun l => boolWord ((w.sreg o.a).getLsbD l.val))

/-- VMOVX (R137): the computed index is checked against the declared count, with FVAL the index (R138); a D out of range is named before it (log 65). -/
def execVmovx (o : Reg3) (s : State) : Host.Outcome State Fault Refusal :=
  issue { pmx := true, writes := [o.d] } [o.d.toNat] s fun w f =>
    let j := o.a.toNat + (w.sreg o.b).toNat
    if w.n ≤ j then .fault s (plainFault .regrange (BitVec.ofNat 64 j))
    else .next (s.updSwell s.cur.swell fun _ => w.setV (lanesActive w f f.pmx) o.d (w.vreg (BitVec.ofNat 7 j)))

/-- VMOVXW (R137, R138): the computed index is named before A (log 65); a value held of the register that it writes is dropped (R69). -/
def execVmovxw (o : Reg3) (s : State) : Host.Outcome State Fault Refusal :=
  issue { pmx := true } [] s fun w f =>
    let j := o.d.toNat + (w.sreg o.b).toNat
    match regRange w.n [j, o.a.toNat] with
    | some r => .fault s (plainFault .regrange (BitVec.ofNat 64 r))
    | none => .next ((s.updSwell s.cur.swell fun _ => w.setV (lanesActive w f f.pmx) (BitVec.ofNat 7 j) (w.vreg o.a)).dropHeld s.cur.key [j])

/-- Partner lane H of a neighbour index (R141). -/
def nbrH (x : BitVec 16) : Fin 32 := laneMod (x.extractLsb' 0 5).toNat
/-- Partner lane V. -/
def nbrV (x : BitVec 16) : Fin 32 := laneMod (x.extractLsb' 5 5).toNat

/-- dx(t) of R143: the lanes (lo, hi) when the horizontal partner counts. -/
def quadDx (nbr : Vector (BitVec 16) 32) (act : Word) (t : Fin 32) : Option (Fin 32 × Fin 32) :=
  let x := nbr[t]
  if x.getLsbD 12 && act.getLsbD (nbrH x).val then some (if x.getLsbD 10 then (nbrH x, t) else (t, nbrH x)) else none

/-- dy(t) of R143. -/
def quadDy (nbr : Vector (BitVec 16) 32) (act : Word) (t : Fin 32) : Option (Fin 32 × Fin 32) :=
  let x := nbr[t]
  if x.getLsbD 13 && act.getLsbD (nbrV x).val then some (if x.getLsbD 11 then (nbrV x, t) else (t, nbrV x)) else none

/-- DDXC: dx at the lane of the top row (R143). -/
def quadDxc (nbr : Vector (BitVec 16) 32) (act : Word) (l : Fin 32) : Option (Fin 32 × Fin 32) :=
  let x := nbr[l]
  if !x.getLsbD 11 then quadDx nbr act l
  else if x.getLsbD 13 && act.getLsbD (nbrV x).val then quadDx nbr act (nbrV x) else none

/-- DDYC: dy at the lane of the left column (R143). -/
def quadDyc (nbr : Vector (BitVec 16) 32) (act : Word) (l : Fin 32) : Option (Fin 32 × Fin 32) :=
  let x := nbr[l]
  if !x.getLsbD 10 then quadDy nbr act l
  else if x.getLsbD 12 && act.getLsbD (nbrH x).val then quadDy nbr act (nbrH x) else none

/-- A derivative: FSUB of the pair's lanes, or +0 with DS cleared (R143). -/
def derivative (pair : Vector (BitVec 16) 32 → Word → Fin 32 → Option (Fin 32 × Fin 32)) (o : FunHP) (s : State) : Host.Outcome State Fault Refusal :=
  issueSwell (funForm true o) [o.d.toNat, o.a.toNat] s fun w f =>
    let act := lanesActive w f o.pm
    let r (l : Fin 32) : Word × Word := match pair w.nbr act l with
      | some (lo, hi) => fsub f.env (w.vreg o.a)[hi] (w.vreg o.a)[lo]
      | none => (0, 0)
    let w' := (w.setV act o.d (rowOf fun l => (r l).1)).orFlags (flagsOf act fun l => (r l).2)
    { w' with nbr := Vector.ofFn fun l => if act.getLsbD l.val && (pair w.nbr act l).isNone then w.nbr[l] &&& 0x7FFF else w.nbr[l] }

/-- DDX (R143). -/
def execDdx (o : FunHP) (s : State) : Host.Outcome State Fault Refusal := derivative quadDx o s

/-- DDY (R143). -/
def execDdy (o : FunHP) (s : State) : Host.Outcome State Fault Refusal := derivative quadDy o s

/-- DDXC (R143). -/
def execDdxc (o : FunHP) (s : State) : Host.Outcome State Fault Refusal := derivative quadDxc o s

/-- DDYC (R143). -/
def execDdyc (o : FunHP) (s : State) : Host.Outcome State Fault Refusal := derivative quadDyc o s

/-- NBRGET (R144). -/
def execNbrget (o : NbrGetOp) (s : State) : Host.Outcome State Fault Refusal :=
  issueSwell { rse := true, writes := [o.d] } [o.d.toNat] s fun w f =>
    w.setV (lanesActive w f o.pm) o.d (rowOf fun l => w.nbr[l].setWidth 32)

/-- NBRSET (R144): bit 14 is written as 0. -/
def execNbrset (o : NbrSetOp) (s : State) : Host.Outcome State Fault Refusal :=
  issueSwell { rse := true, hold := holdReg o.hold o.a o.a o.a } [o.a.toNat] s fun w f =>
    let act := lanesActive w f o.pm
    { w with nbr := Vector.ofFn fun l => if act.getLsbD l.val then (w.vreg o.a)[l].setWidth 16 &&& 0xBFFF else w.nbr[l] }

end Sys2Proof.Machine
end

