-- ==== Sys2Proof/Machine/Matrix.lean ====
section
/-! DEFINITION. MMA and MMAZ: formats, operand layouts, results and checksums, the rerun and ARRAY (R21 to R29, R188 to R192, R213 to R218); REORDER and its collective (R219 to R221); writes of the core error record (R192). -/

namespace Sys2Proof.Machine

/-! ## Formats and operands (R213 to R216) -/

/-- The legal pair that FMT names (R34, R213). -/
def mmaFmt (fmt : BitVec 12) : Option MmaFmt :=
  if fmt.extractLsb' 0 3 ≠ fmt.extractLsb' 3 3 then none
  else match (fmt.extractLsb' 0 3).toNat with
    | 0 => some .bs8 | 1 => some .bs4 | 2 => some .bf16 | 3 => some .fp16 | 4 => some .i8 | _ => none

/-- K of a shape. -/
def MmaFmt.k : MmaFmt → Nat
  | .bs8 => 64 | .i8 => 64 | .bs4 => 128 | .bf16 => 32 | .fp16 => 32
/-- Bits of an element. -/
def MmaFmt.bits : MmaFmt → Nat
  | .bs8 => 8 | .i8 => 8 | .bs4 => 4 | .bf16 => 16 | .fp16 => 16
/-- Blocks of 32 with a scale (R15). -/
def MmaFmt.blocks : MmaFmt → Nat
  | .bs8 => 2 | .bs4 => 4 | .i8 => 0 | .bf16 => 0 | .fp16 => 0
/-- Whether the elements are integers. -/
def MmaFmt.isInt : MmaFmt → Bool
  | .bs8 => true | .bs4 => true | .i8 => true | .bf16 => false | .fp16 => false
/-- Float format of the elements. -/
def MmaFmt.float : MmaFmt → FFmt
  | .fp16 => .fp16 | .bf16 => .bf16 | .bs8 => .bf16 | .bs4 => .bf16 | .i8 => .bf16
/-- Issue interval (R181). -/
def MmaFmt.interval : MmaFmt → Nat
  | .bs8 => 32 | .bs4 => 32 | .i8 => 32 | .bf16 => 64 | .fp16 => 64
/-- Latency (R181). -/
def MmaFmt.latency (f : MmaFmt) : Nat := f.interval + 16

/-- A lane of a row of a list. -/
def rowLane (rs : List Row) (i l : Nat) : Word := match rs[i]? with | some r => r[l % 32]'(Nat.mod_lt _ (by decide)) | none => 0

/-- Element k of a run of words with elements of a width (R214, R215). -/
def elemBits (width : Nat) (word : Nat → Word) (k : Nat) : Nat := (word (k * width / 32)).toNat / 2 ^ (k * width % 32) % 2 ^ width

/-- A value of a width read signed. -/
def signedOf (width x : Nat) : Int := if x < 2 ^ (width - 1) then (x : Int) else (x : Int) - 2 ^ width

/-- Element k of row i of A, as bits (R214). -/
def MmaOp.aBits (o : MmaOp) (i k : Nat) : Nat := elemBits o.fmt.bits (fun w => rowLane o.a w i) k
/-- Element k of column j of B, as bits (R215). -/
def MmaOp.bBits (o : MmaOp) (j k : Nat) : Nat := elemBits o.fmt.bits (fun q => rowLane o.b (q % 8) (2 * j + q / 8)) k
/-- Scale of block b of row i of A: 127 under NOSCL (R15, R214). -/
def MmaOp.aScale (o : MmaOp) (i b : Nat) : Nat := if o.noscl then 127 else (rowLane o.a 16 i).toNat / 2 ^ (8 * b) % 256
/-- Scale of block b of column j of B. -/
def MmaOp.bScale (o : MmaOp) (j b : Nat) : Nat := if o.noscl then 127 else (rowLane o.b 8 (2 * j)).toNat / 2 ^ (8 * b) % 256

/-! ## Results (R23 to R25) -/

/-- The partial sum of a run of elements (R21, R22): the exact integer sum. -/
def MmaOp.partialSum (o : MmaOp) (i j lo n : Nat) : Int :=
  (List.range n).foldl (fun s x => s + signedOf o.fmt.bits (o.aBits i (lo + x)) * signedOf o.fmt.bits (o.bBits j (lo + x))) 0

/-- An integer times a power of two as an exact addend. -/
def intTerm (v : Int) (e : Int) : Term := ⟨decide (v < 0), v.natAbs, e⟩

/-- R23: block-scaled elements with the accumulator, or without it for MMAZ (R218). -/
def MmaOp.scaled (o : MmaOp) (i j : Nat) (c : Option FVal) : Nat × Word :=
  let env : FEnv := ⟨o.rm, o.sat, o.fz⟩
  let bs := List.range o.fmt.blocks
  let terms := bs.map fun b => intTerm (o.partialSum i j (32 * b) 32) ((o.aScale i b : Int) + (o.bScale j b : Int) - 254)
  if bs.any fun b => o.aScale i b == 255 || o.bScale j b == 255 then (FFmt.fp32.nanBits, 0)
  else match c with
    | none => finishSum .fp32 env terms
    | some (.nan q) => (FFmt.fp32.nanBits, flagIf q flagNV)
    | some (.inf n) => infResult .fp32 n
    | some (.fin n m e) => finishSum .fp32 env (⟨n, m, e⟩ :: terms)

/-- R25: floating elements with the accumulator, or without it for MMAZ (R218). -/
def MmaOp.floating (o : MmaOp) (i j : Nat) (c : Option FVal) : Nat × Word :=
  let env : FEnv := ⟨o.rm, o.sat, o.fz⟩
  let ps := (List.range 32).map fun k => (unpackF o.fmt.float (o.aBits i k), unpackF o.fmt.float (o.bBits j k))
  let ops := c.toList ++ ps.flatMap fun p => [p.1, p.2]
  let infs := (c.toList.filter FVal.isInf).map FVal.neg ++ (ps.filter fun p => p.1.isInf || p.2.isInf).map fun p => p.1.neg != p.2.neg
  if ops.any FVal.isNan then (FFmt.fp32.nanBits, flagIf (ops.any FVal.isSnan) flagNV)
  else if ps.any fun p => isInfTimesZero p.1 p.2 then (FFmt.fp32.nanBits, flagNV)
  else match infs with
    | n :: ns => if ns.any fun x => x != n then (FFmt.fp32.nanBits, flagNV) else infResult .fp32 n
    | [] =>
      let term (x : FVal) : List Term := match x with | .fin n m e => [⟨n, m, e⟩] | _ => []
      finishSum .fp32 env ((c.toList.flatMap term) ++ ps.flatMap fun p => match p.1, p.2 with
        | .fin n m e, .fin n' m' e' => [⟨n != n', m * m', e + e'⟩]
        | _, _ => [])

/-- One element of C and the flags it raises (R217, R218). -/
def MmaOp.elem (o : MmaOp) (c : Word) (i j : Nat) : Word × Word :=
  let acc : Option FVal := if o.zero then none else some (fp32 c)
  match o.fmt with
  | .i8 => (BitVec.ofInt 32 ((if o.zero then 0 else c.toInt) + o.partialSum i j 0 64), 0)
  | .bs8 | .bs4 => wordOf (o.scaled i j acc)
  | .bf16 | .fp16 => wordOf (o.floating i j acc)

/-! ## Checksums (R28, R29) -/

/-- The integer image of an element (R28). -/
def MmaFmt.image (f : MmaFmt) (x : Nat) : Int :=
  match f with
  | .bs8 | .i8 => signedOf 8 x
  | .bs4 => signedOf 4 x
  | .fp16 => match unpackF .fp16 x with | .fin n m e => (if n then -1 else 1) * ((m * 2 ^ (e + 24).toNat : Nat) : Int) | _ => 0
  | .bf16 => match unpackF .bf16 x with | .fin n m e => (if n then -1 else 1) * ((m * 2 ^ (e + 133).toNat : Nat) : Int) | _ => 0

/-- A sum over a range. -/
def sumTo (n : Nat) (g : Nat → Int) : Int := (List.range n).foldl (fun s k => s + g k) 0

/-- The image of the product stage (R28), as the main array of this run gives it: an injected error adds 1 at its place (R192). -/
def MmaOp.product (o : MmaOp) (i j : Nat) : Int :=
  sumTo o.fmt.k (fun k => o.fmt.image (o.aBits i k) * o.fmt.image (o.bBits j k)) +
    (if o.inj && j == 0 && (lanesOf o.lanes).head?.map Fin.val == some i then 1 else 0)

/-- The 16 + |L| equalities of R29. -/
def MmaOp.checks (o : MmaOp) : Bool :=
  let ls := (lanesOf o.lanes).map Fin.val
  let rows (g : Nat → Int) : Int := ls.foldl (fun s i => s + g i) 0
  let row (j : Nat) : Bool :=
    sumTo o.fmt.k (fun k => rows (fun i => o.fmt.image (o.aBits i k)) * o.fmt.image (o.bBits j k)) % 257 == rows (fun i => o.product i j) % 257
  let col (i : Nat) : Bool :=
    sumTo o.fmt.k (fun k => o.fmt.image (o.aBits i k) * sumTo 16 (fun j => o.fmt.image (o.bBits j k))) % 257 == sumTo 16 (fun j => o.product i j) % 257
  (List.range 16).all row && ls.all col

/-! ## Issue and completion -/

/-- Registers of an MMA in the order of their check: D, A, B (R213). -/
def mmaRegs (o : Reg3LA) : List Nat := [o.d.toNat + 15, o.a.toNat + 16, o.b.toNat + 8]

/-- n V registers from r up. -/
def Swell.rows (w : Swell) (r : Reg) (n : Nat) : List Row := (List.range n).map fun i => w.vreg (r + BitVec.ofNat 7 i)

/-- The earlier matrix word whose result a word takes from within the unit (R189): the last one of the fragment, outstanding, with the same C and shape. -/
def chainedTo (f : Frag) (d : Reg) (fmt : MmaFmt) : Option Nat :=
  if f.lastMma = some (d.toNat, fmt) then
    (f.outst.filter fun o => match o.kind with | .mma m => m.d == d && m.fmt == fmt | _ => false).getLast?.map fun o => o.id
  else none

/-- MMA and MMAZ at issue (R188, R217): FORMAT, operands read, an injected error taken, and the result on its way; M is held for the interval, and for one more when the checks will fail (R191). -/
def mmaIssue (zero : Bool) (o : Reg3LA) (s : State) : Host.Outcome State Fault Refusal :=
  issue { pmx := true, rse := true, writes := (List.range 16).map fun i => o.d + BitVec.ofNat 7 i } (mmaRegs o) s fun w f =>
    match mmaFmt f.fmt with
    | none => .fault s (plainFault .format (f.fmt.setWidth 64))
    | some fmt =>
      let c := coreOfKey s.cur.key
      let lanes := lanesActive w f f.pmx
      let env := f.env
      let hit := (s.core c).err.getLsbD 62 && lanes != 0
      let inj := hit || (s.core c).arrayBad
      let op : MmaOp :=
        { fmt := fmt, zero := zero, rm := env.rm, sat := env.sat, fz := env.fz, noscl := f.fmt.getLsbD 11, lanes := lanes, d := o.d,
          a := w.rows o.a 17, b := w.rows o.b 9, c := if (chainedTo f o.d fmt).isSome then none else some (w.rows o.d 16), inj := inj, rerun := false }
      let (id, s) := s.addOutst s.cur (.mma op) o.la.toNat
        ⟨regsFrom o.a.toNat 17 ++ regsFrom o.b.toNat 9 ++ regsFrom o.d.toNat 16, pmRegs f.pmx⟩ ⟨regsFrom o.d.toNat 16, []⟩
      let s := s.updFrag s.cur fun f => { f with lastMma := some (o.d.toNat, fmt) }
      let s := s.updCore c fun k => { k with mFree := s.now + (if op.checks then fmt.interval else 2 * fmt.interval), err := if hit then k.err &&& ~~~(BitVec.twoPow 64 62) else k.err }
      let s := s.updMeter (dieOfCore c) w.ctx fun m => { m with mxbusy := m.mxbusy + BitVec.ofNat 64 fmt.interval }
      .next (s.post fmt.latency (.mmaResult s.cur.swell id))

/-- MMA (R217). -/
def execMma (o : Reg3LA) (s : State) : Host.Outcome State Fault Refusal := mmaIssue false o s
/-- MMAZ (R218). -/
def execMmaz (o : Reg3LA) (s : State) : Host.Outcome State Fault Refusal := mmaIssue true o s

/-- Write the elements of the active rows and OR their flags (R190, R217). -/
def Swell.writeMma (w : Swell) (o : MmaOp) (c : List Row) : Swell :=
  (List.range 16).foldl (fun w j =>
    let r : Row := Vector.ofFn fun l => (o.elem (rowLane c j l.val) l.val j).1
    let fl : Word := (lanesOf o.lanes).foldl (fun x l => x ||| (o.elem (rowLane c j l.val) l.val j).2) 0
    (w.setV o.lanes (o.d + BitVec.ofNat 7 j) r).orFlags fl) w

/-- RERUN counts a rerun that passed, saturating (R191, R192). -/
def countRerun (e : Addr) : Addr := if loWord e = BitVec.allOnes 32 then e else e + 1
/-- AFAIL counts an ARRAY fault, saturating, and SUSPECT is set (R191, R192). -/
def countArray (e : Addr) : Addr :=
  (if e.extractLsb' 32 16 = BitVec.allOnes 16 then e else e + BitVec.twoPow 64 32) ||| BitVec.twoPow 64 63

/-- The word chained to an earlier one takes C as it stands now (R189). -/
def handC (s : State) (sw : SwellId) (e op : Nat) (d : Reg) : State :=
  s.updSwell sw fun w =>
    let next := (w.ent e).outst.find? fun y => op < y.id && (match y.kind with | .mma n => n.d == d && n.c.isNone | _ => false)
    w.mapOuts e fun y => if next.map (fun z => z.id) = some y.id then
        (match y.kind with | .mma n => { y with kind := .mma { n with c := some (w.rows d 16) } } | _ => y) else y

/-- ARRAY (R191): the fault is taken, AFAIL and SUSPECT say so, and the tile is written to the die's error log. -/
def failArray (s : State) (sw : SwellId) (op : Nat) : State :=
  let c := coreOfKey sw.key
  let d := dieOfCore c
  let s := s.updCore c fun k => { k with err := countArray k.err }
  let s := s.updDie d fun k => { k with tileLog := k.tileLog ++ [(c, s.atime d)] }
  (s.failOp sw op ⟨.array, 0, 0, false, false⟩).postOnce 1 (.suspectCoreService c)

/-- MMA_RESULT (R191, R217): the checks pass and C is written, or the product stage runs once more, or ARRAY is taken. A word chained to this one receives its result. -/
def execMmaResult (sw : SwellId) (op : Nat) (s : State) : Host.Outcome State Fault Refusal :=
  let c := coreOfKey sw.key
  .next <|
    match s.opAt sw op with
    | some (w, e, x) =>
      match x.kind with
      | .mma m =>
        match m.c with
        | none => s.post 1 (.mmaResult sw op)
        | some acc =>
          if m.checks then
            let s := s.updSwell sw fun w => w.writeMma m acc
            let s := if m.rerun then s.updCore c fun k => { k with err := countRerun k.err } else s
            (handC s sw e op m.d).finishOp sw op
          else if m.rerun then failArray (handC s sw e op m.d) sw op
          else
            let s := s.updOp sw op fun y => { y with kind := .mma { m with inj := (s.core c).arrayBad, rerun := true } }
            let s := s.updMeter (dieOfCore c) w.ctx fun t => { t with mxbusy := t.mxbusy + BitVec.ofNat 64 m.fmt.interval }
            s.post m.fmt.interval (.mmaResult sw op)
      | _ => s
    | none => s

/-- CORE_ERROR_RECORD_WRITE (R192): SUSPECT, AFAIL and RERUN are cleared by ones, INJ is written. -/
def execCoreErrorRecordWrite (core : Nat) (v : Addr) (s : State) : Host.Outcome State Fault Refusal :=
  let new (e : Addr) : Addr :=
    let suspect := e.getLsbD 63 && !v.getLsbD 63
    let afail : BitVec 16 := if v.extractLsb' 32 16 = 0 then e.extractLsb' 32 16 else 0
    let rerun : Word := if loWord v = 0 then loWord e else 0
    (BitVec.ofBool suspect ++ BitVec.ofBool (v.getLsbD 62) ++ 0#14 ++ afail ++ rerun)
  .next (s.updCore core fun k => { k with err := new k.err })

/-! ## REORDER (R219 to R221) -/

/-- A participant of a REORDER: slot key, entry, operation, its lanes and registers. -/
structure ReorderPart where
  key : Nat
  uid : Nat
  ent : Nat
  op : Nat
  task : Word
  sent : Nat
  lanes : Word
  k : Reg
  moved : Word
deriving DecidableEq, Repr

/-- The swells of a launch that wait in a collective with an id on a core, in the order of their tasks: those whose collective is, or is not, in flight as `p` chooses. -/
def reorderParts (s : State) (core launch id : Nat) (p : Option Nat → Bool) : List ReorderPart :=
  let part (x : Nat × Swell) : Option ReorderPart :=
    if coreOfKey x.1 == core && x.2.launch == launch then
      x.2.liveEnts.findSome? fun e => (x.2.ent e).outst.findSome? fun o => match o.kind with
        | .reorder i lanes k moved t => if i = id ∧ p t then some ⟨x.1, x.2.uid, e, o.id, x.2.task, o.sent, lanes, k, moved⟩ else none
        | _ => none
    else none
  (s.swells.filterMap part).foldr (fun p l => (l.takeWhile fun q => q.task.toNat < p.task.toNat) ++ p :: l.dropWhile fun q => q.task.toNat < p.task.toNat) []

/-- A collective whose participants have all come is in flight from then on: it completes at least 64 cycles after the last, and 2 more for each (R220, R221). -/
def reorderClose (s : State) (core launch id : Nat) : State :=
  let ps := reorderParts s core launch id Option.isNone
  if ps = [] ∨ ps.length ≠ (s.swells.filter fun x => coreOfKey x.1 == core && x.2.launch == launch).length then s
  else
    let due := Nat.max s.now ((ps.map fun p => p.sent).foldl Nat.max 0 + 64 + 2 * ps.length)
    let last (o : Outst) : Outst := match o.kind with
      | .reorder i lanes k moved _ => { o with kind := .reorder i lanes k moved (some due) }
      | _ => o
    let s := ps.foldl (fun s p => s.updFrag ⟨p.key, p.uid, p.ent⟩ fun f =>
      { f with outst := f.outst.map fun o => if o.id = p.op then last o else o }) s
    s.post (due - s.now) (.reorderCompletion core launch id)

/-- REORDER (R219): the checks, with the lowest moved register above the count named, and the fragment's part in the collective. -/
def execReorder (o : ReorderOp) (s : State) : Host.Outcome State Fault Refusal :=
  issue { pmx := true, brk := true } [] s fun w f =>
    let mask := w.sreg o.a
    if 1 < w.liveEnts.length then .fault s (plainFault .illegal ((packReg 0x39 o.d o.a o.id o.la).setWidth 64))
    else match (List.range 128).find? fun r => (mask.getLsbD r || r == o.d.toNat) && decide (w.n ≤ r) with
      | some r => .fault s (plainFault .regrange (BitVec.ofNat 64 r))
      | none =>
        match (if f.held0.valid || f.held1.valid then
            some (if f.held0.valid && (!f.held1.valid || f.held0.key.ult f.held1.key) then f.held0.key else f.held1.key) else none) with
        | some k => .fault s (plainFault .sectstate k)
        | none =>
          let lanes := lanesActive w f f.pmx
          let moved := mask ||| BitVec.twoPow 32 (o.d.toNat % 32)
          let (_, s) := s.addOutst s.cur (.reorder o.id.toNat lanes o.d moved none) o.la.toNat
            ⟨(List.range 32).filter fun r => moved.getLsbD r, [o.a.toNat]⟩ ⟨(List.range 32).filter fun r => moved.getLsbD r, []⟩
          .next (reorderClose s (coreOfKey s.cur.key) w.launch o.id.toNat)

/-- Insert into a list in ascending order of a key, behind equals. -/
def insertByKey {α : Type} (k : α → Nat) (x : α) : List α → List α
  | [] => [x]
  | y :: t => if k x < k y then x :: y :: t else y :: insertByKey k x t

/-- The sorted lanes: key, rank and lane (R221). -/
def reorderLanes (s : State) (ps : List ReorderPart) (k : Reg) : List (Nat × Nat × Nat) :=
  let es := (List.range ps.length).flatMap fun r => match ps[r]? with
    | some p => match kvGet s.swells p.key with
      | some w => (lanesOf p.lanes).map fun l => ((w.vreg k)[l].toNat, r, l.val)
      | none => []
    | none => []
  es.foldl (fun l x => insertByKey (fun y => y.1) x l) []

/-- The lanes of a collective are sorted by key and dealt out again; a participant left without a lane ends (R221). What its registers held is no longer held in the operand latch (R69). -/
def reorderPerform (s : State) (ps : List ReorderPart) (p0 : ReorderPart) : State :=
  let order := reorderLanes s ps p0.k
  let origin (pos : Nat) : Option (Swell × ReorderPart × Nat) :=
    match order[pos]? with
    | some (_, r, l) => match ps[r]? with
      | some p => (kvGet s.swells p.key).map fun w => (w, p, l)
      | none => none
    | none => none
  let s' := (List.range ps.length).foldl (fun t i =>
    match ps[i]? with
    | none => t
    | some p =>
      let real : Word := (List.finRange 32).foldl (fun m l => if 32 * i + l.val < order.length then m ||| BitVec.twoPow 32 l.val else m) 0
      let t := t.updSwell ⟨p.key, p.uid⟩ fun w =>
        let v := (lanesOf p0.moved).foldl (fun (v : Vector Row 128) r =>
          let row : Row := Vector.ofFn fun l => match origin (32 * i + l.val) with
            | some (ow, _, ol) => (ow.vreg (BitVec.ofNat 7 r.val))[ol % 32]'(Nat.mod_lt _ (by decide))
            | none => 0
          v.setIfInBounds r.val row) w.v
        let nbr : Vector (BitVec 16) 32 := Vector.ofFn fun l => match origin (32 * i + l.val) with
          | some (ow, q, ol) =>
            let x := ow.nbr[ol % 32]'(Nat.mod_lt _ (by decide))
            if q.key = p.key ∧ ol = l.val then x else x &&& 0xCFFF#16
          | none => 0x8000
        { w with v := v, nbr := nbr }.setEnt p.ent { w.ent p.ent with mask := real }
      t.dropHeld p.key ((lanesOf p0.moved).map Fin.val)) s
  ps.foldl (fun t p =>
    let sw : SwellId := ⟨p.key, p.uid⟩
    let t := t.finishOp sw p.op
    match t.swellAt sw with
    | some w => if (w.ent p.ent).mask = 0 then t.endSwell sw else t
    | none => t) s'

/-- REORDER_COMPLETION (R220, R221): the collective in flight whose time has come is performed; one that waits looks whether every participant is there. -/
def execReorderCompletion (core launch id : Nat) (s : State) : Host.Outcome State Fault Refusal :=
  let s := match reorderParts s core launch id (fun t => t.any fun n => decide (n ≤ s.now)) with
    | [] => s
    | p0 :: ps => reorderPerform s (p0 :: ps) p0
  .next (reorderClose s core launch id)

end Sys2Proof.Machine
end

