-- ==== Sys2Proof/Machine/Dispatch.lean ====
section
/-! DEFINITION. One arm per constructor of Instr: a direct call of its meaning, or a refusal by name. -/

namespace Sys2Proof.Machine

def exec (i : Instr) (s : State) : Host.Outcome State Fault Refusal :=
  match i with
  | .add o => Sys2Proof.Machine.execAdd o s
  | .addGroup o => Sys2Proof.Machine.execAddGroup o s
  | .sub o => Sys2Proof.Machine.execSub o s
  | .subGroup o => Sys2Proof.Machine.execSubGroup o s
  | .mul o => Sys2Proof.Machine.execMul o s
  | .mulGroup o => Sys2Proof.Machine.execMulGroup o s
  | .mac o => Sys2Proof.Machine.execMac o s
  | .macGroup o => Sys2Proof.Machine.execMacGroup o s
  | .and o => Sys2Proof.Machine.execAnd o s
  | .andGroup o => Sys2Proof.Machine.execAndGroup o s
  | .or o => Sys2Proof.Machine.execOr o s
  | .orGroup o => Sys2Proof.Machine.execOrGroup o s
  | .xor o => Sys2Proof.Machine.execXor o s
  | .xorGroup o => Sys2Proof.Machine.execXorGroup o s
  | .andn o => Sys2Proof.Machine.execAndn o s
  | .andnGroup o => Sys2Proof.Machine.execAndnGroup o s
  | .shl o => Sys2Proof.Machine.execShl o s
  | .shlGroup o => Sys2Proof.Machine.execShlGroup o s
  | .shr o => Sys2Proof.Machine.execShr o s
  | .shrGroup o => Sys2Proof.Machine.execShrGroup o s
  | .sra o => Sys2Proof.Machine.execSra o s
  | .sraGroup o => Sys2Proof.Machine.execSraGroup o s
  | .min o => Sys2Proof.Machine.execMin o s
  | .minGroup o => Sys2Proof.Machine.execMinGroup o s
  | .max o => Sys2Proof.Machine.execMax o s
  | .maxGroup o => Sys2Proof.Machine.execMaxGroup o s
  | .minn o => Sys2Proof.Machine.execMinn o s
  | .minnGroup o => Sys2Proof.Machine.execMinnGroup o s
  | .maxn o => Sys2Proof.Machine.execMaxn o s
  | .maxnGroup o => Sys2Proof.Machine.execMaxnGroup o s
  | .sel o => Sys2Proof.Machine.execSel o s
  | .selGroup o => Sys2Proof.Machine.execSelGroup o s
  | .ceq o => Sys2Proof.Machine.execCeq o s
  | .ceqGroup o => Sys2Proof.Machine.execCeqGroup o s
  | .cne o => Sys2Proof.Machine.execCne o s
  | .cneGroup o => Sys2Proof.Machine.execCneGroup o s
  | .clt o => Sys2Proof.Machine.execClt o s
  | .cltGroup o => Sys2Proof.Machine.execCltGroup o s
  | .cle o => Sys2Proof.Machine.execCle o s
  | .cleGroup o => Sys2Proof.Machine.execCleGroup o s
  | .cltn o => Sys2Proof.Machine.execCltn o s
  | .cltnGroup o => Sys2Proof.Machine.execCltnGroup o s
  | .clen o => Sys2Proof.Machine.execClen o s
  | .clenGroup o => Sys2Proof.Machine.execClenGroup o s
  | .mulh o => Sys2Proof.Machine.execMulh o s
  | .mulhGroup o => Sys2Proof.Machine.execMulhGroup o s
  | .mulhn o => Sys2Proof.Machine.execMulhn o s
  | .mulhnGroup o => Sys2Proof.Machine.execMulhnGroup o s
  | .adds o => Sys2Proof.Machine.execAdds o s
  | .addsGroup o => Sys2Proof.Machine.execAddsGroup o s
  | .subs o => Sys2Proof.Machine.execSubs o s
  | .subsGroup o => Sys2Proof.Machine.execSubsGroup o s
  | .rol o => Sys2Proof.Machine.execRol o s
  | .rolGroup o => Sys2Proof.Machine.execRolGroup o s
  | .bfx o => Sys2Proof.Machine.execBfx o s
  | .bfxGroup o => Sys2Proof.Machine.execBfxGroup o s
  | .bfxn o => Sys2Proof.Machine.execBfxn o s
  | .bfxnGroup o => Sys2Proof.Machine.execBfxnGroup o s
  | .bfi o => Sys2Proof.Machine.execBfi o s
  | .bfiGroup o => Sys2Proof.Machine.execBfiGroup o s
  | .divs o => Sys2Proof.Machine.execDivs o s
  | .divsGroup o => Sys2Proof.Machine.execDivsGroup o s
  | .divn o => Sys2Proof.Machine.execDivn o s
  | .divnGroup o => Sys2Proof.Machine.execDivnGroup o s
  | .orn o => Sys2Proof.Machine.execOrn o s
  | .ornGroup o => Sys2Proof.Machine.execOrnGroup o s
  | .xnor o => Sys2Proof.Machine.execXnor o s
  | .xnorGroup o => Sys2Proof.Machine.execXnorGroup o s
  | .mov o => Sys2Proof.Machine.execMov o s
  | .movGroup o => Sys2Proof.Machine.execMovGroup o s
  | .not o => Sys2Proof.Machine.execNot o s
  | .notGroup o => Sys2Proof.Machine.execNotGroup o s
  | .neg o => Sys2Proof.Machine.execNeg o s
  | .negGroup o => Sys2Proof.Machine.execNegGroup o s
  | .abs o => Sys2Proof.Machine.execAbs o s
  | .absGroup o => Sys2Proof.Machine.execAbsGroup o s
  | .clz o => Sys2Proof.Machine.execClz o s
  | .clzGroup o => Sys2Proof.Machine.execClzGroup o s
  | .ctz o => Sys2Proof.Machine.execCtz o s
  | .ctzGroup o => Sys2Proof.Machine.execCtzGroup o s
  | .popc o => Sys2Proof.Machine.execPopc o s
  | .popcGroup o => Sys2Proof.Machine.execPopcGroup o s
  | .brev o => Sys2Proof.Machine.execBrev o s
  | .brevGroup o => Sys2Proof.Machine.execBrevGroup o s
  | .bswap o => Sys2Proof.Machine.execBswap o s
  | .bswapGroup o => Sys2Proof.Machine.execBswapGroup o s
  | .sextb o => Sys2Proof.Machine.execSextb o s
  | .sextbGroup o => Sys2Proof.Machine.execSextbGroup o s
  | .sexth o => Sys2Proof.Machine.execSexth o s
  | .sexthGroup o => Sys2Proof.Machine.execSexthGroup o s
  | .zextb o => Sys2Proof.Machine.execZextb o s
  | .zextbGroup o => Sys2Proof.Machine.execZextbGroup o s
  | .zexth o => Sys2Proof.Machine.execZexth o s
  | .zexthGroup o => Sys2Proof.Machine.execZexthGroup o s
  | .addi o => Sys2Proof.Machine.execAddi o s
  | .addiGroup o => Sys2Proof.Machine.execAddiGroup o s
  | .andi o => Sys2Proof.Machine.execAndi o s
  | .andiGroup o => Sys2Proof.Machine.execAndiGroup o s
  | .ori o => Sys2Proof.Machine.execOri o s
  | .oriGroup o => Sys2Proof.Machine.execOriGroup o s
  | .xori o => Sys2Proof.Machine.execXori o s
  | .xoriGroup o => Sys2Proof.Machine.execXoriGroup o s
  | .shli o => Sys2Proof.Machine.execShli o s
  | .shliGroup o => Sys2Proof.Machine.execShliGroup o s
  | .shri o => Sys2Proof.Machine.execShri o s
  | .shriGroup o => Sys2Proof.Machine.execShriGroup o s
  | .srai o => Sys2Proof.Machine.execSrai o s
  | .sraiGroup o => Sys2Proof.Machine.execSraiGroup o s
  | .roli o => Sys2Proof.Machine.execRoli o s
  | .roliGroup o => Sys2Proof.Machine.execRoliGroup o s
  | .movi o => Sys2Proof.Machine.execMovi o s
  | .moviGroup o => Sys2Proof.Machine.execMoviGroup o s
  | .cmpiEq o => Sys2Proof.Machine.execCmpiEq o s
  | .cmpiEqGroup o => Sys2Proof.Machine.execCmpiEqGroup o s
  | .cmpiNe o => Sys2Proof.Machine.execCmpiNe o s
  | .cmpiNeGroup o => Sys2Proof.Machine.execCmpiNeGroup o s
  | .cmpiLt o => Sys2Proof.Machine.execCmpiLt o s
  | .cmpiLtGroup o => Sys2Proof.Machine.execCmpiLtGroup o s
  | .cmpiLe o => Sys2Proof.Machine.execCmpiLe o s
  | .cmpiLeGroup o => Sys2Proof.Machine.execCmpiLeGroup o s
  | .cmpiLtn o => Sys2Proof.Machine.execCmpiLtn o s
  | .cmpiLtnGroup o => Sys2Proof.Machine.execCmpiLtnGroup o s
  | .cmpiLen o => Sys2Proof.Machine.execCmpiLen o s
  | .cmpiLenGroup o => Sys2Proof.Machine.execCmpiLenGroup o s
  | .fadd o => Sys2Proof.Machine.execFadd o s
  | .faddGroup o => Sys2Proof.Machine.execFaddGroup o s
  | .fsub o => Sys2Proof.Machine.execFsub o s
  | .fsubGroup o => Sys2Proof.Machine.execFsubGroup o s
  | .fmul o => Sys2Proof.Machine.execFmul o s
  | .fmulGroup o => Sys2Proof.Machine.execFmulGroup o s
  | .ffma o => Sys2Proof.Machine.execFfma o s
  | .ffmaGroup o => Sys2Proof.Machine.execFfmaGroup o s
  | .fmin o => Sys2Proof.Machine.execFmin o s
  | .fminGroup o => Sys2Proof.Machine.execFminGroup o s
  | .fmax o => Sys2Proof.Machine.execFmax o s
  | .fmaxGroup o => Sys2Proof.Machine.execFmaxGroup o s
  | .fdiv o => Sys2Proof.Machine.execFdiv o s
  | .fdivGroup o => Sys2Proof.Machine.execFdivGroup o s
  | .fcmpEq o => Sys2Proof.Machine.execFcmpEq o s
  | .fcmpEqGroup o => Sys2Proof.Machine.execFcmpEqGroup o s
  | .fcmpNe o => Sys2Proof.Machine.execFcmpNe o s
  | .fcmpNeGroup o => Sys2Proof.Machine.execFcmpNeGroup o s
  | .fcmpLt o => Sys2Proof.Machine.execFcmpLt o s
  | .fcmpLtGroup o => Sys2Proof.Machine.execFcmpLtGroup o s
  | .fcmpLe o => Sys2Proof.Machine.execFcmpLe o s
  | .fcmpLeGroup o => Sys2Proof.Machine.execFcmpLeGroup o s
  | .fcmpGt o => Sys2Proof.Machine.execFcmpGt o s
  | .fcmpGtGroup o => Sys2Proof.Machine.execFcmpGtGroup o s
  | .fcmpGe o => Sys2Proof.Machine.execFcmpGe o s
  | .fcmpGeGroup o => Sys2Proof.Machine.execFcmpGeGroup o s
  | .fcmpUo o => Sys2Proof.Machine.execFcmpUo o s
  | .fcmpUoGroup o => Sys2Proof.Machine.execFcmpUoGroup o s
  | .fcmpOr o => Sys2Proof.Machine.execFcmpOr o s
  | .fcmpOrGroup o => Sys2Proof.Machine.execFcmpOrGroup o s
  | .fabs o => Sys2Proof.Machine.execFabs o s
  | .fabsGroup o => Sys2Proof.Machine.execFabsGroup o s
  | .fneg o => Sys2Proof.Machine.execFneg o s
  | .fnegGroup o => Sys2Proof.Machine.execFnegGroup o s
  | .fcps o => Sys2Proof.Machine.execFcps o s
  | .fcpsGroup o => Sys2Proof.Machine.execFcpsGroup o s
  | .frcp o => Sys2Proof.Machine.execFrcp o s
  | .frcpGroup o => Sys2Proof.Machine.execFrcpGroup o s
  | .frsq o => Sys2Proof.Machine.execFrsq o s
  | .frsqGroup o => Sys2Proof.Machine.execFrsqGroup o s
  | .fsqrt o => Sys2Proof.Machine.execFsqrt o s
  | .fsqrtGroup o => Sys2Proof.Machine.execFsqrtGroup o s
  | .fexp2 o => Sys2Proof.Machine.execFexp2 o s
  | .fexp2Group o => Sys2Proof.Machine.execFexp2Group o s
  | .flog2 o => Sys2Proof.Machine.execFlog2 o s
  | .flog2Group o => Sys2Proof.Machine.execFlog2Group o s
  | .frndn o => Sys2Proof.Machine.execFrndn o s
  | .frndnGroup o => Sys2Proof.Machine.execFrndnGroup o s
  | .frndz o => Sys2Proof.Machine.execFrndz o s
  | .frndzGroup o => Sys2Proof.Machine.execFrndzGroup o s
  | .frndp o => Sys2Proof.Machine.execFrndp o s
  | .frndpGroup o => Sys2Proof.Machine.execFrndpGroup o s
  | .frndm o => Sys2Proof.Machine.execFrndm o s
  | .frndmGroup o => Sys2Proof.Machine.execFrndmGroup o s
  | .fclass o => Sys2Proof.Machine.execFclass o s
  | .fclassGroup o => Sys2Proof.Machine.execFclassGroup o s
  | .cvt o => Sys2Proof.Machine.execCvt o s
  | .cvtBs8 o => Sys2Proof.Machine.execCvtBs8 o s
  | .cvtBs4 o => Sys2Proof.Machine.execCvtBs4 o s
  | .cvtGroup o => Sys2Proof.Machine.execCvtGroup o s
  | .h2add o => Sys2Proof.Machine.execH2add o s
  | .h2sub o => Sys2Proof.Machine.execH2sub o s
  | .h2mul o => Sys2Proof.Machine.execH2mul o s
  | .h2fma o => Sys2Proof.Machine.execH2fma o s
  | .h2min o => Sys2Proof.Machine.execH2min o s
  | .h2max o => Sys2Proof.Machine.execH2max o s
  | .shflIdx o => Sys2Proof.Machine.execShflIdx o s
  | .shflUp o => Sys2Proof.Machine.execShflUp o s
  | .shflDn o => Sys2Proof.Machine.execShflDn o s
  | .shflXor o => Sys2Proof.Machine.execShflXor o s
  | .bcast o => Sys2Proof.Machine.execBcast o s
  | .vext o => Sys2Proof.Machine.execVext o s
  | .vins o => Sys2Proof.Machine.execVins o s
  | .msk o => Sys2Proof.Machine.execMsk o s
  | .unmsk o => Sys2Proof.Machine.execUnmsk o s
  | .vmovx o => Sys2Proof.Machine.execVmovx o s
  | .vmovxw o => Sys2Proof.Machine.execVmovxw o s
  | .prmt o => Sys2Proof.Machine.execPrmt o s
  | .ddx o => Sys2Proof.Machine.execDdx o s
  | .ddy o => Sys2Proof.Machine.execDdy o s
  | .ddxc o => Sys2Proof.Machine.execDdxc o s
  | .ddyc o => Sys2Proof.Machine.execDdyc o s
  | .nbrget o => Sys2Proof.Machine.execNbrget o s
  | .nbrset o => Sys2Proof.Machine.execNbrset o s
  | .ld o => Sys2Proof.Machine.execLd o s
  | .st o => Sys2Proof.Machine.execSt o s
  | .lds o => Sys2Proof.Machine.execLds o s
  | .sts o => Sys2Proof.Machine.execSts o s
  | .ldf o => Sys2Proof.Machine.execLdf o s
  | .ldc o => Sys2Proof.Machine.execLdc o s
  | .stp o => Sys2Proof.Machine.execStp o s
  | .stf o => Sys2Proof.Machine.execStf o s
  | .sete o => Sys2Proof.Machine.execSete o s
  | .tagq o => Sys2Proof.Machine.execTagq o s
  | .atomAdd o => Sys2Proof.Machine.execAtomAdd o s
  | .atomAnd o => Sys2Proof.Machine.execAtomAnd o s
  | .atomOr o => Sys2Proof.Machine.execAtomOr o s
  | .atomXor o => Sys2Proof.Machine.execAtomXor o s
  | .atomMin o => Sys2Proof.Machine.execAtomMin o s
  | .atomMax o => Sys2Proof.Machine.execAtomMax o s
  | .atomMinn o => Sys2Proof.Machine.execAtomMinn o s
  | .atomMaxn o => Sys2Proof.Machine.execAtomMaxn o s
  | .atomXchg o => Sys2Proof.Machine.execAtomXchg o s
  | .atomCas o => Sys2Proof.Machine.execAtomCas o s
  | .atomFadd o => Sys2Proof.Machine.execAtomFadd o s
  | .atomFmin o => Sys2Proof.Machine.execAtomFmin o s
  | .atomFmax o => Sys2Proof.Machine.execAtomFmax o s
  | .atomInc o => Sys2Proof.Machine.execAtomInc o s
  | .redAdd o => Sys2Proof.Machine.execRedAdd o s
  | .redAnd o => Sys2Proof.Machine.execRedAnd o s
  | .redOr o => Sys2Proof.Machine.execRedOr o s
  | .redXor o => Sys2Proof.Machine.execRedXor o s
  | .redMin o => Sys2Proof.Machine.execRedMin o s
  | .redMax o => Sys2Proof.Machine.execRedMax o s
  | .redMinn o => Sys2Proof.Machine.execRedMinn o s
  | .redMaxn o => Sys2Proof.Machine.execRedMaxn o s
  | .redFadd o => Sys2Proof.Machine.execRedFadd o s
  | .redFmin o => Sys2Proof.Machine.execRedFmin o s
  | .redFmax o => Sys2Proof.Machine.execRedFmax o s
  | .redInc o => Sys2Proof.Machine.execRedInc o s
  | .ldt o => Sys2Proof.Machine.execLdt o s
  | .stt o => Sys2Proof.Machine.execStt o s
  | .mma o => Sys2Proof.Machine.execMma o s
  | .mmaz o => Sys2Proof.Machine.execMmaz o s
  | .reorder o => Sys2Proof.Machine.execReorder o s
  | .tex o => Sys2Proof.Machine.execTex o s
  | .emitp o => Sys2Proof.Machine.execEmitp o s
  | .texq o => Sys2Proof.Machine.execTexq o s
  | .rshade o => Sys2Proof.Machine.execRshade o s
  | .waitvEq o => Sys2Proof.Machine.execWaitvEq o s
  | .waitvNe o => Sys2Proof.Machine.execWaitvNe o s
  | .waitvGen o => Sys2Proof.Machine.execWaitvGen o s
  | .waitvGtn o => Sys2Proof.Machine.execWaitvGtn o s
  | .pf o => Sys2Proof.Machine.execPf o s
  | .bra off => Sys2Proof.Machine.execBra off s
  | .brz o => Sys2Proof.Machine.execBrz o s
  | .brnz o => Sys2Proof.Machine.execBrnz o s
  | .call o => Sys2Proof.Machine.execCall o s
  | .jmpx r => Sys2Proof.Machine.execJmpx r s
  | .split o => Sys2Proof.Machine.execSplit o s
  | .fuse => Sys2Proof.Machine.execFuse s
  | .setf r => Sys2Proof.Machine.execSetf r s
  | .getf r => Sys2Proof.Machine.execGetf r s
  | .setc r => Sys2Proof.Machine.execSetc r s
  | .getc r => Sys2Proof.Machine.execGetc r s
  | .setpri r => Sys2Proof.Machine.execSetpri r s
  | .yield => Sys2Proof.Machine.execYield s
  | .exit => Sys2Proof.Machine.execExit s
  | .region => Sys2Proof.Machine.execRegion s
  | .cont r => Sys2Proof.Machine.execCont r s
  | .resume r => Sys2Proof.Machine.execResume r s
  | .srd o => Sys2Proof.Machine.execSrd o s
  | .swr o => Sys2Proof.Machine.execSwr o s
  | .trap imm => Sys2Proof.Machine.execTrap imm s
  | .eret => Sys2Proof.Machine.execEret s
  | .bkpt => Sys2Proof.Machine.execBkpt s
  | .nop => Sys2Proof.Machine.execNop s
  | .tlbiPage r => Sys2Proof.Machine.execTlbiPage r s
  | .tlbiCtx => Sys2Proof.Machine.execTlbiCtx s
  | .time r => Sys2Proof.Machine.execTime r s
  | .twait r => Sys2Proof.Machine.execTwait r s
  | .sld o => Sys2Proof.Machine.execSld o s
  | .sst o => Sys2Proof.Machine.execSst o s
  | .satomAdd o => Sys2Proof.Machine.execSatomAdd o s
  | .satomAnd o => Sys2Proof.Machine.execSatomAnd o s
  | .satomOr o => Sys2Proof.Machine.execSatomOr o s
  | .satomXor o => Sys2Proof.Machine.execSatomXor o s
  | .satomMin o => Sys2Proof.Machine.execSatomMin o s
  | .satomMax o => Sys2Proof.Machine.execSatomMax o s
  | .satomMinn o => Sys2Proof.Machine.execSatomMinn o s
  | .satomMaxn o => Sys2Proof.Machine.execSatomMaxn o s
  | .satomXchg o => Sys2Proof.Machine.execSatomXchg o s
  | .satomCas o => Sys2Proof.Machine.execSatomCas o s
  | .satomFadd o => Sys2Proof.Machine.execSatomFadd o s
  | .satomFmin o => Sys2Proof.Machine.execSatomFmin o s
  | .satomFmax o => Sys2Proof.Machine.execSatomFmax o s
  | .satomInc o => Sys2Proof.Machine.execSatomInc o s
  | .fenceAcq scope => Sys2Proof.Machine.execFenceAcq scope s
  | .fenceRel scope => Sys2Proof.Machine.execFenceRel scope s
  | .fenceAr scope => Sys2Proof.Machine.execFenceAr scope s
  | .clean o => Sys2Proof.Machine.execClean o s
  | .inv o => Sys2Proof.Machine.execInv o s
  | .clinv o => Sys2Proof.Machine.execClinv o s
  | .copy o => Sys2Proof.Machine.execCopy o s
  | .gather o => Sys2Proof.Machine.execGather o s
  | .scatter o => Sys2Proof.Machine.execScatter o s
  | .eqry o => Sys2Proof.Machine.execEqry o s
  | .rarith o => Sys2Proof.Machine.execRarith o s
  | .coll o => Sys2Proof.Machine.execColl o s
  | .cstat o => Sys2Proof.Machine.execCstat o s
  | .wsend o => Sys2Proof.Machine.execWsend o s
  | .wsig o => Sys2Proof.Machine.execWsig o s
  | .binit o => Sys2Proof.Machine.execBinit o s
  | .arrive o => Sys2Proof.Machine.execArrive o s
  | .arrivex o => Sys2Proof.Machine.execArrivex o s
  | .bwait o => Sys2Proof.Machine.execBwait o s
  | .seqtake o => Sys2Proof.Machine.execSeqtake o s
  | .enter o => Sys2Proof.Machine.execEnter o s
  | .leave o => Sys2Proof.Machine.execLeave o s
  | .leaveEnd o => Sys2Proof.Machine.execLeaveEnd o s
  | .abandon o => Sys2Proof.Machine.execAbandon o s
  | .sectq o => Sys2Proof.Machine.execSectq o s
  | .launch o => Sys2Proof.Machine.execLaunch o s
  | .lqry o => Sys2Proof.Machine.execLqry o s
  | .swaitvEq o => Sys2Proof.Machine.execSwaitvEq o s
  | .swaitvNe o => Sys2Proof.Machine.execSwaitvNe o s
  | .swaitvGen o => Sys2Proof.Machine.execSwaitvGen o s
  | .swaitvGtn o => Sys2Proof.Machine.execSwaitvGtn o s
  | .hintWideImmediate payload => Sys2Proof.Machine.execHintWideImmediate payload s
  | .hintModifiers o => Sys2Proof.Machine.execHintModifiers o s
  | .hintScheduling o => Sys2Proof.Machine.execHintScheduling o s
  | .asyncFaultDelivery sw => Sys2Proof.Machine.execAsyncFaultDelivery sw s
  | .lateNotice fr tidemark => Sys2Proof.Machine.execLateNotice fr tidemark s
  | .loadResponse sw op => Sys2Proof.Machine.execLoadResponse sw op s
  | .atomicReply sw op => Sys2Proof.Machine.execAtomicReply sw op s
  | .mmaResult sw op => Sys2Proof.Machine.execMmaResult sw op s
  | .reorderCompletion core launch id => Sys2Proof.Machine.execReorderCompletion core launch id s
  | .accessTimeout sw op => Sys2Proof.Machine.execAccessTimeout sw op s
  | .swellMoveOut sw => Sys2Proof.Machine.execSwellMoveOut sw s
  | .swellMoveIn sw => Sys2Proof.Machine.execSwellMoveIn sw s
  | .forcedDisplacement core => Sys2Proof.Machine.execForcedDisplacement core s
  | .compaction core => Sys2Proof.Machine.execCompaction core s
  | .swellEviction sw => Sys2Proof.Machine.execSwellEviction sw s
  | .swellResume ctx uid core slot => Sys2Proof.Machine.execSwellResume ctx uid core slot s
  | .tagWaiterService core word => Sys2Proof.Machine.execTagWaiterService core word s
  | .valueWaitArm fr lane => Sys2Proof.Machine.execValueWaitArm fr lane s
  | .homeWrite msg => Sys2Proof.Machine.execHomeWrite msg s
  | .l1WritebackDeadline core line => Sys2Proof.Machine.execL1WritebackDeadline core line s
  | .sliceMissFill die slice line => Sys2Proof.Machine.execSliceMissFill die slice line s
  | .cohReadRequest die line => Sys2Proof.Machine.execCohReadRequest die line s
  | .cohOwnershipRequest die line => Sys2Proof.Machine.execCohOwnershipRequest die line s
  | .cohRecall die line drop => Sys2Proof.Machine.execCohRecall die line drop s
  | .rosReplicaFill ctx die granule => Sys2Proof.Machine.execRosReplicaFill ctx die granule s
  | .replicaFree die granule => Sys2Proof.Machine.execReplicaFree die granule s
  | .walkCompletion die ctx page => Sys2Proof.Machine.execWalkCompletion die ctx page s
  | .faultServiceRequest die ctx page kind who => Sys2Proof.Machine.execFaultServiceRequest die ctx page kind who s
  | .faultAnswer ctx word => Sys2Proof.Machine.execFaultAnswer ctx word s
  | .priPageRequest ctx page kind who => Sys2Proof.Machine.execPriPageRequest ctx page kind who s
  | .timedLaneArrival msg => Sys2Proof.Machine.execTimedLaneArrival msg s
  | .tideTick die home => Sys2Proof.Machine.execTideTick die home s
  | .twaitExpiry fr => Sys2Proof.Machine.execTwaitExpiry fr s
  | .shelfRefreshEnd die bank => Sys2Proof.Machine.execShelfRefreshEnd die bank s
  | .shelfBankRetire die bank => Sys2Proof.Machine.execShelfBankRetire die bank s
  | .slabRunRise die slab => Sys2Proof.Machine.execSlabRunRise die slab s
  | .slabRegisterWrite die slab v => Sys2Proof.Machine.execSlabRegisterWrite die slab v s
  | .sliceConfigWrite die slice v => Sys2Proof.Machine.execSliceConfigWrite die slice v s
  | .coreErrorRecordWrite core v => Sys2Proof.Machine.execCoreErrorRecordWrite core v s
  | .enterRequest req => Sys2Proof.Machine.execEnterRequest req s
  | .leaveRequest req kind => Sys2Proof.Machine.execLeaveRequest req kind s
  | .seqtakeRequest req => Sys2Proof.Machine.execSeqtakeRequest req s
  | .sectqRequest req => Sys2Proof.Machine.execSectqRequest req s
  | .sectionGrantReply req status => Sys2Proof.Machine.execSectionGrantReply req status s
  | .sectionTimeoutScan die => Sys2Proof.Machine.execSectionTimeoutScan die s
  | .sluiceReload die ctx key => Sys2Proof.Machine.execSluiceReload die ctx key s
  | .sluiceDieReplace ctx retired live => Sys2Proof.Machine.execSluiceDieReplace ctx retired live s
  | .engineStep cluster engine => Sys2Proof.Machine.execEngineStep cluster engine s
  | .taskStart core launch => Sys2Proof.Machine.execTaskStart core launch s
  | .stealRequest cluster launch => Sys2Proof.Machine.execStealRequest cluster launch s
  | .stealRetry cluster launch => Sys2Proof.Machine.execStealRetry cluster launch s
  | .tcbShipment cluster launch tasks => Sys2Proof.Machine.execTcbShipment cluster launch tasks s
  | .dispatcherRefill die launch => Sys2Proof.Machine.execDispatcherRefill die launch s
  | .launchCompletion launch => Sys2Proof.Machine.execLaunchCompletion launch s
  | .primitivePacket die launch prim => Sys2Proof.Machine.execPrimitivePacket die launch prim s
  | .endOfGroupMarker die launch group => Sys2Proof.Machine.execEndOfGroupMarker die launch group s
  | .tileShadeStart die launch tile => Sys2Proof.Machine.execTileShadeStart die launch tile s
  | .blendSwellsStart die launch tile => Sys2Proof.Machine.execBlendSwellsStart die launch tile s
  | .mailboxWrite ctx word v => Sys2Proof.Machine.execMailboxWrite ctx word v s
  | .contextCreate ctx => Sys2Proof.Machine.execContextCreate ctx s
  | .contextSuspend ctx => Sys2Proof.Machine.execContextSuspend ctx s
  | .contextResume ctx => Sys2Proof.Machine.execContextResume ctx s
  | .contextTeardown ctx => Sys2Proof.Machine.execContextTeardown ctx s
  | .contextFree ctx => Sys2Proof.Machine.execContextFree ctx s
  | .apertureWrite fn off bytes => Sys2Proof.Machine.execApertureWrite fn off bytes s
  | .registerWrite fn off size v => Sys2Proof.Machine.execRegisterWrite fn off size v s
  | .putArrival put => Sys2Proof.Machine.execPutArrival put s
  | .putAcknowledgement put reason => Sys2Proof.Machine.execPutAcknowledgement put reason s
  | .putLinkTimeout put => Sys2Proof.Machine.execPutLinkTimeout put s
  | .collectiveExchange ctx id remote => Sys2Proof.Machine.execCollectiveExchange ctx id remote s
  | .linkStallSpill die edge cls => Sys2Proof.Machine.execLinkStallSpill die edge cls s
  | .linkSpillDrain die edge cls => Sys2Proof.Machine.execLinkSpillDrain die edge cls s
  | .syncTimer die => Sys2Proof.Machine.execSyncTimer die s
  | .sync die seq => Sys2Proof.Machine.execSync die seq s
  | .followUp die t => Sys2Proof.Machine.execFollowUp die t s
  | .pdelayReqTimer die => Sys2Proof.Machine.execPdelayReqTimer die s
  | .pdelayReq die t1 => Sys2Proof.Machine.execPdelayReq die t1 s
  | .pdelayResp die t1 t2 t3 => Sys2Proof.Machine.execPdelayResp die t1 t2 t3 s
  | .lockLossTimeout die => Sys2Proof.Machine.execLockLossTimeout die s
  | .timeSourceFail => Sys2Proof.Machine.execTimeSourceFail s
  | .tdiscWrite die v => Sys2Proof.Machine.execTdiscWrite die v s
  | .atimeBootSet delays => Sys2Proof.Machine.execAtimeBootSet delays s
  | .leadRoleMove => Sys2Proof.Machine.execLeadRoleMove s
  | .powerEmergency die clock => Sys2Proof.Machine.execPowerEmergency die clock s
  | .meterUpdate die => Sys2Proof.Machine.execMeterUpdate die s
  | .suspectCoreService core => Sys2Proof.Machine.execSuspectCoreService core s
  | .coreSelfTest core passed => Sys2Proof.Machine.execCoreSelfTest core passed s
  | .enumeration => Sys2Proof.Machine.execEnumeration s
  | .routeTableCompute => Sys2Proof.Machine.execRouteTableCompute s
  | .firmwareMeasure die reg image => Sys2Proof.Machine.execFirmwareMeasure die reg image s
  | .getMeasurements nonce => Sys2Proof.Machine.execGetMeasurements nonce s
  | .powerStateEntry => Sys2Proof.Machine.execPowerStateEntry s
  | .powerStateWake => Sys2Proof.Machine.execPowerStateWake s
  | .hbmChannelSpare die channel => Sys2Proof.Machine.execHbmChannelSpare die channel s
  | .firmwareUpdate die phase => Sys2Proof.Machine.execFirmwareUpdate die phase s
  | .moduleHotSwap part inserted => Sys2Proof.Machine.execModuleHotSwap part inserted s
  | .nonInstructionWord w => Sys2Proof.Machine.execNonInstructionWord w s
  | .priPageResponse ctx page ok => Sys2Proof.Machine.execPriPageResponse ctx page ok s
  | .atsTranslationCompletion ctx page frame => Sys2Proof.Machine.execAtsTranslationCompletion ctx page frame s
  | .ppsInput offset => Sys2Proof.Machine.execPpsInput offset s
  | .ptpPortMessage offset => Sys2Proof.Machine.execPtpPortMessage offset s
  | .plockBroadcast => Sys2Proof.Machine.execPlockBroadcast s
  | .powerEmergencyEnd die => Sys2Proof.Machine.execPowerEmergencyEnd die s
  | .hostPortLinkChange port up => Sys2Proof.Machine.execHostPortLinkChange port up s
  | .shoreLinkLiveChange link live => Sys2Proof.Machine.execShoreLinkLiveChange link live s
  | .dieRetirement die live => Sys2Proof.Machine.execDieRetirement die live s
  | .boot cfg => Sys2Proof.Machine.execBoot cfg s

end Sys2Proof.Machine
end

