-- ==== Sys2Proof/Machine/Issue.lean ====
section
/-! DEFINITION. Fetching a word, eligibility and the picks of a core (R64, R150, R167 to R171), the events the device causes, and what a tick does. -/

namespace Sys2Proof.Machine

noncomputable section

/-! ## Fetching -/

/-- The instruction of a fetched word: what the decoder reads, or a word that is no instruction (R86). -/
def instrOf (x : Word) : Instr :=
  match decode x with
  | .ok i => i
  | .error _ => .nonInstructionWord x

/-! ## Eligibility (R168) -/

/-- The fragment runs and waits neither for a walk nor for a fault that came with a response (R72, R187). -/
def runnable (s : State) (f : Frag) : Bool :=
  f.valid && (f.st == 0 || f.st == 5) && f.walkWait == [] && decide (f.retryAt ≤ s.now) && f.outst.all (fun o => o.fail.isNone)

/-- The fragments of a core that may issue: those of swells in the active set that are not moving (R168, R174). -/
def runnables (s : State) (c : Nat) : List FragId :=
  ((coreSwells s c).filter fun x => x.2.active && !movingOut s x.1 x.2.uid).flatMap fun x =>
    (x.2.liveEnts.map fun e => (⟨x.1, x.2.uid, e⟩ : FragId)).filter fun id => runnable s (x.2.ent id.ent)

/-- A pending asynchronous fault goes to this fragment before its next unit (R60). -/
def asyncDue (w : Swell) (e : Nat) (f : Frag) : Bool :=
  !w.busy && f.hints.words == [] && (asyncReady w).any fun x => x.2 == e

/-- What comes before eligibility is known: a pending asynchronous fault is delivered, a walk starts, and a fragment whose word is held by a blocking point waits there (R41, R60, R70, R186). -/
def prepare (s : State) (id : FragId) : State :=
  match s.fragAt id with
  | none => s
  | some (w, f) =>
    if asyncDue w id.ent f then deliverAsync s id.swell
    else match nextWord s id w f with
      | .walk => startWalk s id w.ctx (f.pc.setWidth 64)
      | .fault _ => match f.outst.find? fun o => o.waits || (o.window == 0 && o.blocks (dieOfCore w.core)) with
        | some o => s.blockOn id o
        | none => s
      | .later => s
      | .word x => match gate w f x with
        | .held (some o) => s.blockOn id o
        | .held none => s
        | .go => s

/-- An eligible fragment with the class of its word and its rank (R167, R170). -/
structure Candidate where
  id : FragId
  mma : Bool
  mem : Bool
  rank : Nat
deriving DecidableEq, Repr

/-- The rank of R170 as one number: its fields in their order, each within its range. -/
def rankOf (id : FragId) (pri age : Nat) : Nat :=
  let tail := (31 - slotOfKey id.key) * 8 + (7 - id.ent)
  if 3840 ≤ age then 2 ^ 60 + (age * 8 + pri) * 256 + tail else (pri * 2 ^ 32 + age) * 256 + tail

/-- Whether a fragment is eligible now (R168): its word passes the interlocks, and M is free for a matrix word. A fault of the fetch is taken in the word's place once nothing earlier is outstanding (R150). -/
def eligible (s : State) (id : FragId) : Option Candidate :=
  match s.fragAt id with
  | none => none
  | some (w, f) =>
    if !runnable s f || asyncDue w id.ent f then none
    else match nextWord s id w f with
      | .fault _ => if f.outst = [] then some ⟨id, false, false, rankOf id (fragPri w f) f.age⟩ else none
      | .word x =>
        match gate w f x with
        | .go =>
          if isMma x && decide (s.now < (s.core (coreOfKey id.key)).mFree) then none
          else some ⟨id, isMma x, isMem x, rankOf id (wordPri w f x) f.age⟩
        | .held _ => none
      | .walk => none
      | .later => none

/-! ## The picks of a core (R170) -/

/-- The candidate of highest rank. -/
def highest (l : List Candidate) : Option Candidate :=
  l.foldl (fun b x => match b with | none => some x | some y => if y.rank < x.rank then some x else some y) none

/-- g0, g1 and m of R170. -/
def picks (l : List Candidate) : List Candidate :=
  let g0 := highest (l.filter fun x => !x.mma)
  let g1 := match g0 with
    | some g => highest (l.filter fun x => !x.mma && x.id != g.id && !(g.mem && x.mem))
    | none => none
  g0.toList ++ g1.toList ++ (highest (l.filter fun x => x.mma)).toList

/-- Insert a fragment by its entry: words issued in one cycle are ordered by split-table entry (R40, R167). -/
def insertEnt (x : FragId) : List FragId → List FragId
  | [] => [x]
  | y :: t => if x.ent < y.ent then x :: y :: t else y :: insertEnt x t

/-- A core's cycle begins: what is not yet known is settled, the eligible fragments are ranked, those not picked grow older (R169, R170). The picked ones, in their order. -/
def pickCore (s : State) (c : Nat) : List FragId × State :=
  let s := (runnables s c).foldl prepare s
  let cands := (runnables s c).filterMap (eligible s)
  let chosen := (picks cands).map fun x => x.id
  let s := (cands.filter fun x => !chosen.contains x.id).foldl (fun s x => s.updFrag x.id fun f => { f with age := f.age + 1 }) s
  (chosen.foldl (fun l x => insertEnt x l) [], s)

/-- The first core from a number on that has a swell. -/
def firstCore (s : State) (c : Nat) : Option Nat := (s.swells.find? fun x => c ≤ coreOfKey x.1).map fun x => coreOfKey x.1

/-- Cores that have a swell, each once. -/
def swellCores (s : State) : List Nat := s.swells.foldl (fun l x => if l.contains (coreOfKey x.1) then l else l ++ [coreOfKey x.1]) []

/-! ## Issuing (R73, R169) -/

/-- The turn after a picked fragment has issued: the others picked for its core, then the next core. -/
def turnAfter (id : FragId) (rest : List FragId) : Turn := if rest = [] then ⟨coreOfKey id.key + 1, []⟩ else ⟨coreOfKey id.key, rest⟩

/-- The fetch of a fragment's word reads memory as any access of its die does (R265, R268, R409; log 9). -/
def State.countFetch (s : State) (id : FragId) : State :=
  match s.fragAt id with
  | none => s
  | some (w, f) =>
    match nextWord s id w f, laneXlat s (coreOfKey id.key) w.ctx (f.priv != 0) .fetch f ⟨0, f.pc.setWidth 64, 4⟩ with
    | .word _, .ok l => if l.host then s else countTraffic s w.ctx (dieOfKey id.key) l.pa 4 false l.ms
    | _, _ => s

/-- The state in which a picked fragment's word is performed: it is the fragment that issues, and its fetch is counted; `rest` are the others picked for its core in this tick. Its age counts the attempt. -/
def State.issuing (s : State) (id : FragId) (rest : List FragId) : State :=
  let s : State := { s.countFetch id with cur := id, turn := turnAfter id rest }
  s.updFrag id fun f => { f with age := f.age + 1 }

/-- After a word: one that could not be performed yet has issued, so its age is 0 (R169), and it is tried again 8 ticks later (log 3); any other word of a general slot counts in VISSUE (R409). -/
def afterWord (s : State) (id : FragId) (age ctx : Nat) (mma : Bool) : State :=
  match s.fragAt id with
  | some (_, f) =>
    if f.age = age ∧ (f.st = 0 ∨ f.st = 5) then s.updFrag id fun f => { f with age := 0, retryAt := s.now + 8 }
    else if mma then s else s.updMeter (dieOfKey id.key) ctx fun m => { m with vissue := m.vissue + 1 }
  | none => if mma then s else s.updMeter (dieOfKey id.key) ctx fun m => { m with vissue := m.vissue + 1 }

/-! ## Events -/

/-- The event as a row of the table. -/
def Internal.instr : Internal → Instr
  | .asyncFaultDelivery a => .asyncFaultDelivery a
  | .lateNotice a b => .lateNotice a b
  | .loadResponse a b => .loadResponse a b
  | .atomicReply a b => .atomicReply a b
  | .mmaResult a b => .mmaResult a b
  | .reorderCompletion a b c => .reorderCompletion a b c
  | .accessTimeout a b => .accessTimeout a b
  | .swellMoveOut a => .swellMoveOut a
  | .swellMoveIn a => .swellMoveIn a
  | .forcedDisplacement a => .forcedDisplacement a
  | .compaction a => .compaction a
  | .swellEviction a => .swellEviction a
  | .swellResume a b c d => .swellResume a b c d
  | .tagWaiterService a b => .tagWaiterService a b
  | .valueWaitArm a b => .valueWaitArm a b
  | .homeWrite a => .homeWrite a
  | .l1WritebackDeadline a b => .l1WritebackDeadline a b
  | .sliceMissFill a b c => .sliceMissFill a b c
  | .walkCompletion a b c => .walkCompletion a b c
  | .faultServiceRequest a b c d e => .faultServiceRequest a b c d e
  | .timedLaneArrival a => .timedLaneArrival a
  | .tideTick a b => .tideTick a b
  | .twaitExpiry a => .twaitExpiry a
  | .shelfRefreshEnd a b => .shelfRefreshEnd a b
  | .slabRunRise a b => .slabRunRise a b
  | .enterRequest a => .enterRequest a
  | .leaveRequest a b => .leaveRequest a b
  | .seqtakeRequest a => .seqtakeRequest a
  | .sectqRequest a => .sectqRequest a
  | .sectionGrantReply a b => .sectionGrantReply a b
  | .sectionTimeoutScan a => .sectionTimeoutScan a
  | .sluiceReload a b c => .sluiceReload a b c
  | .engineStep a b => .engineStep a b
  | .taskStart a b => .taskStart a b
  | .stealRequest a b => .stealRequest a b
  | .stealRetry a b => .stealRetry a b
  | .tcbShipment a b c => .tcbShipment a b c
  | .dispatcherRefill a b => .dispatcherRefill a b
  | .launchCompletion a => .launchCompletion a
  | .primitivePacket a b c => .primitivePacket a b c
  | .endOfGroupMarker a b c => .endOfGroupMarker a b c
  | .tileShadeStart a b c => .tileShadeStart a b c
  | .blendSwellsStart a b c => .blendSwellsStart a b c
  | .contextCreate a => .contextCreate a
  | .contextSuspend a => .contextSuspend a
  | .contextResume a => .contextResume a
  | .contextTeardown a => .contextTeardown a
  | .contextFree a => .contextFree a
  | .mailboxWrite a b c => .mailboxWrite a b c
  | .faultAnswer a b => .faultAnswer a b
  | .priPageRequest a b c d => .priPageRequest a b c d
  | .putArrival a => .putArrival a
  | .putAcknowledgement a b => .putAcknowledgement a b
  | .putLinkTimeout a => .putLinkTimeout a
  | .collectiveExchange a b c => .collectiveExchange a b c
  | .linkStallSpill a b c => .linkStallSpill a b c
  | .linkSpillDrain a b c => .linkSpillDrain a b c
  | .syncTimer a => .syncTimer a
  | .sync a b => .sync a b
  | .followUp a b => .followUp a b
  | .pdelayReqTimer a => .pdelayReqTimer a
  | .pdelayReq a b => .pdelayReq a b
  | .pdelayResp a b c d => .pdelayResp a b c d
  | .lockLossTimeout a => .lockLossTimeout a
  | .plockBroadcast => .plockBroadcast
  | .meterUpdate a => .meterUpdate a
  | .suspectCoreService a => .suspectCoreService a
  | .enumeration => .enumeration
  | .routeTableCompute => .routeTableCompute
  | .powerStateEntry => .powerStateEntry
  | .powerStateWake => .powerStateWake
  | .leadRoleMove => .leadRoleMove

/-- Take the first event due by a tick out of a list. -/
def takeDue {α : Type} (now : Nat) : List (Nat × α) → Option (α × List (Nat × α))
  | [] => none
  | x :: t => if x.1 ≤ now then some (x.2, t) else (takeDue now t).map fun r => (r.1, x :: r.2)

/-- Traffic of the fabric wakes the device (R431). -/
def isTraffic : Instr → Bool
  | .putArrival _ => true
  | .putAcknowledgement _ _ => true
  | .collectiveExchange _ _ _ => true
  | _ => false

/-- The state in which an input is performed. -/
def arrive (s : State) (i : Instr) : State := if s.pkg.powerState ≠ 0 ∧ isTraffic i then wakeDevice s else s

/-! ## A tick -/

/-- Every 1,024 ticks a die makes at most one tick of its correction (R365, R368). Under PLOCK the lead die makes one in 2^20 ticks, so that every die follows within the bound of R370 (log 73). In holdover the correction goes on at the rate it had (R367). -/
def slewStep (now : Nat) (d : Die) : Die :=
  let rest (x : Int) : Disc := { d.disc with slew := if d.disc.holdover.isSome then d.disc.slew else x }
  if !d.disc.fast && now % 2 ^ 20 != 0 then d
  else if 0 < d.disc.slew then { d with off := d.off + 1, disc := rest (d.disc.slew - 1) }
  else if d.disc.slew < 0 then { d with off := d.off - 1, disc := rest (d.disc.slew + 1) }
  else d

/-- What waits for a die's ATIME looks again when the die has been corrected. -/
def slewEvents (s : State) (d : Nat) : State :=
  let s := (s.die d).tides.foldl (fun s x => if x.2.buf = [] then s else s.repost 0 (.tideTick d x.1)) s
  (s.swells.filter fun x => dieOfKey x.1 == d).foldl (fun s x => x.2.liveEnts.foldl (fun s e =>
    match (x.2.ent e).wait with
    | some (.twait _) => s.repost 0 (.twaitExpiry ⟨x.1, x.2.uid, e⟩)
    | _ => s) s) s

/-- The corrections of every die. -/
def slewAll (s : State) : State :=
  if s.now % 1024 ≠ 0 then s
  else
    let moved := (s.dies.filter fun x => x.2.disc.slew != 0).map fun x => x.1
    moved.foldl slewEvents { s with dies := s.dies.map fun (x : Nat × Die) => (x.1, slewStep s.now x.2) }

/-- Idleness of the device (R431): 2^20 idle ticks cause the entry of a power state, work causes the wake. -/
def idleScan (s : State) : State :=
  if deviceIdle s then
    if s.pkg.powerState = 0 ∧ s.pkg.idleSince + 2 ^ 20 ≤ s.now ∧ deepest (s.pkg.ltol.extractLsb' 0 20).toNat ≠ 0 then s.postOnce 0 .powerStateEntry else s
  else
    let s : State := { s with pkg := { s.pkg with idleSince := s.now } }
    if s.pkg.powerState = 0 then s else s.postOnce 0 .powerStateWake

/-- A tick passes: ATIME advances, corrections are made, and every scheduler looks at its swells (R174, R365, R406, R407). -/
def tick (s : State) : State :=
  let s : State := { s with now := s.now + 1, turn := ⟨0, []⟩, swells := s.swells.map fun (x : Nat × Swell) => (x.1, { x.2 with raised := 0 }) }
  let s := slewAll s
  let s := (swellCores s).foldl scheduleCore s
  let s := evictScan s
  let s := s.ctxs.foldl (fun s x => if x.2.evicted = [] then s else resumeScan s x.1) s
  idleScan s

/-! ## A word placed where the next step fetches -/

/-- Physical address of the placed word: page 1 of die 0. -/
def placedPc : Nat := 0x10000

/-- A leaf for the placed word's page: valid, read, write, user, executable, class DP, at the same address. -/
def placedLeaf : Addr := BitVec.ofNat 64 (2 ^ 63 + 2 ^ 62 + 2 ^ 61 + 2 ^ 54 + 2 ^ 53 + 2 ^ 52 + 2 ^ 15 + placedPc)

/-- A launch of context 0 whose bay is core 0. -/
def placedLaunch : Launch :=
  { ctx := 0, handle := 1, bayVa := 0,
    bay := { entry := BitVec.ofNat 64 placedPc, args := 0, done := 0, tasks := 1, rect := 0, pri := 0, flags := 0, row0 := 0, col0 := 0, rows := 1, cols := 1,
             regs := 128, swells := 1, scratch := 0, l1 := 0 },
    prow := 0, pcol := 0, pilot := false, st := .running, started := 1, ended := 0, donated := 0, cursors := [], ran := [0], frame := none, doneStep := 0 }

/-- A machine whose next step fetches at `placedPc`: one active swell on core 0 of a running context, as a launch leaves it (R33), the page in the core's TLB, no event due. -/
def placeWord (s : State) (x : Word) : State :=
  { s with
    mem := writeBytes s.mem placedPc (wordBytes x)
    swells := [(0, { freshSwell placedLaunch 0 .group 0 128 (BitVec.ofNat 64 placedPc) 0xFFFFFFFF with active := true })]
    launches := kvSet s.launches 0 placedLaunch
    ctxs := kvSet s.ctxs 0 ((s.ctx 0).setStatus 2)
    cores := kvSet s.cores 0 { s.core 0 with bndReg := 0x20000, bndScr := 0x80000, bndTop := 0xC0000, ctx := some 0, tlb := [⟨0, 1, false, placedLeaf⟩], mFree := 0 }
    inbox := s.inbox.filter fun (e : Nat × Instr) => decide (s.now < e.1)
    due := s.due.filter fun (e : Nat × Internal) => decide (s.now < e.1)
    turn := ⟨0, []⟩ }

end

end Sys2Proof.Machine
end

