-- ==== Sys2Proof/Machine/Step.lean ====
section
/-! DEFINITION. One step of the machine: an input that has arrived, an event that is due, a word of a picked fragment, or a tick. -/

namespace Sys2Proof.Machine

noncomputable section

/-- Perform an input of the outside; a word of the instruction stream is no input and changes nothing. -/
def stepInput (i : Instr) (s : State) : Host.Outcome State Fault Refusal :=
  if i.isWord then .next s else exec i (arrive s i)

/-- Perform the word of a picked fragment, when it is still eligible (R64, R73, R150). -/
def stepWord (id : FragId) (rest : List FragId) (s0 : State) : Host.Outcome State Fault Refusal :=
  let s := s0.issuing id rest
  match s0.fragAt id, eligible s0 id with
  | some (w, f), some _ =>
    match nextWord s0 id w f with
    | .word x =>
      match exec (instrOf x) s with
      | .next t => .next (afterWord t id (f.age + 1) w.ctx (isMma x))
      | .fault e => .fault e
      | .refused r => .refused r
    | .fault r => .next ((Done.fault s r).settle id {} f.pc)
    | .walk => .next s
    | .later => .next s
  | _, _ => .next s

/-- The tick and the turn after a step: no word, event or input moves them, only the step itself (R169; log 3). -/
def atTurn (now : Nat) (turn : Turn) : Host.Outcome State Fault Refusal → Host.Outcome State Fault Refusal
  | .next t => .next { t with now := now, turn := turn }
  | .fault e => .fault e
  | .refused r => .refused r

/-- One step. -/
def step (s : State) : Host.Outcome State Fault Refusal :=
  match takeDue s.now s.inbox with
  | some (i, r) => atTurn s.now s.turn (stepInput i { s with inbox := r })
  | none =>
    match takeDue s.now s.due with
    | some (e, r) => atTurn s.now s.turn (exec e.instr { s with due := r })
    | none =>
      match s.turn.picked with
      | id :: rest => atTurn s.now (turnAfter id rest) (stepWord id rest s)
      | [] =>
        match firstCore s s.turn.core with
        | none => atTurn (s.now + 1) ⟨0, []⟩ (.next (tick s))
        | some k =>
          match pickCore s k with
          | (id :: rest, t) => atTurn s.now (turnAfter id rest) (stepWord id rest t)
          | ([], t) => atTurn s.now ⟨k + 1, []⟩ (.next t)

/-- A state with an instruction's word placed where the next step fetches (log 36). -/
def State.withFetchWord (s : State) (_nbits w : Nat) : State := placeWord s (BitVec.ofNat 32 w)

end

end Sys2Proof.Machine
end

