-- ==== Sys2Proof/Safety.lean ====
section
/-! DEFINITION. The terms in which the statements speak: which fragment issues, what a performed word leaves and what it leaves alone, and the arithmetic of the spec's tables written once more, over natural numbers and integers. -/

namespace Sys2Proof.Spec

/-! ## Integer results (R99 to R112), over natural numbers and integers -/

/-- All ones or zero (R100). -/
def truth (p : Prop) [Decidable p] : Word := if p then BitVec.ofNat 32 (2 ^ 32 - 1) else 0

def add (_ a b : Word) : Word := BitVec.ofNat 32 (a.toNat + b.toNat)
def sub (_ a b : Word) : Word := BitVec.ofInt 32 (a.toInt - b.toInt)
def mul (_ a b : Word) : Word := BitVec.ofNat 32 (a.toNat * b.toNat)
def mac (d a b : Word) : Word := BitVec.ofNat 32 (d.toNat + a.toNat * b.toNat)
def and (_ a b : Word) : Word := a &&& b
def or (_ a b : Word) : Word := a ||| b
def xor (_ a b : Word) : Word := a ^^^ b
def andn (_ a b : Word) : Word := a &&& ~~~b
def orn (_ a b : Word) : Word := a ||| ~~~b
def xnor (_ a b : Word) : Word := ~~~(a ^^^ b)
/-- The shift count is the whole of B (R101). -/
def shl (_ a b : Word) : Word := if b.toNat < 32 then BitVec.ofNat 32 (a.toNat * 2 ^ b.toNat) else 0
def shr (_ a b : Word) : Word := if b.toNat < 32 then BitVec.ofNat 32 (a.toNat / 2 ^ b.toNat) else 0
def sra (_ a b : Word) : Word := BitVec.ofInt 32 (a.toInt / 2 ^ (min b.toNat 31))
def min (_ a b : Word) : Word := if a.toInt ≤ b.toInt then a else b
def max (_ a b : Word) : Word := if b.toInt ≤ a.toInt then a else b
def minn (_ a b : Word) : Word := if a.toNat ≤ b.toNat then a else b
def maxn (_ a b : Word) : Word := if b.toNat ≤ a.toNat then a else b
/-- Each bit from A where D has a 1, else from B. -/
def sel (d a b : Word) : Word := (a &&& d) ||| (b &&& ~~~d)
def ceq (_ a b : Word) : Word := truth (a.toNat = b.toNat)
def cne (_ a b : Word) : Word := truth (a.toNat ≠ b.toNat)
def clt (_ a b : Word) : Word := truth (a.toInt < b.toInt)
def cle (_ a b : Word) : Word := truth (a.toInt ≤ b.toInt)
def cltn (_ a b : Word) : Word := truth (a.toNat < b.toNat)
def clen (_ a b : Word) : Word := truth (a.toNat ≤ b.toNat)
def mulh (_ a b : Word) : Word := BitVec.ofInt 32 (a.toInt * b.toInt / 2 ^ 32)
def mulhn (_ a b : Word) : Word := BitVec.ofNat 32 (a.toNat * b.toNat / 2 ^ 32)
/-- Saturation to the range of a signed word. -/
def sat (x : Int) : Word := BitVec.ofInt 32 (Max.max (-(2 ^ 31)) (Min.min (2 ^ 31 - 1) x))
def adds (_ a b : Word) : Word := sat (a.toInt + b.toInt)
def subs (_ a b : Word) : Word := sat (a.toInt - b.toInt)
def rol (_ a b : Word) : Word := BitVec.ofNat 32 (a.toNat * 2 ^ (b.toNat % 32) + a.toNat / 2 ^ (32 - b.toNat % 32))
/-- The field that B names (R105): position B[4:0], width B[13:8] cut at bit 31. -/
def pos (b : Word) : Nat := b.toNat % 32
def width (b : Word) : Nat := Min.min (b.toNat / 256 % 64) (32 - pos b)
def bfxn (_ a b : Word) : Word := BitVec.ofNat 32 (a.toNat / 2 ^ pos b % 2 ^ width b)
def bfx (_ a b : Word) : Word :=
  if width b = 0 then 0
  else if a.toNat / 2 ^ pos b % 2 ^ width b < 2 ^ (width b - 1) then BitVec.ofNat 32 (a.toNat / 2 ^ pos b % 2 ^ width b)
  else BitVec.ofInt 32 (((a.toNat / 2 ^ pos b % 2 ^ width b : Nat) : Int) - 2 ^ width b)
def bfi (d a b : Word) : Word :=
  BitVec.ofNat 32 (d.toNat - d.toNat / 2 ^ pos b % 2 ^ width b * 2 ^ pos b + a.toNat % 2 ^ width b * 2 ^ pos b)
/-- Quotient towards zero and remainder with the dividend's sign; by 0: all ones and the dividend (R106). -/
def divs (a b : Word) : Word × Word :=
  if b.toInt = 0 then (BitVec.ofInt 32 (-1), a) else (BitVec.ofInt 32 (a.toInt.tdiv b.toInt), BitVec.ofInt 32 (a.toInt.tmod b.toInt))
def divn (a b : Word) : Word × Word :=
  if b.toNat = 0 then (BitVec.ofNat 32 (2 ^ 32 - 1), a) else (BitVec.ofNat 32 (a.toNat / b.toNat), BitVec.ofNat 32 (a.toNat % b.toNat))
def mov (a : Word) : Word := a
def not (a : Word) : Word := ~~~a
def neg (a : Word) : Word := BitVec.ofInt 32 (-a.toInt)
def abs (a : Word) : Word := BitVec.ofInt 32 (a.toInt.natAbs : Int)
def clz (a : Word) : Word := if a.toNat = 0 then 32 else BitVec.ofNat 32 (31 - Nat.log2 a.toNat)
def ctz (a : Word) : Word := BitVec.ofNat 32 (((List.range 32).find? fun i => a.getLsbD i).getD 32)
def popc (a : Word) : Word := BitVec.ofNat 32 ((List.range 32).filter fun i => a.getLsbD i).length
def brev (a : Word) : Word := BitVec.ofNat 32 ((List.range 32).map fun i => if a.getLsbD (31 - i) then 2 ^ i else 0).sum
def bswap (a : Word) : Word :=
  BitVec.ofNat 32 (a.toNat % 256 * 2 ^ 24 + a.toNat / 2 ^ 8 % 256 * 2 ^ 16 + a.toNat / 2 ^ 16 % 256 * 2 ^ 8 + a.toNat / 2 ^ 24)
def sextb (a : Word) : Word := BitVec.ofInt 32 (if a.toNat % 256 < 128 then (a.toNat % 256 : Nat) else ((a.toNat % 256 : Nat) : Int) - 256)
def sexth (a : Word) : Word := BitVec.ofInt 32 (if a.toNat % 65536 < 32768 then (a.toNat % 65536 : Nat) else ((a.toNat % 65536 : Nat) : Int) - 65536)
def zextb (a : Word) : Word := BitVec.ofNat 32 (a.toNat % 256)
def zexth (a : Word) : Word := BitVec.ofNat 32 (a.toNat % 65536)

/-- Byte i of a word as a number. -/
def byteN (a : Word) (i : Nat) : Nat := a.toNat / 256 ^ i % 256
/-- A byte with its bits in reverse order. -/
def revN (n : Nat) : Nat := ((List.range 8).map fun i => n / 2 ^ (7 - i) % 2 * 2 ^ i).sum
/-- One result byte of PRMT by the control byte (R140): SEL in bits 2:0, FILL in bits 4:3, REV in bit 5. -/
def prmtByte (a b : Word) (c : Nat) : Nat :=
  let v := if c % 8 < 4 then byteN a (c % 8) else byteN b (c % 8 - 4)
  let v := if c / 8 % 4 = 0 then v else if c / 8 % 4 = 1 then 0 else if c / 8 % 4 = 2 then (if 128 ≤ v then 255 else 0) else 255
  if c / 32 % 2 = 1 then revN v else v
def prmt (d a b : Word) : Word :=
  BitVec.ofNat 32 (prmtByte a b (byteN d 0) + prmtByte a b (byteN d 1) * 2 ^ 8 + prmtByte a b (byteN d 2) * 2 ^ 16 + prmtByte a b (byteN d 3) * 2 ^ 24)

/-- The immediate of R75: n bits sign-extended, or with a wide-immediate HINT its payload above them. -/
def imm9 (i : BitVec 9) : Option (BitVec 23) → Word
  | none => BitVec.ofInt 32 i.toInt
  | some p => BitVec.ofNat 32 (p.toNat * 2 ^ 9 + i.toNat)
def imm16 (i : BitVec 16) : Option (BitVec 23) → Word
  | none => BitVec.ofInt 32 i.toInt
  | some p => BitVec.ofNat 32 (p.toNat * 2 ^ 16 + i.toNat)
/-- A CMPI immediate of a signed condition: 6 or 29 bits, sign-extended. -/
def cmpS (i : BitVec 6) : Option (BitVec 23) → Word
  | none => BitVec.ofInt 32 i.toInt
  | some p => BitVec.ofInt 32 (if p.toNat < 2 ^ 22 then (p.toNat * 64 + i.toNat : Nat) else ((p.toNat * 64 + i.toNat : Nat) : Int) - 2 ^ 29)
/-- A CMPI immediate of a natural condition: 6 or 29 bits, zero-extended. -/
def cmpN (i : BitVec 6) : Option (BitVec 23) → Word
  | none => BitVec.ofNat 32 i.toNat
  | some p => BitVec.ofNat 32 (p.toNat * 64 + i.toNat)

/-! ## Floating-point results (R8, R16 to R20), over natural numbers and integers -/

/-- The magnitude of an FP32 code without its sign, in units of 2^−149; the codes from 0x7F80_0000 on go on past MAX in the same way. -/
def mag32 (z : Nat) : Nat := if z < 2 ^ 23 then z else (2 ^ 23 + z % 2 ^ 23) * 2 ^ (z / 2 ^ 23 - 1)
/-- The value of a finite FP32 word in units of 2^−149. -/
def val32 (a : Word) : Int := if a.toNat < 2 ^ 31 then (mag32 a.toNat : Int) else -(mag32 (a.toNat - 2 ^ 31) : Int)
/-- A word that is neither an infinity nor a NaN. -/
def Finite32 (a : Word) : Prop := a.toNat % 2 ^ 31 < 0x7F800000
/-- A NaN, and a signalling one (R9, R12). -/
def Nan32 (a : Word) : Prop := 0x7F800000 < a.toNat % 2 ^ 31
def snan32 (a : Word) : Bool := decide (0x7F800000 < a.toNat % 2 ^ 31) && a.toNat / 2 ^ 22 % 2 == 0
/-- A mode that rounds a magnitude of a sign down (R16). -/
def downward (rm : Rm) (neg : Bool) : Bool := rm == .rtz || (rm == .rup && neg) || (rm == .rdn && !neg)
/-- The code that a magnitude x rounds to (R16), where a code c has the magnitude mag c: of the two codes about x the nearer, at a tie the even one, or the lower or upper one. -/
def Nearest (rm : Rm) (neg : Bool) (mag : Nat → Nat) (x z : Nat) : Prop :=
  if rm = .rne then
    2 * x ≤ mag z + mag (z + 1) ∧ (z = 0 ∨ mag (z - 1) + mag z ≤ 2 * x) ∧
      (z % 2 = 1 → 2 * x ≠ mag z + mag (z + 1) ∧ 2 * x ≠ mag (z - 1) + mag z)
  else if downward rm neg then mag z ≤ x ∧ x < mag (z + 1)
  else x ≤ mag z ∧ (z = 0 ∨ mag (z - 1) < x)
/-- A magnitude p/q that 24 bits without a least exponent round to less than 2^−126 (R17). -/
def tiny32 (rm : Rm) (neg : Bool) (p q : Nat) : Bool :=
  if rm = .rne then p * 2 ^ 151 < (2 ^ 25 - 1) * q else if downward rm neg then p * 2 ^ 126 < q else p * 2 ^ 150 ≤ (2 ^ 24 - 1) * q
/-- The FP32 word and the flags of the exact value ±p/q, not zero, by finish (R17): the code next to it; past MAX an infinity or MAX; a subnormal code flushed under FZ. -/
def Rounds32 (env : Machine.FEnv) (neg : Bool) (p q : Nat) (r : Word × Word) : Prop :=
  ∃ z, Nearest env.rm neg (fun c => mag32 c * q) (p * 2 ^ 149) z ∧
    let s := if neg then 2 ^ 31 else 0
    r = if 0x7F800000 ≤ z then (BitVec.ofNat 32 (s + if env.sat || downward env.rm neg then 0x7F7FFFFF else 0x7F800000), 0x0A)
      else if 0 < z ∧ z < 2 ^ 23 ∧ env.fz then (BitVec.ofNat 32 s, 0x06)
      else (BitVec.ofNat 32 (s + z), if mag32 z * q = p * 2 ^ 149 then 0 else if tiny32 env.rm neg p q then 0x06 else 0x02)
/-- The FP32 word and the flags of a sum whose exact value is v / 2^k; allNeg says that every addend is −0 (R17, R18). -/
def Sum32 (env : Machine.FEnv) (v : Int) (k : Nat) (allNeg : Bool) (r : Word × Word) : Prop :=
  if v = 0 then r = (if allNeg || env.rm == .rdn then 0x80000000 else 0, 0) else Rounds32 env (decide (v < 0)) v.natAbs (2 ^ k) r

/-! ## Program counters (R41, R148) -/

/-- A PC in the 4 GiB window of another: bits 55:32 stay, an address in bits 31:0 wraps. -/
def inWindow (pc : BitVec 56) (x : Int) : BitVec 56 := BitVec.ofNat 56 (pc.toNat / 2 ^ 32 * 2 ^ 32 + (x % 2 ^ 32).toNat)
/-- The target of a branch word: four times the 18-bit offset, or with a wide-immediate HINT its payload above the offset. -/
def target (pc : BitVec 56) (o : BitVec 18) : Option (BitVec 23) → BitVec 56
  | none => inWindow pc (pc.toNat + 4 * o.toInt)
  | some p => inWindow pc (pc.toNat + 4 * (p.toNat * 2 ^ 18 + o.toNat : Nat))
/-- The word of a GSYS function: opcode 0x70 with D, A and F (R65, R80). -/
def gsysWord (d a fn : Nat) : Nat := 0x70 * 2 ^ 25 + d * 2 ^ 18 + a * 2 ^ 11 + fn * 2 ^ 4

end Sys2Proof.Spec

namespace Sys2Proof

open Machine in
/-- The system registers of R164: number, whether only supervisor privilege reads it, and the value of a fragment's read. -/
def Spec.sysRegs (s : State) (id : FragId) (w : Swell) (f : Frag) : List (Nat × Bool × Nat) :=
  [(0x00, false, w.fcause.toNat), (0x01, false, w.frec.toNat), (0x02, false, w.fpc.toNat % 2 ^ 32), (0x03, false, w.fpc.toNat / 2 ^ 32),
   (0x04, false, w.fval.toNat % 2 ^ 32), (0x05, false, w.fval.toNat / 2 ^ 32), (0x06, true, (s.ctx w.ctx).fvec.toNat % 2 ^ 32),
   (0x07, true, (s.ctx w.ctx).fvec.toNat / 2 ^ 32), (0x08, false, w.cont.toNat), (0x09, false, w.region.toNat), (0x0A, false, f.rep.toNat % 2 ^ 32),
   (0x0B, false, f.rep.toNat / 2 ^ 32), (0x0C, false, f.mask.toNat), (0x0D, false, id.ent), (0x0E, false, id.key % 32),
   (0x0F, false, (statusWord w (wakeWord s id.key).1 (wakeWord s id.key).2).toNat), (0x10, false, f.priv.toNat), (0x11, false, w.ctx),
   (0x12, false, (coreCoords (id.key / 32)).toNat), (0x13, false, (s.core (id.key / 32)).bndReg.toNat), (0x14, false, (s.core (id.key / 32)).bndScr.toNat),
   (0x15, false, (s.core (id.key / 32)).bndTop.toNat), (0x16, false, (pendWord w.pend).toNat), (0x17, false, w.pend.tide.toNat % 2 ^ 32),
   (0x18, false, w.pend.tide.toNat / 2 ^ 32), (0x19, false, w.n), (0x1A, false, w.window.toNat)]

end Sys2Proof

namespace Sys2Proof.Machine

/-! ## Which instruction has which result -/

/-- The REG words with a HOLD and a PM field: operands and result of D, A and B (R100, R140). -/
def laneHpOp : Instr → Option (RegHP × (Word → Word → Word → Word))
  | .add o => some (o, Spec.add)
  | .sub o => some (o, Spec.sub)
  | .mul o => some (o, Spec.mul)
  | .mac o => some (o, Spec.mac)
  | .and o => some (o, Spec.and)
  | .or o => some (o, Spec.or)
  | .xor o => some (o, Spec.xor)
  | .andn o => some (o, Spec.andn)
  | .shl o => some (o, Spec.shl)
  | .shr o => some (o, Spec.shr)
  | .sra o => some (o, Spec.sra)
  | .min o => some (o, Spec.min)
  | .max o => some (o, Spec.max)
  | .minn o => some (o, Spec.minn)
  | .maxn o => some (o, Spec.maxn)
  | .sel o => some (o, Spec.sel)
  | .ceq o => some (o, Spec.ceq)
  | .cne o => some (o, Spec.cne)
  | .clt o => some (o, Spec.clt)
  | .cle o => some (o, Spec.cle)
  | .cltn o => some (o, Spec.cltn)
  | .clen o => some (o, Spec.clen)
  | .prmt o => some (o, Spec.prmt)
  | _ => none

/-- The REGF words on lanes (R104, R105). -/
def laneRegOp : Instr → Option (Reg3 × (Word → Word → Word → Word))
  | .mulh o => some (o, Spec.mulh)
  | .mulhn o => some (o, Spec.mulhn)
  | .adds o => some (o, Spec.adds)
  | .subs o => some (o, Spec.subs)
  | .rol o => some (o, Spec.rol)
  | .bfx o => some (o, Spec.bfx)
  | .bfxn o => some (o, Spec.bfxn)
  | .bfi o => some (o, Spec.bfi)
  | .orn o => some (o, Spec.orn)
  | .xnor o => some (o, Spec.xnor)
  | _ => none

/-- The group words of three operands (R95, R100, R104, R105). -/
def groupRegOp : Instr → Option (Reg3 × (Word → Word → Word → Word))
  | .addGroup o => some (o, Spec.add)
  | .subGroup o => some (o, Spec.sub)
  | .mulGroup o => some (o, Spec.mul)
  | .macGroup o => some (o, Spec.mac)
  | .andGroup o => some (o, Spec.and)
  | .orGroup o => some (o, Spec.or)
  | .xorGroup o => some (o, Spec.xor)
  | .andnGroup o => some (o, Spec.andn)
  | .shlGroup o => some (o, Spec.shl)
  | .shrGroup o => some (o, Spec.shr)
  | .sraGroup o => some (o, Spec.sra)
  | .minGroup o => some (o, Spec.min)
  | .maxGroup o => some (o, Spec.max)
  | .minnGroup o => some (o, Spec.minn)
  | .maxnGroup o => some (o, Spec.maxn)
  | .selGroup o => some (o, Spec.sel)
  | .ceqGroup o => some (o, Spec.ceq)
  | .cneGroup o => some (o, Spec.cne)
  | .cltGroup o => some (o, Spec.clt)
  | .cleGroup o => some (o, Spec.cle)
  | .cltnGroup o => some (o, Spec.cltn)
  | .clenGroup o => some (o, Spec.clen)
  | .mulhGroup o => some (o, Spec.mulh)
  | .mulhnGroup o => some (o, Spec.mulhn)
  | .addsGroup o => some (o, Spec.adds)
  | .subsGroup o => some (o, Spec.subs)
  | .rolGroup o => some (o, Spec.rol)
  | .bfxGroup o => some (o, Spec.bfx)
  | .bfxnGroup o => some (o, Spec.bfxn)
  | .bfiGroup o => some (o, Spec.bfi)
  | .ornGroup o => some (o, Spec.orn)
  | .xnorGroup o => some (o, Spec.xnor)
  | _ => none

/-- The words with a quotient and a remainder (R106): lanes, or S registers. -/
def lanePairOp : Instr → Option (Reg3 × (Word → Word → Word × Word))
  | .divs o => some (o, Spec.divs)
  | .divn o => some (o, Spec.divn)
  | _ => none
def groupPairOp : Instr → Option (Reg3 × (Word → Word → Word × Word))
  | .divsGroup o => some (o, Spec.divs)
  | .divnGroup o => some (o, Spec.divn)
  | _ => none

/-- The FUN words on lanes (R108). -/
def laneFunOp : Instr → Option (FunHP × (Word → Word))
  | .mov o => some (o, Spec.mov)
  | .not o => some (o, Spec.not)
  | .neg o => some (o, Spec.neg)
  | .abs o => some (o, Spec.abs)
  | .clz o => some (o, Spec.clz)
  | .ctz o => some (o, Spec.ctz)
  | .popc o => some (o, Spec.popc)
  | .brev o => some (o, Spec.brev)
  | .bswap o => some (o, Spec.bswap)
  | .sextb o => some (o, Spec.sextb)
  | .sexth o => some (o, Spec.sexth)
  | .zextb o => some (o, Spec.zextb)
  | .zexth o => some (o, Spec.zexth)
  | _ => none
/-- The FUN words on S registers. -/
def groupFunOp : Instr → Option (Reg2 × (Word → Word))
  | .movGroup o => some (o, Spec.mov)
  | .notGroup o => some (o, Spec.not)
  | .negGroup o => some (o, Spec.neg)
  | .absGroup o => some (o, Spec.abs)
  | .clzGroup o => some (o, Spec.clz)
  | .ctzGroup o => some (o, Spec.ctz)
  | .popcGroup o => some (o, Spec.popc)
  | .brevGroup o => some (o, Spec.brev)
  | .bswapGroup o => some (o, Spec.bswap)
  | .sextbGroup o => some (o, Spec.sextb)
  | .sexthGroup o => some (o, Spec.sexth)
  | .zextbGroup o => some (o, Spec.zextb)
  | .zexthGroup o => some (o, Spec.zexth)
  | _ => none

/-- The IMM and CMPI words on lanes (R109, R112): D, A, PM, the immediate under a wide-immediate HINT, and the result. -/
def laneImmOp : Instr → Option (Reg × Reg × Pm × (Option (BitVec 23) → Word) × (Word → Word → Word → Word))
  | .addi o => some (o.d, o.a, o.pm, Spec.imm9 o.imm, Spec.add)
  | .andi o => some (o.d, o.a, o.pm, Spec.imm9 o.imm, Spec.and)
  | .ori o => some (o.d, o.a, o.pm, Spec.imm9 o.imm, Spec.or)
  | .xori o => some (o.d, o.a, o.pm, Spec.imm9 o.imm, Spec.xor)
  | .cmpiEq o => some (o.d, o.a, o.pm, Spec.cmpS o.imm, Spec.ceq)
  | .cmpiNe o => some (o.d, o.a, o.pm, Spec.cmpS o.imm, Spec.cne)
  | .cmpiLt o => some (o.d, o.a, o.pm, Spec.cmpS o.imm, Spec.clt)
  | .cmpiLe o => some (o.d, o.a, o.pm, Spec.cmpS o.imm, Spec.cle)
  | .cmpiLtn o => some (o.d, o.a, o.pm, Spec.cmpN o.imm, Spec.cltn)
  | .cmpiLen o => some (o.d, o.a, o.pm, Spec.cmpN o.imm, Spec.clen)
  | _ => none
/-- The IMM and CMPI words on S registers. -/
def groupImmOp : Instr → Option (Reg × Reg × (Option (BitVec 23) → Word) × (Word → Word → Word → Word))
  | .addiGroup o => some (o.d, o.a, Spec.imm9 o.imm, Spec.add)
  | .andiGroup o => some (o.d, o.a, Spec.imm9 o.imm, Spec.and)
  | .oriGroup o => some (o.d, o.a, Spec.imm9 o.imm, Spec.or)
  | .xoriGroup o => some (o.d, o.a, Spec.imm9 o.imm, Spec.xor)
  | .cmpiEqGroup o => some (o.d, o.a, Spec.cmpS o.imm, Spec.ceq)
  | .cmpiNeGroup o => some (o.d, o.a, Spec.cmpS o.imm, Spec.cne)
  | .cmpiLtGroup o => some (o.d, o.a, Spec.cmpS o.imm, Spec.clt)
  | .cmpiLeGroup o => some (o.d, o.a, Spec.cmpS o.imm, Spec.cle)
  | .cmpiLtnGroup o => some (o.d, o.a, Spec.cmpN o.imm, Spec.cltn)
  | .cmpiLenGroup o => some (o.d, o.a, Spec.cmpN o.imm, Spec.clen)
  | _ => none

/-- The SHI words on lanes (R110). -/
def laneShiftOp : Instr → Option (ShiftPM × (Word → Word → Word → Word))
  | .shli o => some (o, Spec.shl)
  | .shri o => some (o, Spec.shr)
  | .srai o => some (o, Spec.sra)
  | .roli o => some (o, Spec.rol)
  | _ => none
/-- The SHI words on S registers. -/
def groupShiftOp : Instr → Option (ShiftG × (Word → Word → Word → Word))
  | .shliGroup o => some (o, Spec.shl)
  | .shriGroup o => some (o, Spec.shr)
  | .sraiGroup o => some (o, Spec.sra)
  | .roliGroup o => some (o, Spec.rol)
  | _ => none

/-- The floating-point words of three operands on lanes with a HOLD field (R119, R121): the result and its flags under a rounding environment. -/
def laneFloatOp : Instr → Option (RegHP × (FEnv → Word → Word → Word → Word × Word))
  | .fadd o => some (o, fun e _ a b => fadd e a b)
  | .fsub o => some (o, fun e _ a b => fsub e a b)
  | .fmul o => some (o, fun e _ a b => fmul e a b)
  | .ffma o => some (o, fun e d a b => ffma e d a b)
  | .fmin o => some (o, fun _ _ a b => fmin a b)
  | .fmax o => some (o, fun _ _ a b => fmax a b)
  | .fdiv o => some (o, fun e _ a b => fdiv e a b)
  | _ => none
/-- FCMP and H2 on lanes (R122, R133): the first argument is HF of FMT. -/
def laneFloatRegOp : Instr → Option (Reg3 × (Bool → FEnv → Word → Word → Word → Word × Word))
  | .fcmpEq o => some (o, fun _ _ _ a b => fcmp .eq a b)
  | .fcmpNe o => some (o, fun _ _ _ a b => fcmp .ne a b)
  | .fcmpLt o => some (o, fun _ _ _ a b => fcmp .lt a b)
  | .fcmpLe o => some (o, fun _ _ _ a b => fcmp .le a b)
  | .fcmpGt o => some (o, fun _ _ _ a b => fcmp .gt a b)
  | .fcmpGe o => some (o, fun _ _ _ a b => fcmp .ge a b)
  | .fcmpUo o => some (o, fun _ _ _ a b => fcmp .uo a b)
  | .fcmpOr o => some (o, fun _ _ _ a b => fcmp .or a b)
  | .h2add o => some (o, fun h e _ a b => h2add h e a b)
  | .h2sub o => some (o, fun h e _ a b => h2sub h e a b)
  | .h2mul o => some (o, fun h e _ a b => h2mul h e a b)
  | .h2fma o => some (o, fun h e d a b => h2fma h e d a b)
  | .h2min o => some (o, fun h _ _ a b => h2min h a b)
  | .h2max o => some (o, fun h _ _ a b => h2max h a b)
  | _ => none
/-- The floating-point words of three operands on S registers. -/
def groupFloatOp : Instr → Option (Reg3 × (FEnv → Word → Word → Word → Word × Word))
  | .faddGroup o => some (o, fun e _ a b => fadd e a b)
  | .fsubGroup o => some (o, fun e _ a b => fsub e a b)
  | .fmulGroup o => some (o, fun e _ a b => fmul e a b)
  | .ffmaGroup o => some (o, fun e d a b => ffma e d a b)
  | .fminGroup o => some (o, fun _ _ a b => fmin a b)
  | .fmaxGroup o => some (o, fun _ _ a b => fmax a b)
  | .fdivGroup o => some (o, fun e _ a b => fdiv e a b)
  | .fcmpEqGroup o => some (o, fun _ _ a b => fcmp .eq a b)
  | .fcmpNeGroup o => some (o, fun _ _ a b => fcmp .ne a b)
  | .fcmpLtGroup o => some (o, fun _ _ a b => fcmp .lt a b)
  | .fcmpLeGroup o => some (o, fun _ _ a b => fcmp .le a b)
  | .fcmpGtGroup o => some (o, fun _ _ a b => fcmp .gt a b)
  | .fcmpGeGroup o => some (o, fun _ _ a b => fcmp .ge a b)
  | .fcmpUoGroup o => some (o, fun _ _ a b => fcmp .uo a b)
  | .fcmpOrGroup o => some (o, fun _ _ a b => fcmp .or a b)
  | _ => none
/-- The floating-point words of one operand and CVT on lanes (R124 to R130): D is given too, for FCPS. -/
def laneFloatFunOp : Instr → Option (FunHP × (FEnv → Word → Word → Word × Word))
  | .fabs o => some (o, fun _ _ a => (fabs a, 0))
  | .fneg o => some (o, fun _ _ a => (fneg a, 0))
  | .fcps o => some (o, fun _ d a => (fcps d a, 0))
  | .frcp o => some (o, fun e _ a => frcp e a)
  | .frsq o => some (o, fun e _ a => frsq e a)
  | .fsqrt o => some (o, fun e _ a => fsqrt e a)
  | .fexp2 o => some (o, fun e _ a => fexp2 e a)
  | .flog2 o => some (o, fun e _ a => flog2 e a)
  | .frndn o => some (o, fun _ _ a => frnd .rne a)
  | .frndz o => some (o, fun _ _ a => frnd .rtz a)
  | .frndp o => some (o, fun _ _ a => frnd .rup a)
  | .frndm o => some (o, fun _ _ a => frnd .rdn a)
  | .fclass o => some (o, fun _ _ a => (fclass a, 0))
  | .cvt o => some (⟨o.d, o.a, o.hold, o.pm⟩, fun e _ a => cvt o.src o.dst e a)
  | _ => none
/-- The same on S registers. -/
def groupFloatFunOp : Instr → Option (Reg2 × (FEnv → Word → Word → Word × Word))
  | .fabsGroup o => some (o, fun _ _ a => (fabs a, 0))
  | .fnegGroup o => some (o, fun _ _ a => (fneg a, 0))
  | .fcpsGroup o => some (o, fun _ d a => (fcps d a, 0))
  | .frcpGroup o => some (o, fun e _ a => frcp e a)
  | .frsqGroup o => some (o, fun e _ a => frsq e a)
  | .fsqrtGroup o => some (o, fun e _ a => fsqrt e a)
  | .fexp2Group o => some (o, fun e _ a => fexp2 e a)
  | .flog2Group o => some (o, fun e _ a => flog2 e a)
  | .frndnGroup o => some (o, fun _ _ a => frnd .rne a)
  | .frndzGroup o => some (o, fun _ _ a => frnd .rtz a)
  | .frndpGroup o => some (o, fun _ _ a => frnd .rup a)
  | .frndmGroup o => some (o, fun _ _ a => frnd .rdn a)
  | .fclassGroup o => some (o, fun _ _ a => (fclass a, 0))
  | .cvtGroup o => some (⟨o.d, o.a⟩, fun e _ a => cvt o.src o.dst e a)
  | _ => none

/-! ## Issuing and performing -/

/-- The fragment that issues is live and runs. -/
structure Runs (s : State) (w : Swell) (f : Frag) : Prop where
  frag : s.fragAt s.cur = some (w, f)
  running : f.st = 0 ∨ f.st = 5

/-- The word is executed normally as far as its unit and its register numbers go: every HINT of the unit is accepted (R74) and every V register named is below the declared count (R66). -/
structure Ready (s : State) (w : Swell) (f : Frag) (fm : Form) (regs : List Nat) : Prop extends Runs s w f where
  hints : ∀ h ∈ f.hints.words, fm.accepts h = true
  range : ∀ r ∈ regs, r < w.n

/-- An instruction answers a next state with a property. -/
def Answers (i : Instr) (s : State) (P : State → Prop) : Prop := ∃ t, exec i s = .next t ∧ P t

/-- What no register word changes: every byte of memory and of every scratch, every core but for its operand latch, every other swell, and every other field of the machine. -/
structure SameOutside (s t : State) (id : FragId) : Prop where
  mem : ∀ a, byteAt t.mem a = byteAt s.mem a
  scratch : ∀ c a, byteAt (t.core c).scratch a = byteAt (s.core c).scratch a
  cores : ∀ c, t.core c = { s.core c with latch := (t.core c).latch }
  swells : ∀ k, k ≠ id.key → kvGet t.swells k = kvGet s.swells k
  rest : t = { s with swells := t.swells, cores := t.cores }

/-- A word has been performed: the swell is w' with f' as the entry of the fragment, everything outside is the same. -/
structure Performed (s t : State) (w' : Swell) (f' : Frag) : Prop where
  outside : SameOutside s t s.cur
  swell : t.swellAt s.cur.swell = some (w'.setEnt s.cur.ent f')

/-- The fragment's entry once its unit has issued and the next word in address order follows. -/
def Frag.onward (f : Frag) (now : Nat) : Frag := f.afterUnit now (nextPc f.pc)

/-- A precise fault has been taken (R58): FCAUSE, FVAL, FPC and FREC are written, the fragment runs at FVEC, in the tick of a write of FVEC at its value before, in supervisor privilege with STATE 5, and registers, FMT, mask, held sections, other fragments and everything outside are as they were. -/
structure HandlerEntered (s t : State) (w : Swell) (f : Frag) (cause fval : Nat) : Prop where
  outside : SameOutside s t s.cur
  swell : ∃ u, t.swellAt s.cur.swell = some u ∧
    u.fcause = BitVec.ofNat 32 cause ∧ u.fval = BitVec.ofNat 64 fval ∧ u.fpc = BitVec.ofNat 64 (f.hints.first.getD f.pc).toNat ∧ u.frec = f.region ∧
    u.busy = true ∧ u.busyEnt = BitVec.ofNat 3 s.cur.ent ∧
    (u.ent s.cur.ent).st = 5 ∧ (u.ent s.cur.ent).priv = 1 ∧ (u.ent s.cur.ent).hints = ⟨none, []⟩ ∧
    (u.ent s.cur.ent).pc = BitVec.ofNat 56 (((s.ctx w.ctx).fvecNow s.now).toNat / 4 * 4) ∧
    (u.ent s.cur.ent).mask = f.mask ∧ (u.ent s.cur.ent).fmt = f.fmt ∧ (u.ent s.cur.ent).recon = f.recon ∧ (u.ent s.cur.ent).part = f.part ∧
    (u.ent s.cur.ent).region = f.region ∧ (u.ent s.cur.ent).held0 = f.held0 ∧ (u.ent s.cur.ent).held1 = f.held1 ∧
    (∀ e, e ≠ s.cur.ent → u.ent e = w.ent e) ∧
    u = { w with fcause := u.fcause, fval := u.fval, fpc := u.fpc, frec := u.frec, busy := true, busyEnt := u.busyEnt, ents := u.ents }

/-! ## Memory accesses -/

/-- Nothing of the memory system is under way outside the L1s: no message, error, miss, held request, copy on another die, watch, waiter or engine command. -/
structure Quiet (s : State) : Prop where
  msgs : s.msgs = []
  sectors : s.badSectors = []
  words : ∀ x ∈ s.cores, x.2.badWords = []
  waiters : ∀ x ∈ s.clusters, x.2.waiters = []
  engines : ∀ x ∈ s.clusters, ∀ e ∈ x.2.engines.toList, e.cmds = []
  copies : ∀ x ∈ s.dies, x.2.partition = [] ∧ x.2.dir = [] ∧ x.2.ros = []
  waits : ∀ x ∈ s.dies, x.2.watches = [] ∧ x.2.armQueue = []
  links : ∀ x ∈ s.dies, ∀ l ∈ x.2.links, l.spilled = [] ∧ l.blocked = []
  slices : ∀ x ∈ s.dies, x.2.misses = [] ∧ x.2.missWait = [] ∧ x.2.waiting = []
  failed : ∀ x ∈ s.dies, x.2.shelfFailed = false ∧ x.2.hbmFailed = false
  channels : ∀ x ∈ s.dies, x.2.hbmCopyEnd ≤ s.now
  flights : ∀ x ∈ s.due, ∀ k, x.2 ≠ .homeWrite k ∧ x.2 ≠ .timedLaneArrival k

/-- No core holds a line in its L1. -/
def NoLines (s : State) : Prop := ∀ x ∈ s.cores, x.2.l1 = []

/-- The accesses of a lane form of LD or ST: each active lane with its address (R194). -/
def memLanes (w : Swell) (f : Frag) (o : MemOp) : List LaneAcc :=
  (lanesOf (lanesActive w f f.pmx)).map fun l => ⟨l.val, w.vpair o.a l + memOffset o.off (sizeBytes o.sz) f.hints.wide, sizeBytes o.sz⟩
/-- The access of a group form (R204). -/
def memGroup (w : Swell) (f : Frag) (o : MemOp) : List LaneAcc :=
  [⟨0, w.spair o.a + memOffset o.off (sizeBytes o.sz) f.hints.wide, sizeBytes o.sz⟩]
/-- The accesses of a form whose A is a V pair of word addresses (R205, R210). -/
def wordLanes (w : Swell) (f : Frag) (a : Reg) : List LaneAcc :=
  (lanesOf (lanesActive w f f.pmx)).map fun l => ⟨l.val, w.vpair a l, 4⟩

/-- Every access passes the checks of R195 and R196, and these are the places. -/
def Placed (s : State) (w : Swell) (f : Frag) (k : AccKind) (as : List LaneAcc) (ls : List LaneLoc) : Prop :=
  lanePlaces s (coreOfKey s.cur.key) w.ctx (f.priv != 0) k f as = .ok ls

/-- A place of n bytes in HBM4E within one line. -/
structure HbmPlace (n : Nat) (l : LaneLoc) : Prop where
  host : l.loc.host = false
  home : l.loc.die = paDie l.loc.pa
  shelf : inShelf l.loc.pa = false
  line : l.loc.pa % 256 + n ≤ 256

/-- A place on the die of the fragment that issues which its L1 neither has nor takes in: a page at the memory side, a policy that allocates nothing, or no L1 (R76, R182, R183). -/
structure Direct (s : State) (f : Frag) (n : Nat) (l : LaneLoc) : Prop extends HbmPlace n l where
  own : l.loc.die = dieOfKey s.cur.key
  past : l.loc.ms = true ∨ f.cp = .memorySide ∨ f.cp = .noAllocate ∨ l1Sets (s.core (coreOfKey s.cur.key)) = 0

/-- A place on the die of the fragment that issues. -/
structure Local (s : State) (n : Nat) (l : LaneLoc) : Prop extends HbmPlace n l where
  own : l.loc.die = dieOfKey s.cur.key

/-- A place on another die that no copy serves. -/
structure Remote (s : State) (n : Nat) (l : LaneLoc) : Prop extends HbmPlace n l where
  other : l.loc.die ≠ dieOfKey s.cur.key

/-- What a memory access may change: memory, its swell, messages and events, translations and lines that cores keep, lines, requests and counts of slices, and meters. Scratch, tags, other swells, contexts, launches and the rest stay. -/
structure Accessed (s t : State) (id : FragId) : Prop where
  cores : ∀ c, t.core c = { s.core c with latch := (t.core c).latch, tlb := (t.core c).tlb, l1 := (t.core c).l1 }
  swells : ∀ k, k ≠ id.key → kvGet t.swells k = kvGet s.swells k
  dies : ∀ d, t.die d = { s.die d with misses := (t.die d).misses, missWait := (t.die d).missWait, waiting := (t.die d).waiting, slices := (t.die d).slices, corrected := (t.die d).corrected }
  rest : t = { s with mem := t.mem, swells := t.swells, cores := t.cores, dies := t.dies, meters := t.meters, msgs := t.msgs, due := t.due, nextMsg := t.nextMsg, softSectors := t.softSectors, freeCtr := t.freeCtr }

/-- The registers, SCFG, PRI, fault record and other entries of a swell stay. -/
structure SwellKept (w u : Swell) (e : Nat) : Prop where
  regs : u = { w with ents := u.ents, nextOp := u.nextOp, region := u.region }
  others : ∀ i, i ≠ e → u.ent i = w.ent i

/-- The bytes after stores, one after another: place and bytes. -/
def Spec.stored (old : Nat → Byte) : List (Nat × List Byte) → Nat → Byte
  | [], a => old a
  | (pa, bs) :: rest, a => Spec.stored (fun a => if pa ≤ a ∧ a < pa + bs.length then bs.getD (a - pa) 0 else old a) rest a

/-- The data words of a lane of a store. -/
def Spec.laneWords (w : Swell) (o : MemOp) (l : Nat) : List Word :=
  (List.range (sizeRegs o.sz)).map fun i => (w.vreg (o.d + BitVec.ofNat 7 i))[l % 32]'(Nat.mod_lt _ (by decide))

/-- The operations of R206 and R207: the old value, the operand, CAS's second operand; what is written, if anything. -/
def Spec.atom : List AtomFn := [
  fun old a _ => some (old + a), fun old a _ => some (old &&& a), fun old a _ => some (old ||| a), fun old a _ => some (old ^^^ a),
  fun old a _ => some (if a.toInt < old.toInt then a else old), fun old a _ => some (if old.toInt < a.toInt then a else old),
  fun old a _ => some (if a.toNat < old.toNat then a else old), fun old a _ => some (if old.toNat < a.toNat then a else old),
  fun _ a _ => some a, fun old a b => if old = a then some b else none,
  fun old a _ => some (fadd ⟨.rne, false, false⟩ old a).1, fun old a _ => some (fmin old a).1, fun old a _ => some (fmax old a).1,
  fun old a _ => some (if a.toNat ≤ old.toNat then 0 else old + 1)]

/-- The lanes of an atomic one after another, each on the word that the one before left: lane and old value, and memory afterwards (R206, R208). -/
def Spec.atomRun (g : AtomFn) (operand : Nat → Word × Word) : Bytes → List LaneLoc → List (Nat × Word) × Bytes
  | m, [] => ([], m)
  | m, l :: ls =>
    let old := wordOfList (readBytes m l.loc.pa 4)
    let m' := match g old (operand l.lane).1 (operand l.lane).2 with | some x => writeBytes m l.loc.pa (wordBytes x) | none => m
    ((l.lane, old) :: (Spec.atomRun g operand m' ls).1, (Spec.atomRun g operand m' ls).2)

/-- The fragment's entry with one outstanding instruction and the next word to come. -/
def Frag.sent (f : Frag) (now : Nat) (x : Outst) : Frag := { f.onward now with outst := [x] }

/-- What is known of a fresh outstanding instruction of the unit (R70). -/
structure Fresh (w : Swell) (f : Frag) (x : Outst) (k : OutKind) (la : Nat) : Prop where
  id : x.id = w.nextOp
  kind : x.kind = k
  unit : x.unit = f.unitPc
  pc : x.pc = f.pc
  window : x.window = la
  fail : x.fail = none

/-- A scratch access of n bytes passes R222: aligned, within the cluster's space, on an enabled core of a bay of the context, in its scratch part, and for a write below the wake words. -/
structure InScratch (s : State) (w : Swell) (sa : Word) (n al : Nat) (writes : Bool) : Prop where
  align : sa.toNat % al = 0
  space : sa.toNat < 2 ^ 25
  enabled : coreEnabled s (scratchCore (coreOfKey s.cur.key) sa) = true
  bay : coreOfCtx s w.ctx (scratchCore (coreOfKey s.cur.key) sa) = true
  part : scratchOff sa + n + (if writes then 128 else 0) ≤ scratchPart (s.core (scratchCore (coreOfKey s.cur.key) sa))

/-- What a scratch word may change: its swell, scratch bytes and tags, the L1s and latches, and waiters. -/
structure Scratched (s t : State) (id : FragId) : Prop where
  mem : ∀ a, byteAt t.mem a = byteAt s.mem a
  cores : ∀ c, t.core c = { s.core c with latch := (t.core c).latch, scratch := (t.core c).scratch, full := (t.core c).full }
  swells : ∀ k, k ≠ id.key → kvGet t.swells k = kvGet s.swells k
  rest : t = { s with swells := t.swells, cores := t.cores, clusters := t.clusters }

/-! ## Events -/

/-- An outstanding instruction of a resident swell is the only one of its fragment; it has not failed, and the fragment does not wait for it. -/
structure Alone (s : State) (sw : SwellId) (op : Nat) (w : Swell) (e : Nat) (x : Outst) : Prop where
  found : s.opAt sw op = some (w, e, x)
  only : (w.ent e).outst = [x]
  ready : (w.ent e).wait = none
  fine : x.fail = none

/-- A swell when nothing of a fragment is outstanding any more. -/
def Swell.over (w : Swell) (e : Nat) : Swell := w.setEnt e { w.ent e with outst := [] }

/-- Every byte of memory reads as before. -/
def SameBytes (s t : State) : Prop := ∀ a, byteAt t.mem a = byteAt s.mem a

/-- An event is due at some tick. -/
def Comes (t : State) (e : Internal) : Prop := ∃ n, (n, e) ∈ t.due

/-- No die keeps a copy of another die's lines, and no sector is bad: a write at the home changes exactly its bytes. -/
structure Plain (s : State) : Prop where
  sectors : s.badSectors = []
  copies : ∀ x ∈ s.dies, x.2.partition = [] ∧ x.2.dir = [] ∧ x.2.ros = []
  channels : ∀ x ∈ s.dies, x.2.hbmCopyEnd ≤ s.now

/-- An engine of a cluster has one command, which it has not passed on and which waits for no page. -/
structure OnlyCmd (s : State) (cl e : Nat) (m : EngCmd) : Prop where
  engine : e < 5
  cmds : (s.engine cl e).cmds = [m]
  own : m.handed = false ∧ m.stall = none
  puts : s.pkg.puts = []

/-- The state without the requests under way and those at a die. -/
def sansRequests (s : State) (d : Nat) : State := { s with msgs := [] }.updDie d fun k => { k with misses := [], missWait := [], waiting := [] }

/-- STATE and REASON of a ticket as EQRY reads them (R249). -/
def TicketIs (t : State) (cl e ctx : Nat) (seq : BitVec 24) (status : Nat) : Prop := (ticketStatus t cl ctx (ticketWord seq e)).toNat % 256 = status

/-- The home of a key has no request at its ingress, and every entry lies in the table (R297, R314). -/
structure Settled (s : State) (d : Nat) : Prop where
  ingress : (s.die d).sluice.ingress = []
  table : ∀ x ∈ (s.die d).sluice.ents, x.inTable = true

/-- The entry of a key, or the one that the first request of the key makes (R303). -/
def EntryOf (s : State) (d ctx : Nat) (k : Addr) (e : SluiceEnt) : Prop :=
  sluiceFind s d ctx k = some e ∨ (sluiceFind s d ctx k = none ∧ (setEnts s d (keySet ctx k)).length < 8 ∧ e = SluiceEnt.fresh s d ctx k)

/-- The entry of a key has these NEXT, TAKE and HELD. -/
def EntryIs (t : State) (d ctx : Nat) (k : Addr) (next take : Word) (held : Bool) : Prop :=
  ∃ u, sluiceFind t d ctx k = some u ∧ u.next = next ∧ u.take = take ∧ u.held = held

/-- A fragment whose only outstanding instruction is x, an ENTER or another wait on which it is blocked. -/
structure Blocked (s : State) (fr : FragId) (w : Swell) (x : Outst) : Prop where
  here : anySwell s fr.uid = some (some fr.key, w)
  found : s.opAt fr.swell x.id = some (w, fr.ent, x)
  only : (w.ent fr.ent).outst = [x]
  live : (w.ent fr.ent).live = true
  waits : (w.ent fr.ent).wait = some (.op x.id)
  fine : x.fail = none
  idle : w.busy = false

/-- The words still to issue in this tick (R40, R167, R170): at most two beside the one at hand, of fragments of one core, in the order of their split-table entries. -/
structure TurnLegal (s : State) : Prop where
  few : s.turn.picked.length ≤ 2
  own : ∀ id ∈ s.turn.picked, coreOfKey id.key = s.turn.core
  order : s.turn.picked.Pairwise fun a b => a.ent ≤ b.ent

end Sys2Proof.Machine
end

