-- ==== Sys2Proof/Certificates/Slice0/Obligations.lean ====
section
/-! DEFINITION. The statements about this model, for the provers. Each cites the rules of the spec that it formalises or rests on. -/

open Sys2Proof Sys2Proof.Machine

/-- Words written out in the spec decode to the instructions they stand for. (R65, R82, R100, R111, R334, R337, R372, R400, R429) -/
def Obligations.SpecWordsDecode : Prop :=
  decode 0x00102862#32 = .ok (.add ⟨4, 5, 6, .none, .s2⟩) ∧
  decode 0xBA508D14#32 = .ok (.moviGroup ⟨20, 0x2345⟩) ∧
  decode 0xFE000001#32 = .ok (.hintWideImmediate 1) ∧
  decode 0xE8000050#32 = .ok (.fenceRel .cluster) ∧
  decode 0xF2991000#32 = .ok (.launch ⟨38, 34, 0⟩) ∧
  decode 0xF260A010#32 = .ok (.lqry ⟨24, 20, 0⟩) ∧
  decode 0x760C1020#32 = .ok (.rshade ⟨3, 2, 0⟩) ∧
  decode 0x74201042#32 = .ok (.tex ⟨8, 2, 4, 2⟩) ∧
  decode 0xEC60A060#32 = .ok (.cstat ⟨24, 20, 0⟩) ∧
  decode 0xE0A00110#32 = .ok (.time 40) ∧
  decode 0xE000A120#32 = .ok (.twait 20)

/-- Decoding the word of any legal instruction gives it back. (R65, R79, R80, R81, R82, R83, R84, R85, R86, 03_instruction_word.md) -/
def Obligations.DecodeOfEncode : Prop :=
  ∀ i : Instr, i.isWord = true → i.wf = true → decode (encode i) = .ok i

/-- A word that decodes is the word of the instruction it decodes to. (R65, R79, R86, 03_instruction_word.md) -/
def Obligations.EncodeOfDecode : Prop :=
  ∀ (x : Word) (i : Instr), decode x = .ok i → i.isWord = true ∧ i.wf = true ∧ encode i = x

/-- A word with a reserved opcode or a HINT of kind 0b11 is no instruction. (R86, R79, 03_instruction_word.md) -/
def Obligations.ReservedOpcodesAreRefused : Prop :=
  ∀ x : Word, (x.toNat / 2 ^ 25 = 0x3E ∨ x.toNat / 2 ^ 25 = 0x3F ∨ x.toNat / 2 ^ 25 = 0x7A ∨ x.toNat / 2 ^ 25 = 0x7C ∨ x.toNat / 2 ^ 25 = 0x7D
      ∨ x.toNat / 2 ^ 25 = 0x7E ∨ x.toNat / 2 ^ 23 = 0x1FF) → ∃ r, decode x = .error r

/-- A lane-scope write changes the lanes of the mask only; S0 reads as zero and discards writes. (R38, R5, R32, 02_swell.md) -/
def Obligations.RegisterWritesKeepTheRest : Prop :=
  ∀ (w : Swell) (f : Frag) (m : Word) (r q : Reg) (x : Row) (l : Fin 32),
    ((w.setV m r x).vreg q)[l] = (if q = r ∧ m.getLsbD l.val then x[l] else (w.vreg q)[l]) ∧ (w.setV m r x).sreg q = w.sreg q ∧
    (lanesActive w f .all).getLsbD l.val = f.mask.getLsbD l.val ∧
    (lanesActive w f .s1).getLsbD l.val = (f.mask.getLsbD l.val && (w.sreg 1).getLsbD l.val) ∧
    (lanesActive w f .s2).getLsbD l.val = (f.mask.getLsbD l.val && (w.sreg 2).getLsbD l.val) ∧
    (lanesActive w f .s3).getLsbD l.val = (f.mask.getLsbD l.val && (w.sreg 3).getLsbD l.val) ∧
    (∀ y : Word, w.sreg 0 = 0 ∧ w.setS 0 y = w ∧ (r ≠ 0 → (w.setS r y).sreg r = y) ∧ (q ≠ r → (w.setS r y).sreg q = w.sreg q) ∧ (w.setS r y).vreg q = w.vreg q)

/-- ADD to CLEN, PRMT and MULH to XNOR write their result in every active lane and nothing else. (R100, R101, R104, R105, R140, R38, R76, R93) -/
def Obligations.IntegerWordsCompute : Prop :=
  (∀ (i : Instr) (o : RegHP) (g : Word → Word → Word → Word) (s : State) (w : Swell) (f : Frag), laneHpOp i = some (o, g) →
    Ready s w f (hpForm false o) [o.d.toNat, o.a.toNat, o.b.toNat] →
    Answers i s fun t => Performed s t (w.setV (lanesActive w f o.pm) o.d (rowOf fun l => g (w.vreg o.d)[l] (w.vreg o.a)[l] (w.vreg o.b)[l])) (f.onward s.now)) ∧
  (∀ (i : Instr) (o : Reg3) (g : Word → Word → Word → Word) (s : State) (w : Swell) (f : Frag), laneRegOp i = some (o, g) →
    Ready s w f { pmx := true, writes := [o.d] } [o.d.toNat, o.a.toNat, o.b.toNat] →
    Answers i s fun t => Performed s t (w.setV (lanesActive w f f.pmx) o.d (rowOf fun l => g (w.vreg o.d)[l] (w.vreg o.a)[l] (w.vreg o.b)[l])) (f.onward s.now))

/-- The group mirrors of the integer words compute once on S registers. (R95, R100, R101, R104, R105, R32) -/
def Obligations.GroupIntegerWordsCompute : Prop :=
  ∀ (i : Instr) (o : Reg3) (g : Word → Word → Word → Word) (s : State) (w : Swell) (f : Frag), groupRegOp i = some (o, g) → Ready s w f {} [] →
    Answers i s fun t => Performed s t (w.setS o.d (g (w.sreg o.d) (w.sreg o.a) (w.sreg o.b))) (f.onward s.now)

/-- DIVS and DIVN write quotient and remainder to the pair, with the corners of the rule. (R106, R95) -/
def Obligations.DivisionWritesQuotientAndRemainder : Prop :=
  (∀ (i : Instr) (o : Reg3) (g : Word → Word → Word × Word) (s : State) (w : Swell) (f : Frag), lanePairOp i = some (o, g) →
    Ready s w f { pmx := true, writes := [o.d, o.d + 1] } [o.d.toNat + 1, o.a.toNat, o.b.toNat] →
    Answers i s fun t => Performed s t ((w.setV (lanesActive w f f.pmx) o.d (rowOf fun l => (g (w.vreg o.a)[l] (w.vreg o.b)[l]).1)).setV
      (lanesActive w f f.pmx) (o.d + 1) (rowOf fun l => (g (w.vreg o.a)[l] (w.vreg o.b)[l]).2)) (f.onward s.now)) ∧
  (∀ (i : Instr) (o : Reg3) (g : Word → Word → Word × Word) (s : State) (w : Swell) (f : Frag), groupPairOp i = some (o, g) → Ready s w f {} [] →
    Answers i s fun t => Performed s t ((w.setS o.d (g (w.sreg o.a) (w.sreg o.b)).1).setS (o.d + 1) (g (w.sreg o.a) (w.sreg o.b)).2) (f.onward s.now)) ∧
  Spec.divs 0x80000000 0xFFFFFFFF = (0x80000000, 0)

/-- MOV to ZEXTH and their group mirrors compute the results of the rule. (R108, R38) -/
def Obligations.OneOperandIntegerWordsCompute : Prop :=
  (∀ (i : Instr) (o : FunHP) (g : Word → Word) (s : State) (w : Swell) (f : Frag), laneFunOp i = some (o, g) →
    Ready s w f (funForm false o) [o.d.toNat, o.a.toNat] →
    Answers i s fun t => Performed s t (w.setV (lanesActive w f o.pm) o.d (rowOf fun l => g (w.vreg o.a)[l])) (f.onward s.now)) ∧
  (∀ (i : Instr) (o : Reg2) (g : Word → Word) (s : State) (w : Swell) (f : Frag), groupFunOp i = some (o, g) → Ready s w f {} [] →
    Answers i s fun t => Performed s t (w.setS o.d (g (w.sreg o.a))) (f.onward s.now))

/-- ADDI to XORI, CMPI, the immediate shifts and MOVI compute with their immediate; payload bits 22:16 of MOVI take ILLEGAL. (R109, R110, R111, R112, R74, R75, R83) -/
def Obligations.ImmediateWordsCompute : Prop :=
  (∀ (i : Instr) (d a : Reg) (pm : Pm) (k : Option (BitVec 23) → Word) (g : Word → Word → Word → Word) (s : State) (w : Swell) (f : Frag),
    laneImmOp i = some (d, a, pm, k, g) → Ready s w f { wide := true, writes := [d] } [d.toNat, a.toNat] →
    Answers i s fun t => Performed s t (w.setV (lanesActive w f pm) d (rowOf fun l => g (w.vreg d)[l] (w.vreg a)[l] (k f.hints.wide))) (f.onward s.now)) ∧
  (∀ (i : Instr) (d a : Reg) (k : Option (BitVec 23) → Word) (g : Word → Word → Word → Word) (s : State) (w : Swell) (f : Frag),
    groupImmOp i = some (d, a, k, g) → Ready s w f { wide := true } [] →
    Answers i s fun t => Performed s t (w.setS d (g (w.sreg d) (w.sreg a) (k f.hints.wide))) (f.onward s.now)) ∧
  (∀ (i : Instr) (o : ShiftPM) (g : Word → Word → Word → Word) (s : State) (w : Swell) (f : Frag), laneShiftOp i = some (o, g) →
    Ready s w f { writes := [o.d] } [o.d.toNat, o.a.toNat] →
    Answers i s fun t => Performed s t (w.setV (lanesActive w f o.pm) o.d (rowOf fun l => g 0 (w.vreg o.a)[l] (BitVec.ofNat 32 o.amount.toNat))) (f.onward s.now)) ∧
  (∀ (i : Instr) (o : ShiftG) (g : Word → Word → Word → Word) (s : State) (w : Swell) (f : Frag), groupShiftOp i = some (o, g) → Ready s w f {} [] →
    Answers i s fun t => Performed s t (w.setS o.d (g 0 (w.sreg o.a) (BitVec.ofNat 32 o.amount.toNat))) (f.onward s.now)) ∧
  (∀ p : BitVec 23, Form.accepts {} (.wide p) = false) ∧
  (∀ (s : State) (w : Swell) (f : Frag),
    (∀ o : MoviPM, Ready s w f { wide := true, writes := [o.d] } [o.d.toNat] → (∀ p, f.hints.wide = some p → p.toNat < 2 ^ 16) →
      Answers (.movi o) s fun t => Performed s t (w.setV (lanesActive w f o.pm) o.d (rowOf fun _ => Spec.imm16 o.imm f.hints.wide)) (f.onward s.now)) ∧
    (∀ o : MoviG, Ready s w f { wide := true } [] → (∀ p, f.hints.wide = some p → p.toNat < 2 ^ 16) →
      Answers (.moviGroup o) s fun t => Performed s t (w.setS o.d (Spec.imm16 o.imm f.hints.wide)) (f.onward s.now)) ∧
    (∀ (o : MoviPM) (p : BitVec 23), Ready s w f { wide := true } [] → f.hints.wide = some p → 2 ^ 16 ≤ p.toNat → f.outst = [] →
      exec (.movi o) s = .next (s.takeFault s.cur (plainFault .illegal (BitVec.ofNat 64 (0xFE000000 + p.toNat))))) ∧
    (∀ (o : MoviG) (p : BitVec 23), Ready s w f { wide := true } [] → f.hints.wide = some p → 2 ^ 16 ≤ p.toNat → f.outst = [] →
      exec (.moviGroup o) s = .next (s.takeFault s.cur (plainFault .illegal (BitVec.ofNat 64 (0xFE000000 + p.toNat))))))

/-- The floating-point words write their result and OR their flags into SCFG. (R113, R114, R119, R121, R122, R133, R35) -/
def Obligations.FloatWordsCompute : Prop :=
  (∀ (i : Instr) (o : RegHP) (g : FEnv → Word → Word → Word → Word × Word) (s : State) (w : Swell) (f : Frag), laneFloatOp i = some (o, g) →
    Ready s w f (hpForm true o) [o.d.toNat, o.a.toNat, o.b.toNat] →
    Answers i s fun t => Performed s t
      ((w.setV (lanesActive w f o.pm) o.d (rowOf fun l => (g f.env (w.vreg o.d)[l] (w.vreg o.a)[l] (w.vreg o.b)[l]).1)).orFlags
        (flagsOf (lanesActive w f o.pm) fun l => (g f.env (w.vreg o.d)[l] (w.vreg o.a)[l] (w.vreg o.b)[l]).2)) (f.onward s.now)) ∧
  (∀ (i : Instr) (o : Reg3) (g : Bool → FEnv → Word → Word → Word → Word × Word) (s : State) (w : Swell) (f : Frag), laneFloatRegOp i = some (o, g) →
    Ready s w f { pmx := true, rse := true, writes := [o.d] } [o.d.toNat, o.a.toNat, o.b.toNat] →
    Answers i s fun t => Performed s t
      ((w.setV (lanesActive w f f.pmx) o.d (rowOf fun l => (g f.hf f.env (w.vreg o.d)[l] (w.vreg o.a)[l] (w.vreg o.b)[l]).1)).orFlags
        (flagsOf (lanesActive w f f.pmx) fun l => (g f.hf f.env (w.vreg o.d)[l] (w.vreg o.a)[l] (w.vreg o.b)[l]).2)) (f.onward s.now))

/-- The group mirrors of the floating-point words compute once on S registers. (R115, R119, R121, R122, R124, R125, R126, R127, R130) -/
def Obligations.GroupFloatWordsCompute : Prop :=
  (∀ (i : Instr) (o : Reg3) (g : FEnv → Word → Word → Word → Word × Word) (s : State) (w : Swell) (f : Frag), groupFloatOp i = some (o, g) →
    Ready s w f { rse := true } [] →
    Answers i s fun t => Performed s t ((w.setS o.d (g f.env (w.sreg o.d) (w.sreg o.a) (w.sreg o.b)).1).orFlags
      (g f.env (w.sreg o.d) (w.sreg o.a) (w.sreg o.b)).2) (f.onward s.now)) ∧
  (∀ (i : Instr) (o : Reg2) (g : FEnv → Word → Word → Word × Word) (s : State) (w : Swell) (f : Frag), groupFloatFunOp i = some (o, g) →
    Ready s w f { rse := true } [] →
    Answers i s fun t => Performed s t ((w.setS o.d (g f.env (w.sreg o.d) (w.sreg o.a)).1).orFlags (g f.env (w.sreg o.d) (w.sreg o.a)).2) (f.onward s.now))

/-- FABS to FCLASS, CVT and the block conversions write their results and flags. (R124, R125, R126, R127, R130, R131) -/
def Obligations.OneOperandFloatWordsCompute : Prop :=
  (∀ (i : Instr) (o : FunHP) (g : FEnv → Word → Word → Word × Word) (s : State) (w : Swell) (f : Frag), laneFloatFunOp i = some (o, g) →
    Ready s w f (funForm true o) [o.d.toNat, o.a.toNat] →
    Answers i s fun t => Performed s t ((w.setV (lanesActive w f o.pm) o.d (rowOf fun l => (g f.env (w.vreg o.d)[l] (w.vreg o.a)[l]).1)).orFlags
      (flagsOf (lanesActive w f o.pm) fun l => (g f.env (w.vreg o.d)[l] (w.vreg o.a)[l]).2)) (f.onward s.now)) ∧
  (∀ (wd : Nat) (i : Instr) (o : CvtBlkPM) (s : State) (w : Swell) (f : Frag), (i = .cvtBs8 o ∧ wd = 8) ∨ (i = .cvtBs4 o ∧ wd = 4) →
    Ready s w f (funForm true ⟨o.d, o.a, o.hold, o.pm⟩) [o.d.toNat, o.a.toNat] →
    Answers i s fun t => Performed s t
      ((w.setV (lanesActive w f o.pm) o.d (rowOf (blockConvert wd f.env.rm (lanesActive w f o.pm) fun l => blockVal o.src (w.vreg o.a)[l]).1)).orFlags
        (blockConvert wd f.env.rm (lanesActive w f o.pm) fun l => blockVal o.src (w.vreg o.a)[l]).2) (f.onward s.now))

/-- Rounding follows the rounding mode, and the FP32 words give the exact value rounded once. (R16, R17, R18, R19, R20, R119, R120, R122, R125, R130) -/
def Obligations.RoundingIsToTheNearestOrDirected : Prop :=
  (∀ (neg : Bool) (m k : Nat), 0 < m →
    let x : XReal := ⟨neg, m, -(k : Int), false⟩
    (∀ rm, (roundAt x 0 rm).2 = decide (m % 2 ^ k ≠ 0)) ∧
    (roundAt x 0 .rtz).1 = m / 2 ^ k ∧
    (roundAt x 0 .rup).1 = (if neg then m / 2 ^ k else (m + 2 ^ k - 1) / 2 ^ k) ∧
    (roundAt x 0 .rdn).1 = (if neg then (m + 2 ^ k - 1) / 2 ^ k else m / 2 ^ k) ∧
    (2 * (m % 2 ^ k) < 2 ^ k → (roundAt x 0 .rne).1 = m / 2 ^ k) ∧
    (2 ^ k < 2 * (m % 2 ^ k) → (roundAt x 0 .rne).1 = m / 2 ^ k + 1) ∧
    (2 * (m % 2 ^ k) = 2 ^ k → (roundAt x 0 .rne).1 % 2 = 0)) ∧
  (∀ (env : FEnv) (a b d : Word), Spec.Finite32 a → Spec.Finite32 b → Spec.Finite32 d →
    let v (x : Word) : Int := Spec.val32 x
    let sign : Bool := a.msb != b.msb
    Spec.Sum32 env (v a + v b) 149 (a == 0x80000000 && b == 0x80000000) (fadd env a b) ∧
    Spec.Sum32 env (v a - v b) 149 (a == 0x80000000 && b == 0) (fsub env a b) ∧
    Spec.Sum32 env (v a * v b + v d * 2 ^ 149) 298 (d == 0x80000000 && v a * v b == 0 && sign) (ffma env d a b) ∧
    (if v a * v b = 0 then fmul env a b = (if sign then 0x80000000 else 0, 0) else Spec.Rounds32 env sign (v a * v b).natAbs (2 ^ 298) (fmul env a b)) ∧
    (v b ≠ 0 → if v a = 0 then fdiv env a b = (if sign then 0x80000000 else 0, 0) else Spec.Rounds32 env sign (v a).natAbs (v b).natAbs (fdiv env a b)) ∧
    (v a ≠ 0 → Spec.Rounds32 env a.msb (2 ^ 149) (v a).natAbs (frcp env a)) ∧
    fcmp .eq a b = (Spec.truth (v a = v b), 0) ∧ fcmp .ne a b = (Spec.truth (v a ≠ v b), 0) ∧ fcmp .lt a b = (Spec.truth (v a < v b), 0) ∧
    fcmp .le a b = (Spec.truth (v a ≤ v b), 0) ∧ fcmp .gt a b = (Spec.truth (v b < v a), 0) ∧ fcmp .ge a b = (Spec.truth (v b ≤ v a), 0) ∧
    (∃ n, Spec.Nearest env.rm a.msb (fun c => c * 2 ^ 149) (v a).natAbs n ∧ let q : Int := if a.msb then -n else n
      cvt .fp32 .s32 env a = if q < -(2 ^ 31) then (0x80000000, 0x20) else if 2 ^ 31 ≤ q then (0x7FFFFFFF, 0x20)
        else (BitVec.ofInt 32 q, if n * 2 ^ 149 = (v a).natAbs then 0 else 0x02))) ∧
  (∀ (env : FEnv) (a : Word), a ≠ 0 → Spec.Rounds32 env a.msb a.toInt.natAbs 1 (cvt .s32 .fp32 env a) ∧ Spec.Rounds32 env false a.toNat 1 (cvt .n32 .fp32 env a)) ∧
  (∀ (env : FEnv) (a b : Word), Spec.Nan32 a ∨ Spec.Nan32 b → ∀ r : Word × Word, r = (0x7FC00000, if Spec.snan32 a || Spec.snan32 b then 0x20 else 0) →
    fadd env a b = r ∧ fsub env a b = r ∧ fmul env a b = r ∧ fdiv env a b = r)

/-- SHFL, BCAST, VEXT, VINS, MSK and UNMSK move lanes as the rules say. (R134, R135, R137, R38) -/
def Obligations.LaneMovesMoveLanes : Prop :=
  ∀ (s : State) (w : Swell) (f : Frag),
    let act := lanesActive w f f.pmx
    (∀ o : Reg3, Ready s w f { pmx := true, writes := [o.d] } [o.d.toNat, o.a.toNat, o.b.toNat] →
      Answers (.shflIdx o) s fun t => Performed s t (w.setV act o.d (rowOf fun l => (w.vreg o.a)[((w.vreg o.b)[l].toNat % 32 : Nat)]!)) (f.onward s.now)) ∧
    (∀ o : ShflKeep, Ready s w f { pmx := true, writes := [o.d] } [o.d.toNat, o.a.toNat] →
      Answers (.shflUp o) s fun t => Performed s t (w.setV act o.d (rowOf fun l =>
        if o.c.toNat ≤ l.val then (w.vreg o.a)[l.val - o.c.toNat]! else if o.keep then (w.vreg o.d)[l] else (w.vreg o.a)[l.val + 32 - o.c.toNat]!)) (f.onward s.now)) ∧
    (∀ o : ShflKeep, Ready s w f { pmx := true, writes := [o.d] } [o.d.toNat, o.a.toNat] →
      Answers (.shflDn o) s fun t => Performed s t (w.setV act o.d (rowOf fun l =>
        if l.val + o.c.toNat < 32 then (w.vreg o.a)[l.val + o.c.toNat]! else if o.keep then (w.vreg o.d)[l] else (w.vreg o.a)[l.val + o.c.toNat - 32]!)) (f.onward s.now)) ∧
    (∀ o : ShflXor, Ready s w f { pmx := true, writes := [o.d] } [o.d.toNat, o.a.toNat] →
      Answers (.shflXor o) s fun t => Performed s t (w.setV act o.d (rowOf fun l => (w.vreg o.a)[(l.val ^^^ o.c.toNat)]!)) (f.onward s.now)) ∧
    (∀ o : Reg3, Ready s w f { pmx := true, writes := [o.d] } [o.d.toNat, o.a.toNat] →
      Answers (.bcast o) s fun t => Performed s t (w.setV act o.d (rowOf fun _ => (w.vreg o.a)[((w.sreg o.b).toNat % 32 : Nat)]!)) (f.onward s.now)) ∧
    (∀ o : Reg3, Ready s w f { pmx := true } [o.a.toNat] →
      Answers (.vext o) s fun t => Performed s t (w.setS o.d (w.vreg o.a)[((w.sreg o.b).toNat % 32 : Nat)]!) (f.onward s.now)) ∧
    (∀ o : Reg3, Ready s w f { pmx := true, writes := [o.d] } [o.d.toNat] →
      Answers (.vins o) s fun t => Performed s t (w.setV (act &&& BitVec.twoPow 32 ((w.sreg o.b).toNat % 32)) o.d (rowOf fun _ => w.sreg o.a)) (f.onward s.now)) ∧
    (∀ o : Reg2, Ready s w f { pmx := true } [o.a.toNat] →
      Answers (.msk o) s fun t => Performed s t (w.setS o.d (BitVec.ofNat 32
        ((List.finRange 32).map fun l => if act.getLsbD l.val && (w.vreg o.a)[l] != 0 then 2 ^ l.val else 0).sum)) (f.onward s.now)) ∧
    (∀ o : Reg2, Ready s w f { pmx := true, writes := [o.d] } [o.d.toNat] →
      Answers (.unmsk o) s fun t => Performed s t (w.setV act o.d (rowOf fun l => Spec.truth ((w.sreg o.a).getLsbD l.val = true))) (f.onward s.now))

/-- VMOVX and VMOVXW move through a computed index and take REGRANGE at or above the count. The model’s choice: with another register also at or above the count, VMOVXW names the computed index before A, and VMOVX names D first (log 65). (R137, R138) -/
def Obligations.ComputedRegisterIndexIsChecked : Prop :=
  ∀ (o : Reg3) (s : State) (w : Swell) (f : Frag), w.n ≤ 128 →
    (o.a.toNat + (w.sreg o.b).toNat < w.n → Ready s w f { pmx := true, writes := [o.d] } [o.d.toNat] →
      Answers (.vmovx o) s fun t => Performed s t (w.setV (lanesActive w f f.pmx) o.d (w.vreg (BitVec.ofNat 7 (o.a.toNat + (w.sreg o.b).toNat)))) (f.onward s.now)) ∧
    (o.d.toNat + (w.sreg o.b).toNat < w.n → Ready s w f { pmx := true } [o.a.toNat] →
      Answers (.vmovxw o) s fun t => Performed s t (w.setV (lanesActive w f f.pmx) (BitVec.ofNat 7 (o.d.toNat + (w.sreg o.b).toNat)) (w.vreg o.a)) (f.onward s.now)) ∧
    (w.n ≤ o.a.toNat + (w.sreg o.b).toNat → Ready s w f { pmx := true, writes := [o.d] } [o.d.toNat] → f.outst = [] →
      exec (.vmovx o) s = .next (s.takeFault s.cur (plainFault .regrange (BitVec.ofNat 64 (o.a.toNat + (w.sreg o.b).toNat))))) ∧
    (w.n ≤ o.d.toNat + (w.sreg o.b).toNat → Ready s w f { pmx := true } [] → f.outst = [] →
      exec (.vmovxw o) s = .next (s.takeFault s.cur (plainFault .regrange (BitVec.ofNat 64 (o.d.toNat + (w.sreg o.b).toNat)))))

/-- NBRGET reads and NBRSET writes the neighbour index of the active lanes. (R144) -/
def Obligations.NeighbourIndexIsReadAndWritten : Prop :=
  ∀ (s : State) (w : Swell) (f : Frag),
    (∀ o : NbrGetOp, Ready s w f { rse := true, writes := [o.d] } [o.d.toNat] →
      Answers (.nbrget o) s fun t => Performed s t (w.setV (lanesActive w f o.pm) o.d (rowOf fun l => BitVec.ofNat 32 w.nbr[l].toNat)) (f.onward s.now)) ∧
    (∀ o : NbrSetOp, Ready s w f { rse := true, hold := holdReg o.hold o.a o.a o.a } [o.a.toNat] →
      Answers (.nbrset o) s fun t => ∃ nbr : Vector (BitVec 16) 32, Performed s t { w with nbr := nbr } (f.onward s.now) ∧
        ∀ l : Fin 32, nbr[l] = if (lanesActive w f o.pm).getLsbD l.val
          then BitVec.ofNat 16 ((w.vreg o.a)[l].toNat % 2 ^ 14 + (w.vreg o.a)[l].toNat / 2 ^ 15 % 2 * 2 ^ 15) else w.nbr[l])

/-- DDX, DDY, DDXC and DDYC subtract the pair of the rule, or write +0 and clear DS. (R143, R141, R142) -/
def Obligations.DerivativesSubtractAcrossThePair : Prop :=
  ∀ (i : Instr) (o : FunHP) (pair : Vector (BitVec 16) 32 → Word → Fin 32 → Option (Fin 32 × Fin 32)) (s : State) (w : Swell) (f : Frag),
    (i = .ddx o ∧ pair = quadDx) ∨ (i = .ddy o ∧ pair = quadDy) ∨ (i = .ddxc o ∧ pair = quadDxc) ∨ (i = .ddyc o ∧ pair = quadDyc) →
    Ready s w f (funForm true o) [o.d.toNat, o.a.toNat] →
    let act := lanesActive w f o.pm
    let r (l : Fin 32) : Word × Word := match pair w.nbr act l with
      | some (lo, hi) => fsub f.env (w.vreg o.a)[hi] (w.vreg o.a)[lo]
      | none => (0, 0)
    Answers i s fun t => ∃ nbr : Vector (BitVec 16) 32,
      Performed s t { (w.setV act o.d (rowOf fun l => (r l).1)).orFlags (flagsOf act fun l => (r l).2) with nbr := nbr } (f.onward s.now) ∧
      ∀ l : Fin 32, nbr[l] = if act.getLsbD l.val ∧ pair w.nbr act l = none then BitVec.ofNat 16 (w.nbr[l].toNat % 2 ^ 15) else w.nbr[l]

/-- BRA, BRZ, BRNZ, CALL and JMPX set the PC within the window; a misaligned JMPX takes ALIGN. (R148, R75, R151, R32) -/
def Obligations.BranchesGoWhereTheRuleSays : Prop :=
  ∀ (s : State) (w : Swell) (f : Frag),
    let go (w' : Swell) (pc : Pc) (t : State) := Performed s t w' (f.afterUnit s.now pc)
    let seq := Spec.inWindow f.pc (f.pc.toNat + 4)
    (∀ off, Ready s w f { wide := true } [] → Answers (.bra off) s (go w (Spec.target f.pc off f.hints.wide))) ∧
    (∀ o : BranchOp, Ready s w f { wide := true } [] →
      Answers (.brz o) s (go w (if w.sreg o.c = 0 then Spec.target f.pc o.off f.hints.wide else seq)) ∧
      Answers (.brnz o) s (go w (if w.sreg o.c = 0 then seq else Spec.target f.pc o.off f.hints.wide)) ∧
      Answers (.call o) s (go (w.setS o.c (BitVec.ofNat 32 (f.pc.toNat + 4))) (Spec.target f.pc o.off f.hints.wide))) ∧
    (∀ r, Ready s w f {} [] → (w.sreg r).toNat % 4 = 0 → Answers (.jmpx r) s (go w (Spec.inWindow f.pc (w.sreg r).toNat))) ∧
    (∀ r, Ready s w f {} [] → (w.sreg r).toNat % 4 ≠ 0 → f.outst = [] →
      exec (.jmpx r) s = .next (s.takeFault s.cur (plainFault .align (BitVec.ofNat 64 (Spec.inWindow f.pc (w.sreg r).toNat).toNat)))) ∧
    f.onward s.now = f.afterUnit s.now seq

/-- SPLIT divides the lanes into two fragments, or goes one way, or takes SPLITOVF. The model’s choice: the splitting fragment’s region has the lower number (log 44), and the reconvergence address wraps within the 4 GiB window (log 69). (R42, R152, R45, R47) -/
def Obligations.SplitDividesTheFragment : Prop :=
  ∀ (o : BranchOp) (s : State) (w : Swell) (f : Frag), Ready s w f { wide := true } [] → f.priv = 0 →
    let take := w.sreg o.c &&& f.mask
    let target := Spec.target f.pc o.off none
    let recon : Pc := match f.hints.wide with
      | none => 0
      | some p => if p = 0 then 0 else Spec.inWindow f.pc (f.pc.toNat + 4 * p.toInt)
    (take = 0 → Answers (.split o) s fun t => Performed s t w (f.onward s.now)) ∧
    (take ≠ 0 → take = f.mask → Answers (.split o) s fun t => Performed s t w (f.afterUnit s.now target)) ∧
    (take ≠ 0 → take ≠ f.mask → ∀ c < 8, (w.ent c).valid = false → (∀ i < c, (w.ent i).valid = true) →
      Answers (.split o) s fun t => SameOutside s t s.cur ∧ ∃ u, t.swellAt s.cur.swell = some u ∧
        u = { w with region := w.region + 1 + 1, ents := u.ents } ∧ (∀ i, i ≠ c → i ≠ s.cur.ent → u.ent i = w.ent i) ∧
        (let n := u.ent c; n.valid = true ∧ n.st = 0 ∧ n.mask = take ∧ n.pc = target ∧ n.rep = target ∧ n.recon = recon ∧ n.fmt = f.fmt ∧ n.sfmt = f.fmt ∧
          n.part = BitVec.ofNat 3 s.cur.ent ∧ n.new = true ∧ n.orecon = f.recon ∧ n.osfmt = f.sfmt ∧ n.opart = f.part ∧ n.onew = f.new ∧ n.region = w.region + 1 + 1) ∧
        (let e := u.ent s.cur.ent; e.mask = f.mask &&& ~~~take ∧ e.pc = f.follow (nextPc f.pc) ∧ e.rep = e.pc ∧ e.recon = recon ∧ e.fmt = f.fmt ∧ e.sfmt = f.fmt ∧
          e.part = BitVec.ofNat 3 c ∧ e.new = false ∧ e.st = f.st ∧ e.region = w.region + 1)) ∧
    (take ≠ 0 → take ≠ f.mask → (∀ i < 8, (w.ent i).valid = true) → f.outst = [] →
      exec (.split o) s = .next (s.takeFault s.cur (plainFault .splitovf (BitVec.ofNat 64 target.toNat))))

/-- FUSE completes at user privilege: it goes on, waits, or merges two fragments; with a section held at its point it takes SECTSTATE. (R43, R152, R153, R299, R301) -/
def Obligations.FuseWaitsAndMerges : Prop :=
  ∀ (s : State) (w : Swell) (f : Frag), Ready s w f {} [] → f.priv = 0 →
    let p := f.part.toNat
    let fp := w.ent p
    let arrived := p ≠ s.cur.ent ∧ fp.valid = true ∧ fp.part.toNat = s.cur.ent ∧ ((fp.st = 2 ∧ fp.recon = f.pc) ∨ fp.st = 3)
    let asks := f.recon ≠ 0 ∧ f.recon = f.pc ∧ (w.pend.late = true ∨ w.pend.engine = true)
    (f.heldKeys = [] → Answers .fuse s fun t => SameOutside s { t with due := s.due } s.cur ∧ (¬asks → t.due = s.due) ∧
      (asks → Comes t (.asyncFaultDelivery s.cur.swell)) ∧ ∃ u, t.swellAt s.cur.swell = some u ∧ u.v = w.v ∧ u.s = w.s ∧ u.scfg = w.scfg ∧
      (f.recon = 0 ∨ f.recon ≠ f.pc → u = w.setEnt s.cur.ent (f.onward s.now)) ∧
      (f.recon ≠ 0 → f.recon = f.pc → ¬arrived → u = w.setEnt s.cur.ent { f with st := 2, age := 0, hints := ⟨none, []⟩ }) ∧
      (f.recon ≠ 0 → f.recon = f.pc → arrived →
        let n := if f.new then f else fp
        let si := if fp.st = 3 ∨ f.new = false then s.cur.ent else p
        let oi := if fp.st = 3 ∨ f.new = false then p else s.cur.ent
        (u.ent oi).valid = false ∧ (u.ent si).mask = f.mask ||| fp.mask ∧ (u.ent si).pc = nextPc f.pc ∧ (u.ent si).st = 0 ∧ (u.ent si).fmt = (w.ent si).sfmt ∧
          (u.ent si).recon = n.orecon ∧ (u.ent si).sfmt = n.osfmt ∧ (u.ent si).part = n.opart ∧ (u.ent si).new = n.onew ∧
          u.region = w.region + 1 ∧ (u.ent si).region = u.region ∧ (u.ent si).rep = nextPc f.pc ∧
          (∀ q, q ≠ si → q ≠ oi → u.ent q = if q = n.opart.toNat ∧ (w.ent q).valid = true then { w.ent q with part := BitVec.ofNat 3 si } else w.ent q))) ∧
    (f.recon = 0 ∨ f.recon ≠ f.pc → Answers .fuse s fun t => Performed s t w (f.onward s.now)) ∧
    (f.recon ≠ 0 → f.recon = f.pc → ∀ k, f.heldLow = some k → f.outst = [] → exec .fuse s = .next (s.takeFault s.cur (plainFault .sectstate k)))

/-- EXIT retires the lanes; the exit of the last live fragment ends the swell. (R44, R160, R59) -/
def Obligations.ExitRetiresLanesAndEndsTheSwell : Prop :=
  ∀ (s : State) (w : Swell) (f : Frag), Ready s w f {} [] →
    let e := s.cur.ent
    let p := f.part.toNat
    let fp := w.ent p
    let lone := p = e ∨ fp.valid = false ∨ fp.part.toNat ≠ e
    let others (t : State) := (∀ k, k ≠ s.cur.key → kvGet t.swells k = kvGet s.swells k) ∧ SameBytes s t ∧
      (∀ c a, byteAt (t.core c).scratch a = byteAt (s.core c).scratch a)
    let left (g : Frag) := g.st = 3 ∧ g.mask = 0 ∧ g.part = f.part ∧ g.recon = f.recon ∧ g.new = f.new
    (f.heldKeys = [] → w.liveEnts = [e] → Answers .exit s fun t => t.swellAt s.cur.swell = none ∧ others t) ∧
    (f.heldKeys = [] → w.liveEnts ≠ [e] → lone ∨ (fp.live = true ∧ ¬(fp.st = 2 ∧ fp.recon = fp.pc)) → Answers .exit s fun t => others t ∧
      (w.pend.late = true ∨ w.pend.engine = true → Comes t (.asyncFaultDelivery s.cur.swell)) ∧
      (f.priv = 0 → ∃ g, t.swellAt s.cur.swell = some (w.setEnt e g) ∧ left g) ∧
      (f.priv ≠ 0 → (∀ i < 8, i ≠ e → (w.ent i).st ≠ 4) → ∃ g, t.swellAt s.cur.swell = some ({ w with busy := false }.setEnt e g) ∧ left g ∧ g.priv = 0) ∧
      (f.priv ≠ 0 → ∀ h < 8, h ≠ e → (w.ent h).valid = true → (w.ent h).st = 4 → (∀ i < h, i ≠ e → ¬((w.ent i).valid = true ∧ (w.ent i).st = 4)) →
        ∀ r, (w.ent h).heldFault = some r → ∃ u, t.swellAt s.cur.swell = some u ∧ left (u.ent e) ∧ u.busy = true ∧ u.busyEnt = BitVec.ofNat 3 h ∧ u.fval = r.fval ∧
          u.fpc = BitVec.ofNat 64 (w.ent h).unitPc.toNat ∧ u.frec = (w.ent h).region ∧ (u.ent h).st = 5 ∧ (u.ent h).priv = 1 ∧ (u.ent h).heldFault = none)) ∧
    (f.heldKeys = [] → ¬lone → fp.st = 2 → fp.recon = fp.pc → Answers .exit s fun t => others t ∧ ∃ u, t.swellAt s.cur.swell = some u ∧
      (let n := if fp.new then fp else f
       u.v = w.v ∧ u.s = w.s ∧ u.scfg = w.scfg ∧ (u.ent e).valid = false ∧ (u.ent p).mask = fp.mask ∧ (u.ent p).pc = nextPc fp.pc ∧ (u.ent p).st = 0 ∧ (u.ent p).fmt = fp.sfmt ∧
        (u.ent p).recon = n.orecon ∧ (u.ent p).sfmt = n.osfmt ∧ (u.ent p).part = n.opart ∧ (u.ent p).new = n.onew ∧
        (∀ q, q ≠ p → q ≠ e → q = n.opart.toNat → (w.ent q).valid = true → (u.ent q).part = BitVec.ofNat 3 p))) ∧
    (f.heldKeys = [] → ¬lone → fp.st = 3 → w.liveEnts ≠ [e] → Answers .exit s fun t => others t ∧ ∃ u, t.swellAt s.cur.swell = some u ∧ u.v = w.v ∧
      (u.ent (if f.new then e else p)).valid = false) ∧
    (∀ k, f.heldLow = some k → f.outst = [] → exec .exit s = .next (s.takeFault s.cur (plainFault .sectstate k)))

/-- SETF, GETF, SETC, GETC and SETPRI move the fields of the rule. (R157, R45, R34, R35) -/
def Obligations.FormatAndConfigurationWords : Prop :=
  ∀ (r : Reg) (s : State) (w : Swell) (f : Frag), Ready s w f {} [] →
    Answers (.setf r) s (fun t => Performed s t w ({ f with fmt := BitVec.ofNat 12 ((w.sreg r).toNat % 2 ^ 12) }.onward s.now)) ∧
    Answers (.getf r) s (fun t => Performed s t (w.setS r (BitVec.ofNat 32 f.fmt.toNat)) (f.onward s.now)) ∧
    Answers (.setc r) s (fun t => Performed s t { w with scfg := BitVec.ofNat 32 ((w.sreg r).toNat % 2 ^ 7) ||| w.raised } (f.onward s.now)) ∧
    Answers (.getc r) s (fun t => Performed s t (w.setS r (BitVec.ofNat 32 (w.scfg.toNat % 2 ^ 7))) (f.onward s.now)) ∧
    Answers (.setpri r) s (fun t => Performed s t { w with pri := BitVec.ofNat 32 ((w.sreg r).toNat % 2 ^ 3) } (f.onward s.now))

/-- NOP and YIELD change no architected state; CONT, REGION and RESUME act on regions and continuations. (R158, R159, R53, R47, R156) -/
def Obligations.NopYieldContRegionResume : Prop :=
  ∀ (r : Reg) (s : State) (w : Swell) (f : Frag), Ready s w f {} [] → f.outst = [] →
    let g := f.onward s.now
    let fresh (f : Frag) (pc : Pc) : Frag := let g := f.afterUnit s.now pc
      { g with rep := g.pc, region := w.region + 1, breakDue := true, denied := g.denied.filter fun x => x.inCont != g.inCont || x.super != (g.priv != 0) || x.rep == g.pc }
    Answers .nop s (fun t => Performed s t w g) ∧
    Answers .yield s (fun t => Performed s t w { g with readyAt := s.now }) ∧
    Answers (.cont r) s (fun t => Performed s t { w with cont := BitVec.ofNat 32 ((w.sreg r).toNat / 4 * 4) } g) ∧
    Answers .region s (fun t => Performed s t { w with region := w.region + 1 } (fresh f (nextPc f.pc))) ∧
    (f.priv = 0 → (w.sreg r).toNat % 4 = 0 →
      Answers (.resume r) s (fun t => Performed s t { w with contMark := false, region := w.region + 1 }
        (fresh { f with inCont := false, contAsk := none, denied := f.denied.filter fun x => !x.inCont } (BitVec.ofNat 56 (w.window.toNat * 2 ^ 32 + (w.sreg r).toNat))))) ∧
    (f.priv = 0 → (w.sreg r).toNat % 4 ≠ 0 →
      exec (.resume r) s = .next (s.takeFault s.cur (plainFault .align (BitVec.ofNat 64 (w.window.toNat * 2 ^ 32 + (w.sreg r).toNat)))))

/-- TRAP and BKPT take their fault with FVAL the immediate or 0, and begin no region. (R161, R58) -/
def Obligations.TrapsEnterTheHandler : Prop :=
  ∀ (s : State) (w : Swell) (f : Frag), Ready s w f {} [] → f.outst = [] →
    (∀ imm, exec (.trap imm) s = .next (s.takeFault s.cur (plainFault .trap (BitVec.ofNat 64 imm.toNat)))) ∧
    exec .bkpt s = .next (s.takeFault s.cur (plainFault .bkpt 0)) ∧
    (w.busy = false → (∀ imm, Answers (.trap imm) s fun t => HandlerEntered s t w f (0x12 + 2 ^ 13 * (s.cur.ent % 8)) imm.toNat) ∧
      Answers .bkpt s fun t => HandlerEntered s t w f (0x13 + 2 ^ 13 * (s.cur.ent % 8)) 0)

/-- A precise fault enters the handler, is held behind another’s handler, or ends the swell. (R58, R59, R55, R57, R416) -/
def Obligations.FaultsEnterTheHandlerOrAreHeld : Prop :=
  ∀ (s : State) (w : Swell) (f : Frag) (r : FaultRec), Runs s w f → r.code ≠ .xlate → r.lane < 32 →
    (w.busy = false → HandlerEntered s (s.takeFault s.cur r) w f
      (r.code.num + 2 ^ 8 * r.lane + 2 ^ 13 * (s.cur.ent % 8) + 2 ^ 16 * ((if r.write then 1 else 0) + (if r.fetch then 2 else 0))) r.fval.toNat) ∧
    (w.busy = true → w.busyEnt.toNat ≠ s.cur.ent → SameOutside s (s.takeFault s.cur r) s.cur ∧
      ∃ g, (s.takeFault s.cur r).swellAt s.cur.swell = some (w.setEnt s.cur.ent g) ∧ g.st = 4 ∧ g.heldFault = some r ∧ g.pc = f.hints.first.getD f.pc ∧
        g.mask = f.mask ∧ g.fmt = f.fmt) ∧
    (w.busy = true → w.busyEnt.toNat = s.cur.ent → (s.takeFault s.cur r).swellAt s.cur.swell = none ∧
      ((s.ctx w.ctx).elhead - (s.ctx w.ctx).eltail ≠ 256 → ((s.takeFault s.cur r).ctx w.ctx).elhead = (s.ctx w.ctx).elhead + 1))

/-- XLATE returns the PC to REP and asks the fault service; CONT takes the fragment to its continuation. The model’s choice: the request reaches the fault service in the next tick (log 2). (R50, R51, R52, R59) -/
def Obligations.RestartableFaultReturnsToTheRegion : Prop :=
  (∀ (s : State) (w : Swell) (f : Frag) (r : FaultRec), Runs s w f → r.code = .xlate → f.refused (r.fval.toNat / 65536) = false →
    let t := s.takeFault s.cur r
    let ask := Internal.faultServiceRequest (s.cur.key / 32 / 256) w.ctx (r.fval.toNat / 65536) ⟨r.write, r.fetch, false, false⟩ (some s.cur)
    (∀ a, byteAt t.mem a = byteAt s.mem a) ∧ (s.now + 1, ask) ∈ t.due ∧
    (w.cont = 0 ∨ w.contMark = true ∨ f.priv ≠ 0 → ∃ g, t.swellAt s.cur.swell = some (w.setEnt s.cur.ent g) ∧ g.st = 1 ∧ g.wkind = 8 ∧ g.pc = f.rep ∧
      g.waddr = r.fval ∧ g.wait = some (.service (r.fval.toNat / 65536) r.fval) ∧ g.fmt = f.fmt ∧ g.mask = f.mask) ∧
    (w.cont ≠ 0 → w.contMark = false → f.priv = 0 → ∃ u, t.swellAt s.cur.swell = some u ∧ u.contMark = true ∧ u.v = w.v ∧ u.scfg = w.scfg ∧
      (u.ent s.cur.ent).pc = BitVec.ofNat 56 (w.window.toNat * 2 ^ 32 + w.cont.toNat) ∧ (u.ent s.cur.ent).fmt = f.fmt ∧ (u.ent s.cur.ent).mask = f.mask ∧
      u.sreg 120 = faultToken s s.cur.key ∧ u.sreg 121 = BitVec.ofNat 32 f.rep.toNat ∧ u.sreg 122 = BitVec.ofNat 32 r.fval.toNat ∧
      u.sreg 123 = BitVec.ofNat 32 (r.fval.toNat / 2 ^ 32) ∧ (∀ q : Reg, q.toNat < 120 ∨ 123 < q.toNat → u.sreg q = w.sreg q) ∧ (wakeWord t s.cur.key).1 = false)) ∧
  (∀ (s : State) (w : Swell) (f : Frag) (r : FaultRec), Runs s w f → r.code = .xlate → r.lane < 32 → f.refused (r.fval.toNat / 65536) = true → w.busy = false →
    HandlerEntered s (s.takeFault s.cur r) w f
      (0x06 + 2 ^ 8 * r.lane + 2 ^ 13 * (s.cur.ent % 8) + 2 ^ 16 * ((if r.write then 1 else 0) + (if r.fetch then 2 else 0))) r.fval.toNat)

/-- ERET restores PC, REP and region, user privilege and STATE 0, then the lowest held fault is taken. (R162, R156, R59) -/
def Obligations.EretReturnsFromTheHandler : Prop :=
  ∀ (s : State) (w : Swell) (f : Frag), Ready s w f {} [] →
    (f.priv ≠ 0 → (∀ e < 8, e ≠ s.cur.ent → (w.ent e).st ≠ 4) → Answers .eret s fun t => SameOutside s { t with due := s.due } s.cur ∧
      (w.pend.late = false → w.pend.engine = false → t.due = s.due) ∧ (w.pend.late = true ∨ w.pend.engine = true → Comes t (.asyncFaultDelivery s.cur.swell)) ∧
      ∃ g, t.swellAt s.cur.swell = some ({ w with busy := false }.setEnt s.cur.ent g) ∧ g.pc = BitVec.ofNat 56 w.fpc.toNat ∧ g.rep = g.pc ∧ g.region = w.frec ∧
        g.st = 0 ∧ g.priv = 0 ∧ g.mask = f.mask ∧ g.fmt = f.fmt ∧ g.held0 = f.held0 ∧ g.held1 = f.held1) ∧
    (f.priv ≠ 0 → ∀ h < 8, h ≠ s.cur.ent → (w.ent h).valid = true → (w.ent h).st = 4 → (∀ e < h, e ≠ s.cur.ent → ¬((w.ent e).valid = true ∧ (w.ent e).st = 4)) →
      ∀ r, (w.ent h).heldFault = some r → Answers .eret s fun t => ∃ u, t.swellAt s.cur.swell = some u ∧ u.busy = true ∧ u.busyEnt = BitVec.ofNat 3 h ∧
        u.fval = r.fval ∧ u.frec = (w.ent h).region ∧ u.fpc = BitVec.ofNat 64 (w.ent h).unitPc.toNat ∧ (u.ent h).st = 5 ∧ (u.ent h).priv = 1 ∧ (u.ent h).heldFault = none ∧
        (u.ent s.cur.ent).st = 0 ∧ (u.ent s.cur.ent).pc = BitVec.ofNat 56 w.fpc.toNat) ∧
    (f.priv = 0 → f.outst = [] → exec .eret s = .next (s.takeFault s.cur (plainFault .illegal (BitVec.ofNat 64 (Spec.gsysWord 0 0 13)))))

/-- A function of the wrong privilege takes ILLEGAL with FVAL the word. (R156, R153, R165) -/
def Obligations.PrivilegeIsChecked : Prop :=
  ∀ (s : State) (w : Swell) (f : Frag) (r : Reg) (o : BranchOp), f.outst = [] →
    let ill (x : Nat) := s.takeFault s.cur (plainFault .illegal (BitVec.ofNat 64 x))
    (Ready s w f {} [] → f.priv = 0 →
      exec .eret s = .next (ill (Spec.gsysWord 0 0 13)) ∧ exec (.tlbiPage r) s = .next (ill (Spec.gsysWord 0 r.toNat 16)) ∧
      exec .tlbiCtx s = .next (ill (Spec.gsysWord 1 0 16))) ∧
    (Ready s w f {} [] → f.priv ≠ 0 → exec (.resume r) s = .next (ill (Spec.gsysWord 0 r.toNat 9)) ∧ exec .fuse s = .next (ill (0x6F * 2 ^ 25))) ∧
    (Ready s w f { wide := true } [] → f.priv ≠ 0 → exec (.split o) s = .next (ill (0x6E * 2 ^ 25 + o.c.toNat * 2 ^ 18 + o.off.toNat)))

/-- SRD reads each listed system register, at the privileges listed; every other number takes ILLEGAL. (R163, R164, R2) -/
def Obligations.SystemRegistersReadAsListed : Prop :=
  ∀ (o : SrdOp) (s : State) (w : Swell) (f : Frag), Ready s w f {} [] →
    (∀ n sup x, (n, sup, x) ∈ Spec.sysRegs s s.cur w f → o.n.toNat = n → (sup = true → f.priv ≠ 0) →
      Answers (.srd o) s fun t => Performed s t (w.setS o.d (BitVec.ofNat 32 x)) (f.onward s.now)) ∧
    (f.outst = [] → (0x1B ≤ o.n.toNat ∨ (f.priv = 0 ∧ (o.n.toNat = 6 ∨ o.n.toNat = 7))) →
      exec (.srd o) s = .next (s.takeFault s.cur (plainFault .illegal (BitVec.ofNat 64 (Spec.gsysWord o.d.toNat o.n.toNat 10)))))

/-- SWR writes CONT, and in supervisor privilege FPC and FVEC; every other write takes ILLEGAL. (R163, R164, R37) -/
def Obligations.SystemRegistersWriteAsListed : Prop :=
  ∀ (o : SwrOp) (s : State) (w : Swell) (f : Frag), Ready s w f {} [] →
    let x := (w.sreg o.a).toNat
    let low (v : Addr) : Addr := BitVec.ofNat 64 ((v.toNat / 2 ^ 32 * 2 ^ 32 + x) % 2 ^ 56 / 4 * 4)
    let high (v : Addr) : Addr := BitVec.ofNat 64 ((x * 2 ^ 32 + v.toNat % 2 ^ 32) % 2 ^ 56 / 4 * 4)
    let fvec (g : Addr → Addr) : State := s.updCtx w.ctx fun c => { c with fvec := g c.fvec, fvecWas := some (s.now, c.fvecNow s.now) }
    (o.n = 0x08 → Answers (.swr o) s fun t => Performed s t { w with cont := BitVec.ofNat 32 (x / 4 * 4) } (f.onward s.now)) ∧
    (o.n = 0x02 → f.priv ≠ 0 → Answers (.swr o) s fun t => Performed s t { w with fpc := low w.fpc } (f.onward s.now)) ∧
    (o.n = 0x03 → f.priv ≠ 0 → Answers (.swr o) s fun t => Performed s t { w with fpc := high w.fpc } (f.onward s.now)) ∧
    (o.n = 0x06 → f.priv ≠ 0 → Answers (.swr o) s fun t => Performed (fvec low) t w (f.onward s.now)) ∧
    (o.n = 0x07 → f.priv ≠ 0 → Answers (.swr o) s fun t => Performed (fvec high) t w (f.onward s.now)) ∧
    (f.outst = [] → (o.n ≠ 0x08 ∧ (f.priv = 0 ∨ (o.n ≠ 0x02 ∧ o.n ≠ 0x03 ∧ o.n ≠ 0x06 ∧ o.n ≠ 0x07))) →
      exec (.swr o) s = .next (s.takeFault s.cur (plainFault .illegal (BitVec.ofNat 64 (Spec.gsysWord o.n.toNat o.a.toNat 11)))))

/-- TLBI removes the page’s or the context’s translations from every TLB and walker of the package. (R165, R7) -/
def Obligations.TlbiRemovesTranslations : Prop :=
  ∀ (s : State) (w : Swell) (f : Frag) (r : Reg), Ready s w f {} [] → f.priv ≠ 0 → s.msgs = [] →
    (∀ x ∈ s.swells, ∀ e, (x.2.ent e).outst = []) → (∀ x ∈ s.cores, ∀ l ∈ x.2.l1, l.dirty = 0) → (∀ x ∈ s.dies, ∀ l ∈ x.2.partition, l.dirty = 0) →
    let kept (t : State) (gone : TlbEnt → Bool) :=
      (∀ c, (t.core c).tlb = (s.core c).tlb.filter fun x => !gone x) ∧ (∀ c, (t.cluster c).tlb = (s.cluster c).tlb.filter fun x => !gone x) ∧
      t.swellAt s.cur.swell = some (w.setEnt s.cur.ent (f.onward s.now)) ∧ (∀ a, byteAt t.mem a = byteAt s.mem a)
    let walkers (t : State) (gone : WalkEnt → Bool) := ∀ d, (t.die d).walkCache = (s.die d).walkCache.filter fun x => !gone x
    (f.tlbi = none → Answers .tlbiCtx s (fun t => kept t (fun x => x.ctx == w.ctx) ∧ walkers t (fun x => x.ctx == w.ctx)) ∧
      ((w.spair r).toNat < 2 ^ 56 → Answers (.tlbiPage r) s fun t => kept t (fun x => x.covers w.ctx (w.spair r).toNat) ∧
        walkers t (fun x => x.ctx == w.ctx && x.top == (w.spair r).toNat / 2 ^ levelShift x.level))) ∧
    (f.tlbi ≠ none → Answers .tlbiCtx s (fun t => kept t (fun _ => false) ∧ walkers t fun _ => false) ∧
      ((w.spair r).toNat < 2 ^ 56 → Answers (.tlbiPage r) s fun t => kept t (fun _ => false) ∧ walkers t fun _ => false)) ∧
    (2 ^ 56 ≤ (w.spair r).toNat → f.outst = [] → exec (.tlbiPage r) s = .next (s.takeFault s.cur (plainFault .align (w.spair r))))

/-- A HINT joins the unit of the next instruction; a second of its kind and a word that is no instruction take ILLEGAL. (R73, R74, R86, R58) -/
def Obligations.HintsJoinTheUnit : Prop :=
  ∀ (s : State) (w : Swell) (f : Frag), Runs s w f →
    let joined (h : HintWord) (t : State) := SameOutside s t s.cur ∧
      t.swellAt s.cur.swell = some (w.setEnt s.cur.ent { f with hints := ⟨some (f.hints.first.getD f.pc), f.hints.words ++ [h]⟩, pc := nextPc f.pc, age := 0 })
    let ill (x : Nat) := s.takeFault s.cur (plainFault .illegal (BitVec.ofNat 64 x))
    (∀ p, f.hints.wide = none → Answers (.hintWideImmediate p) s (joined (.wide p))) ∧
    (∀ m, f.hints.mods = none → Answers (.hintModifiers m) s (joined (.mods m))) ∧
    (∀ x, f.hints.sched = none → Answers (.hintScheduling x) s (joined (.sched x))) ∧
    (∀ p, f.hints.wide ≠ none → f.outst = [] → exec (.hintWideImmediate p) s = .next (ill (0xFE000000 + p.toNat))) ∧
    (∀ m, f.hints.mods ≠ none → f.outst = [] → exec (.hintModifiers m) s = .next (ill (0xFE800000 + m.bits.toNat))) ∧
    (∀ x, f.hints.sched ≠ none → f.outst = [] → exec (.hintScheduling x) s = .next (ill (0xFF000000 + x.bits.toNat))) ∧
    (∀ x, f.outst = [] → exec (.nonInstructionWord x) s = .next (ill x.toNat)) ∧
    (∀ x, f.outst = [] → w.busy = false → Answers (.nonInstructionWord x) s fun t => HandlerEntered s t w f (0x01 + 2 ^ 13 * (s.cur.ent % 8)) x.toNat)

/-- A HINT that the word does not accept takes ILLEGAL with the HINT; a register at or above the count takes REGRANGE. The model’s choice: of several registers at or above the count FVAL names the first in the order D, A, B (log 65). (R74, R56, R30, R66) -/
def Obligations.MisusedHintsAndRegistersFault : Prop :=
  ∀ (i : Instr) (o : RegHP) (g : Word → Word → Word → Word) (s : State) (w : Swell) (f : Frag), laneHpOp i = some (o, g) → Runs s w f → f.outst = [] →
    (∀ h, f.hints.words.find? (fun x => !(hpForm false o).accepts x) = some h →
      exec i s = .next (s.takeFault s.cur (plainFault .illegal (BitVec.ofNat 64 h.word.toNat)))) ∧
    ((∀ h ∈ f.hints.words, (hpForm false o).accepts h = true) → ∀ r, [o.d, o.a, o.b].find? (fun q => decide (w.n ≤ q.toNat)) = some r →
      exec i s = .next (s.takeFault s.cur (plainFault .regrange (BitVec.ofNat 64 r.toNat))))

/-- A step runs the instruction that the word at the PC decodes to. The model’s choice: inputs come before events and events before words (log 3), and a fetch reads the latest bytes of every cache as they are (log 9). (R64, R67, R73, R86, R169, 03_instruction_word.md) -/
def Obligations.StepRunsTheFetchedInstruction : Prop :=
  (∀ (s : State) (id : FragId) (rest : List FragId) (w : Swell) (f : Frag) (c : Candidate) (x : Word),
    takeDue s.now s.inbox = none → takeDue s.now s.due = none → s.turn.picked = id :: rest → s.fragAt id = some (w, f) → eligible s id = some c →
    nextWord s id w f = .word x →
    (∀ (i : Instr) (t : State), decode x = .ok i → exec i (s.issuing id rest) = .next t →
      step s = .next { afterWord t id (f.age + 1) w.ctx (isMma x) with now := s.now, turn := turnAfter id rest }) ∧
    (∀ (r : Reject) (t : State), decode x = .error r → exec (.nonInstructionWord x) (s.issuing id rest) = .next t →
      step s = .next { afterWord t id (f.age + 1) w.ctx (isMma x) with now := s.now, turn := turnAfter id rest })) ∧
  (∀ (s : State) (id : FragId) (w : Swell) (f : Frag) (l : Loc) (x : Word),
    laneXlat s (coreOfKey id.key) w.ctx (f.priv != 0) .fetch f ⟨0, f.pc.setWidth 64, 4⟩ = .ok l → l.host = false → nextWord s id w f = .word x →
    x = BitVec.ofNat 32 (natOfBytes ((List.range 4).map fun i =>
      match if l.cls = .swm then dirtySwm s (l.pa + i) else none with
      | some y => byteAt y.data ((l.pa + i) % 256)
      | none => coherentByte s (l.pa + i)))) ∧
  (∀ (s t : State) (e : Internal) (r : List (Nat × Internal)), takeDue s.now s.inbox = none → takeDue s.now s.due = some (e, r) →
    exec e.instr { s with due := r } = .next t → step s = .next { t with now := s.now, turn := s.turn })

/-- LD and SLD read the bytes at their places into the registers, and change no byte. (R194, R200, R201, R204, R182, R271) -/
def Obligations.LoadsReadTheirBytes : Prop :=
  ∀ (o : MemOp) (s : State) (w : Swell) (f : Frag) (ls : List LaneLoc), Quiet s → NoLines s → f.outst = [] →
    let n := sizeBytes o.sz
    let read (group : Bool) (t : State) : Prop := Accessed s t s.cur ∧ t.due = s.due ∧ t.msgs = s.msgs ∧ (∀ a, byteAt t.mem a = byteAt s.mem a) ∧
      t.swellAt s.cur.swell = some ((w.writeLoad group o.sz o.d (ls.map fun l => (l.lane, readBytes s.mem l.loc.pa n))).setEnt s.cur.ent (f.onward s.now))
    let missed (group : Bool) (t : State) : Prop := Accessed s t s.cur ∧ SameBytes s t ∧ t.msgs = [] ∧ ∀ l ∈ ls,
      (∃ x, Fresh w f x (.load { sz := o.sz, group := group, d := o.d, a := o.a, disp := memOffset o.off n f.hints.wide, lanes := [l], got := [], notBefore := none, acq := f.acq, cp := f.cp }) o.la.toNat ∧ x.sent = s.now ∧
        t.swellAt s.cur.swell = some ({ w with nextOp := w.nextOp + 1 }.setEnt s.cur.ent (f.sent s.now x))) ∧
      let line := l.loc.pa / 256
      kvGet (t.die l.loc.die).misses line = some [⟨s.cur.swell, w.nextOp, l.lane, line, s.now, none⟩] ∧ Comes t (.sliceMissFill l.loc.die (sliceOf (line * 256)) line)
    (∀ l ∈ ls, Direct s f n l) →
    let both (P Q : State → Prop) (i : Instr) : Prop := ((∀ l ∈ ls, homeHas s l.loc n = true) → Answers i s P) ∧
      ((∃ l, ls = [l] ∧ homeHas s l.loc n = false) → Answers i s Q)
    (Ready s w f { wide := true, pmx := true, acq := true, cp := true } [o.d.toNat + sizeRegs o.sz - 1, o.a.toNat + 1] →
      Placed s w f .load (memLanes w f o) ls → both (read false) (missed false) (.ld o)) ∧
    (Ready s w f { wide := true, acq := true, cp := true } [] → Placed s w f .load (memGroup w f o) ls → both (read true) (missed true) (.sld o))

/-- Loaded bytes are extended by their size, stored registers give their low bytes. (R84, R201, R202) -/
def Obligations.LoadedBytesBecomeRegisterValues : Prop :=
  ∀ (bs : List Byte) (a b c d : Word),
    (bs.length = 1 → (loadWords .s8 bs).map BitVec.toInt = [(BitVec.ofNat 8 (natOfBytes bs)).toInt] ∧ (loadWords .z8 bs).map BitVec.toNat = [natOfBytes bs]) ∧
    (bs.length = 2 → (loadWords .s16 bs).map BitVec.toInt = [(BitVec.ofNat 16 (natOfBytes bs)).toInt] ∧ (loadWords .z16 bs).map BitVec.toNat = [natOfBytes bs]) ∧
    (bs.length = 4 → (loadWords .w32 bs).map BitVec.toNat = [natOfBytes bs]) ∧
    loadWords .w64 (storeBytes .w64 [a, b]) = [a, b] ∧ loadWords .w128 (storeBytes .w128 [a, b, c, d]) = [a, b, c, d] ∧
    storeBytes .w32 [a] = wordBytes a ∧ storeBytes .s16 [a] = (wordBytes a).take 2 ∧ storeBytes .z8 [a] = (wordBytes a).take 1

/-- ST and SST write exactly the bytes at their places, higher lanes last. (R194, R197, R200, R202, R204) -/
def Obligations.StoresWriteTheirBytes : Prop :=
  ∀ (o : MemOp) (s : State) (w : Swell) (f : Frag) (ls : List LaneLoc), Quiet s → NoLines s → f.outst = [] →
    let n := sizeBytes o.sz
    let wrote (data : Nat → List Byte) (t : State) : Prop := Accessed s t s.cur ∧ t.due = s.due ∧ t.msgs = s.msgs ∧
      (∀ a, byteAt t.mem a = Spec.stored (byteAt s.mem) (ls.map fun l => (l.loc.pa, data l.lane)) a) ∧
      (∀ a, (∀ l ∈ ls, a < l.loc.pa ∨ l.loc.pa + n ≤ a) → byteAt t.mem a = byteAt s.mem a) ∧
      t.swellAt s.cur.swell = some (w.setEnt s.cur.ent (f.onward s.now))
    (∀ l ∈ ls, Direct s f n l) →
    (Ready s w f { wide := true, pmx := true, rel := true, cp := true } [o.d.toNat + sizeRegs o.sz - 1, o.a.toNat + 1] →
      Placed s w f .store (memLanes w f o) ls → Answers (.st o) s (wrote fun l => storeBytes o.sz (Spec.laneWords w o l))) ∧
    (Ready s w f { wide := true, rel := true, cp := true } [] → Placed s w f .store (memGroup w f o) ls →
      Answers (.sst o) s (wrote fun _ => storeBytes o.sz ((List.range (sizeRegs o.sz)).map fun i => w.sreg (o.d + BitVec.ofNat 7 i))))

/-- A store of a cached page stays dirty in the L1; a store to another die’s home that the L1 does not keep is posted. (R182, R183, R281, R282, R344) -/
def Obligations.StoresAreKeptOrPosted : Prop :=
  ∀ (o : MemOp) (s : State) (w : Swell) (f : Frag) (l : LaneLoc), Quiet s → NoLines s → f.outst = [] →
    let n := sizeBytes o.sz
    let c := coreOfKey s.cur.key
    let kept (data : List Byte) (t : State) : Prop := (∀ a, byteAt t.mem a = byteAt s.mem a) ∧ Accessed s t s.cur ∧
      t.swellAt s.cur.swell = some (w.setEnt s.cur.ent (f.onward s.now)) ∧ (s.now + 65536, Internal.l1WritebackDeadline c (l.loc.pa / 256)) ∈ t.due ∧
      ∃ x, l1Find t c (l.loc.pa / 256) = some x ∧ x.dirty = rangeMask (l.loc.pa % 256) n ∧ x.present = rangeMask (l.loc.pa % 256) n ∧
        x.cls = l.loc.cls ∧ x.bytes (l.loc.pa % 256) n = data
    let posted (data : List Byte) (t : State) : Prop := (∀ a, byteAt t.mem a = byteAt s.mem a) ∧ Accessed s t s.cur ∧
      t.swellAt s.cur.swell = some (w.setEnt s.cur.ent (f.onward s.now)) ∧
      t.msgs = [(s.nextMsg, ⟨s.cur, w.ctx, swellLaunch s s.cur.uid, l.va, l.loc, .store data⟩)] ∧ t.nextMsg = s.nextMsg + 1 ∧
      (s.now + (20 + 40 * meshHops (dieOfKey s.cur.key) l.loc.die), Internal.homeWrite s.nextMsg) ∈ t.due
    let st (P : List Byte → State → Prop) : Prop :=
      (Ready s w f { wide := true, pmx := true, rel := true, cp := true } [o.d.toNat + sizeRegs o.sz - 1, o.a.toNat + 1] →
        Placed s w f .store (memLanes w f o) [l] → Answers (.st o) s (P (storeBytes o.sz (Spec.laneWords w o l.lane)))) ∧
      (Ready s w f { wide := true, rel := true, cp := true } [] → Placed s w f .store (memGroup w f o) [l] →
        Answers (.sst o) s (P (storeBytes o.sz ((List.range (sizeRegs o.sz)).map fun i => w.sreg (o.d + BitVec.ofNat 7 i)))))
    HbmPlace n l →
    (l.loc.die = dieOfKey s.cur.key → l.loc.ms = false → (f.cp = .normal ∨ f.cp = .stream) → l1Sets (s.core c) ≠ 0 → st kept) ∧
    (Remote s n l → (l.loc.ms = true ∨ l.loc.cls = .ucr) → st posted)

/-- LD and SLD of places on other dies become outstanding; each lane’s request sets out for its home. (R199, R70, R265, R196) -/
def Obligations.LoadsFromAfarAreOutstanding : Prop :=
  ∀ (o : MemOp) (s : State) (w : Swell) (f : Frag) (ls : List LaneLoc), Quiet s → NoLines s → f.outst = [] → ls ≠ [] → (∀ l ∈ ls, Remote s (sizeBytes o.sz) l) →
    let far (group : Bool) (t : State) : Prop := Accessed s t s.cur ∧ (∀ a, byteAt t.mem a = byteAt s.mem a) ∧
      (∃ x, Fresh w f x (.load { sz := o.sz, group := group, d := o.d, a := o.a, disp := memOffset o.off (sizeBytes o.sz) f.hints.wide, lanes := ls, got := [], notBefore := none, acq := f.acq, cp := f.cp }) o.la.toNat ∧
        t.swellAt s.cur.swell = some ({ w with nextOp := w.nextOp + 1 }.setEnt s.cur.ent (f.sent s.now x)) ∧ x.sent = s.now) ∧
      (∀ l ∈ ls, ∃ k, kvGet t.msgs k = some ⟨s.cur, w.ctx, swellLaunch s s.cur.uid, l.va, l.loc, .load w.nextOp l.lane (sizeBytes o.sz)⟩ ∧
        (s.now + (20 + 40 * meshHops (dieOfKey s.cur.key) l.loc.die), Internal.homeWrite k) ∈ t.due) ∧
      (s.now + 2 ^ 24, Internal.accessTimeout s.cur.swell w.nextOp) ∈ t.due
    (Ready s w f { wide := true, pmx := true, acq := true, cp := true } [o.d.toNat + sizeRegs o.sz - 1, o.a.toNat + 1] →
      Placed s w f .load (memLanes w f o) ls → Answers (.ld o) s (far false)) ∧
    (Ready s w f { wide := true, acq := true, cp := true } [] → Placed s w f .load (memGroup w f o) ls → Answers (.sld o) s (far true))

/-- A misaligned lowest lane takes ALIGN, and any failed check takes its fault, with nothing performed. (R195, R196, R55, R56) -/
def Obligations.MemoryChecksComeBeforeTheAccess : Prop :=
  ∀ (s : State) (w : Swell) (f : Frag), f.outst = [] →
    let bad (a : LaneAcc) : Prop := a.va.extractLsb' 56 8 ≠ 0 ∨ a.va.toNat % a.size ≠ 0
    let fails (i : Instr) (k : AccKind) (as : List LaneAcc) : Prop :=
      (∀ a rest, as = a :: rest → bad a → exec i s = .next (s.takeFault s.cur ⟨.align, a.va, a.lane, k.writes, false⟩)) ∧
      (∀ r, lanePlaces s (coreOfKey s.cur.key) w.ctx (f.priv != 0) k f as = .error (some r) → exec i s = .next (s.takeFault s.cur r))
    (∀ o : MemOp,
      (Ready s w f { wide := true, pmx := true, acq := true, cp := true } [o.d.toNat + sizeRegs o.sz - 1, o.a.toNat + 1] → fails (.ld o) .load (memLanes w f o)) ∧
      (Ready s w f { wide := true, pmx := true, rel := true, cp := true } [o.d.toNat + sizeRegs o.sz - 1, o.a.toNat + 1] → fails (.st o) .store (memLanes w f o)) ∧
      (Ready s w f { wide := true, acq := true, cp := true } [] → fails (.sld o) .load (memGroup w f o)) ∧
      (Ready s w f { wide := true, rel := true, cp := true } [] → fails (.sst o) .store (memGroup w f o))) ∧
    (∀ o : Reg3, Ready s w f { pmx := true, acq := true, rel := true, lae := true } [o.d.toNat, o.a.toNat + 1, o.b.toNat] → fails (.atomAdd o) .atomic (wordLanes w f o.a)) ∧
    (∀ o : RedOp, Ready s w f { pmx := true, rel := true, lae := true } [o.a.toNat + 1, o.b.toNat] → fails (.redAdd o) .atomic (wordLanes w f o.a)) ∧
    (∀ o : Reg3, Ready s w f { pmx := true, acq := true, lae := true, noTpe := true } [o.d.toNat, o.a.toNat + 1, o.b.toNat] → fails (.waitvEq o) .wait (wordLanes w f o.a))

/-- LDS reads scratch bytes into the lanes’ registers; STS writes exactly its bytes and leaves the tags. (R222, R224, R225, R194) -/
def Obligations.ScratchWordsReadAndWrite : Prop :=
  ∀ (o : MemOp) (s : State) (w : Swell) (f : Frag), Quiet s → f.outst = [] →
    Ready s w f { wide := true, pmx := true } [o.d.toNat + sizeRegs o.sz - 1, o.a.toNat] →
    let n := sizeBytes o.sz
    let c := coreOfKey s.cur.key
    let ls := (lanesOf (lanesActive w f f.pmx)).map fun l => (l.val, (w.vreg o.a)[l] + (memOffset o.off n f.hints.wide).setWidth 32)
    ((∀ l ∈ ls, InScratch s w l.2 n n false) → Answers (.lds o) s fun t =>
      Performed s t (w.writeLoad false o.sz o.d (ls.map fun l => (l.1, readBytes (s.core (scratchCore c l.2)).scratch (scratchOff l.2) n))) (f.onward s.now)) ∧
    ((∀ l ∈ ls, InScratch s w l.2 n n true) → Answers (.sts o) s fun t => Scratched s t s.cur ∧
      (∀ k, (t.core k).full = (s.core k).full ∧ ∀ a, byteAt (t.core k).scratch a =
        Spec.stored (byteAt (s.core k).scratch) ((ls.filter fun l => scratchCore c l.2 == k).map fun l => (scratchOff l.2, storeBytes o.sz (Spec.laneWords w o l.1))) a) ∧
      t.swellAt s.cur.swell = some (w.setEnt s.cur.ent (f.onward s.now))) ∧
    (∀ l rest, ls = l :: rest → l.2.toNat % n ≠ 0 →
      exec (.lds o) s = .next (s.takeFault s.cur ⟨.align, l.2.setWidth 64, l.1, false, false⟩) ∧ exec (.sts o) s = .next (s.takeFault s.cur ⟨.align, l.2.setWidth 64, l.1, true, false⟩)) ∧
    (∀ l rest, ls = l :: rest → l.2.toNat % n = 0 → 2 ^ 25 ≤ l.2.toNat →
      exec (.lds o) s = .next (s.takeFault s.cur ⟨.scratch, l.2.setWidth 64, l.1, false, false⟩))

/-- LDF, LDC, STP, STF and SETE act on a word and its tag, or wait; TAGQ reads the tags. (R227, R228, R229, R230, R231, R47) -/
def Obligations.TaggedWordsActOnFullAndEmpty : Prop :=
  ∀ (o : TagOp) (s : State) (w : Swell) (f : Frag), Quiet s → NoLines s → f.outst = [] →
    let c := coreOfKey s.cur.key
    let lanes := lanesActive w f f.pmx
    let go (t : State) (u : Swell) : Prop := t.swellAt s.cur.swell = some (u.setEnt s.cur.ent (f.onward s.now))
    let begin (t : State) (u : Swell) : Prop := t.swellAt s.cur.swell = some ((u.setEnt s.cur.ent (f.onward s.now)).newRegion s.cur.ent)
    let into (x : TagLane) (v : Word) : Swell := if o.bs then w.setV lanes o.d (Vector.replicate 32 v) else w.setLane ⟨x.lane % 32, Nat.mod_lt _ (by decide)⟩ o.d [v]
    let waits (m : TagMember) (t : State) : Prop := Scratched s t s.cur ∧ (∀ k a, byteAt (t.core k).scratch a = byteAt (s.core k).scratch a) ∧ (∀ k, (t.core k).full = (s.core k).full) ∧
      ∃ u x g, t.swellAt s.cur.swell = some u ∧ SwellKept w u s.cur.ent ∧ u.ent s.cur.ent = g ∧ g.outst = [x] ∧ x.id = w.nextOp ∧ x.pc = f.pc ∧
        (∃ d todo done, x.kind = .wait (.tag m o.bs d todo lanes done)) ∧ g.pc = f.follow (nextPc f.pc) ∧
        (o.la = 0 ∨ m ≠ .ldf → g.st = 1 ∧ g.wkind = 1) ∧ (o.la ≠ 0 → m = .ldf → g.st = f.st)
    ∀ x, tagLanes w f o.bs (some o.d) o.a = [x] →
    let own := scratchCore c x.sa
    let word := scratchOff x.sa / 4
    let v := wordOfList (readBytes (s.core own).scratch (scratchOff x.sa) 4)
    let isFull : Bool := (s.core own).full.contains word
    let same (t : State) : Prop := ∀ k a, byteAt (t.core k).scratch a = byteAt (s.core k).scratch a
    let tags (t : State) (b : Bool) : Prop := ∀ k n, (t.core k).full.contains n = if k = own ∧ n = word then b else (s.core k).full.contains n
    let stored (t : State) : Prop := Scratched s t s.cur ∧ tags t true ∧
      ∀ k a, byteAt (t.core k).scratch a = if k = own then Spec.stored (byteAt (s.core k).scratch) [(scratchOff x.sa, wordBytes x.data)] a else byteAt (s.core k).scratch a
    (Ready s w f { pmx := true } ([o.d.toNat] ++ if o.bs then [] else [o.a.toNat]) →
      (InScratch s w x.sa 4 4 false →
        (isFull = true → Answers (.ldf o) s fun t => Scratched s t s.cur ∧ same t ∧ tags t true ∧ go t (into x v)) ∧
        (isFull = false → Answers (.ldf o) s (waits .ldf))) ∧
      (InScratch s w x.sa 4 4 true →
        (isFull = true → Answers (.ldc o) s (fun t => Scratched s t s.cur ∧ same t ∧ tags t false ∧ begin t (into x v)) ∧ Answers (.stp o) s (waits .stp)) ∧
        (isFull = false → Answers (.ldc o) s (waits .ldc) ∧ Answers (.stp o) s (fun t => stored t ∧ begin t w)) ∧
        Answers (.stf o) s (fun t => stored t ∧ begin t w))) ∧
    (Ready s w f { pmx := true } (if o.bs then [] else [o.a.toNat]) → InScratch s w x.sa 4 4 true →
      Answers (.sete ⟨o.a, o.bs, o.la⟩) s fun t => Scratched s t s.cur ∧ same t ∧ tags t false ∧ begin t w) ∧
    (Ready s w f { pmx := true } (if o.bs then [] else [o.a.toNat]) → o.bs = false → InScratch s w x.sa 4 4 false →
      Answers (.tagq o) s fun t => Performed s t (w.setS o.d (if isFull then BitVec.twoPow 32 x.lane else 0)) (f.onward s.now))

/-- BINIT, ARRIVE, ARRIVEX and BWAIT act on a barrier object as its fields say. (R235, R236, R237, R238, R239, R240, R47) -/
def Obligations.BarriersCountArrivals : Prop :=
  ∀ (o : Reg2LA) (s : State) (w : Swell) (f : Frag), Quiet s → NoLines s → f.outst = [] → Ready s w f {} [] →
    let sa := w.sreg o.a
    let x := w.sreg o.d
    let own := scratchCore (coreOfKey s.cur.key) sa
    let off := scratchOff sa
    let b := barRead (s.core own) off
    let phase (t : State) (g : Nat) : Prop := (t.core own).full.contains ((off + 16) / 4) = true ∧ wordOfList (readBytes (t.core own).scratch (off + 16) 4) = BitVec.ofNat 32 g
    let only (t : State) : Prop := Scratched s t s.cur ∧ (∀ k, k ≠ own → ∀ a, byteAt (t.core k).scratch a = byteAt (s.core k).scratch a) ∧
      (∀ a, a < off ∨ off + 20 ≤ a → byteAt (t.core own).scratch a = byteAt (s.core own).scratch a) ∧
      (∀ k n, k ≠ own ∨ n ≠ (off + 16) / 4 → (t.core k).full.contains n = (s.core k).full.contains n)
    let begin (t : State) (u : Swell) : Prop := t.swellAt s.cur.swell = some ((u.setEnt s.cur.ent (f.onward s.now)).newRegion s.cur.ent)
    let arrived (inb : Nat) (t : State) : Prop := only t ∧ begin t (w.setS o.d (BitVec.ofNat 32 b.gen)) ∧
      (if b.pend = 1 ∧ inb = 0 ∧ b.outb = 0 then
        barRead (t.core own) off = { b with inb := inb, gen := (b.gen + 1) % 16, pend := b.exp } ∧ phase t ((b.gen + 1) % 16)
      else barRead (t.core own) off = { b with inb := inb, pend := b.pend - 1 } ∧ (t.core own).full = (s.core own).full ∧
        ∀ i < 4, byteAt (t.core own).scratch (off + 16 + i) = byteAt (s.core own).scratch (off + 16 + i))
    InScratch s w sa 20 16 true →
    (1 ≤ x.toNat → x.toNat ≤ 65535 → Answers (.binit o) s fun t => only t ∧ begin t w ∧ phase t 0 ∧
      barRead (t.core own) off = ⟨false, 0, 0, x.toNat, x.toNat, 0⟩) ∧
    (x.toNat = 0 ∨ 65535 < x.toNat → exec (.binit o) s = .next (s.takeFault s.cur (plainFault .scratch (sa.setWidth 64)))) ∧
    (b.pend ≠ 0 → Answers (.arrive o) s (arrived b.inb) ∧ Answers (.arrivex o) s (arrived ((b.inb + x.toNat) % 2 ^ 32))) ∧
    (let g := wordOfList (readBytes (s.core own).scratch (off + 16) 4);
      ((s.core own).full.contains ((off + 16) / 4) = true → g ≠ x → Answers (.bwait o) s fun t => Performed s t w (f.onward s.now)) ∧
      ((s.core own).full.contains ((off + 16) / 4) = false ∨ g = x → o.la = 0 → Answers (.bwait o) s fun t => Scratched s t s.cur ∧
        (∀ k a, byteAt (t.core k).scratch a = byteAt (s.core k).scratch a) ∧ ∃ u y, t.swellAt s.cur.swell = some u ∧ SwellKept w u s.cur.ent ∧
        (u.ent s.cur.ent).st = 1 ∧ (u.ent s.cur.ent).wkind = 2 ∧ (u.ent s.cur.ent).waddr = sa.setWidth 64 ∧ (u.ent s.cur.ent).wval = x.setWidth 64 ∧
        (u.ent s.cur.ent).outst = [y] ∧ y.kind = .wait (.bwait sa x)))

/-- ATOM, RED and SATOM perform their operation on each lane’s word in lane order; old values come with the reply. (R205, R206, R207, R208, R209, R266, R47) -/
def Obligations.AtomicsActAtTheHome : Prop :=
  let forms : List (AtomCode × (Reg3 → Instr) × (Reg3 → Instr) × Option (RedOp → Instr) × Bool) := [(.add, .atomAdd, .satomAdd, some .redAdd, false), (.and, .atomAnd, .satomAnd, some .redAnd, false), (.or, .atomOr, .satomOr, some .redOr, false), (.xor, .atomXor, .satomXor, some .redXor, false), (.min, .atomMin, .satomMin, some .redMin, false), (.max, .atomMax, .satomMax, some .redMax, false), (.minn, .atomMinn, .satomMinn, some .redMinn, false), (.maxn, .atomMaxn, .satomMaxn, some .redMaxn, false), (.xchg, .atomXchg, .satomXchg, none, false), (.cas, .atomCas, .satomCas, none, true), (.fadd, .atomFadd, .satomFadd, some .redFadd, false), (.fmin, .atomFmin, .satomFmin, some .redFmin, false), (.fmax, .atomFmax, .satomFmax, some .redFmax, false), (.inc, .atomInc, .satomInc, some .redInc, false)]
  ∀ p ∈ forms.zip Spec.atom, ∀ (o : Reg3) (s : State) (w : Swell) (f : Frag) (ls : List LaneLoc), Quiet s → NoLines s → f.outst = [] →
    let last (r : Reg) : Nat := if p.1.2.2.2.2 then r.toNat + 1 else r.toNat
    let lanes (l : Nat) : Word × Word := ((w.vreg o.b)[l % 32]'(Nat.mod_lt _ (by decide)), (w.vreg (o.b + 1))[l % 32]'(Nat.mod_lt _ (by decide)))
    let group (_ : Nat) : Word × Word := (w.sreg o.b, w.sreg (o.b + 1))
    let changed (operand : Nat → Word × Word) (t : State) : Prop := Accessed s t s.cur ∧ t.msgs = s.msgs ∧
      (∀ a, byteAt t.mem a = byteAt (Spec.atomRun p.2 operand s.mem ls).2 a) ∧ (∀ a, (∀ l ∈ ls, a < l.loc.pa ∨ l.loc.pa + 4 ≤ a) → byteAt t.mem a = byteAt s.mem a)
    let begun (g : Bool) (olds : List (Nat × Word)) (t : State) : Prop := ∃ x, Fresh w f x (.atomic g f.acq o.d olds (ls.map fun l => (l.lane, l.va))) f.lav ∧
      t.swellAt s.cur.swell = some (({ w with nextOp := w.nextOp + 1 }.setEnt s.cur.ent (f.sent s.now x)).newRegion s.cur.ent)
    let replies (g : Bool) (operand : Nat → Word × Word) (t : State) : Prop :=
      changed operand t ∧ begun g (Spec.atomRun p.2 operand s.mem ls).1 t ∧ Comes t (.atomicReply s.cur.swell w.nextOp)
    let way (op : Option Nat) (operand : Nat → Word × Word) (t : State) : Prop := Accessed s t s.cur ∧ SameBytes s t ∧
      ∀ l ∈ ls, ∃ k, kvGet t.msgs k = some ⟨s.cur, w.ctx, swellLaunch s s.cur.uid, l.va, l.loc, .atomic op l.lane p.1.1 (operand l.lane).1 (operand l.lane).2⟩ ∧
        (s.now + (20 + 40 * meshHops (dieOfKey s.cur.key) l.loc.die), Internal.homeWrite k) ∈ t.due
    let ended (t : State) : Prop := t.swellAt s.cur.swell = some ((w.setEnt s.cur.ent (f.onward s.now)).newRegion s.cur.ent)
    (w.scfg.getLsbD 0 = true ∨ (ls.map fun l => l.loc.pa).Nodup) →
    let both (i : Instr) (here far : State → Prop) : Prop := ((∀ l ∈ ls, Local s 4 l ∧ homeHas s l.loc 4 = true) → Answers i s here) ∧ ((∀ l ∈ ls, Remote s 4 l) → Answers i s far)
    (Ready s w f { pmx := true, acq := true, rel := true, lae := true } [o.d.toNat, o.a.toNat + 1, last o.b] → Placed s w f .atomic (wordLanes w f o.a) ls → ls ≠ [] →
      both (p.1.2.1 o) (replies false lanes) fun t => way (some w.nextOp) lanes t ∧ begun false [] t) ∧
    (Ready s w f { acq := true, rel := true, lae := true } [] → Placed s w f .atomic [⟨0, w.spair o.a, 4⟩] ls →
      both (p.1.2.2.1 o) (replies true group) fun t => way (some w.nextOp) group t ∧ begun true [] t) ∧
    (∀ red, p.1.2.2.2.1 = some red → Ready s w f { pmx := true, rel := true, lae := true } [o.a.toNat + 1, o.b.toNat] → Placed s w f .atomic (wordLanes w f o.a) ls →
      both (red ⟨o.a, o.b⟩) (fun t => changed (fun l => ((lanes l).1, 0)) t ∧ ended t) fun t => way none (fun l => ((lanes l).1, 0)) t ∧ ended t)

/-- TIME writes both halves of one reading of the die’s ATIME. (R373) -/
def Obligations.TimeReadsAtime : Prop :=
  ∀ (r q : Reg) (s : State) (w : Swell) (f : Frag), Ready s w f {} [] →
    let u := w.setSPair r (s.atime (dieOfKey s.cur.key))
    Answers (.time r) s (fun t => Performed s t u (f.onward s.now)) ∧
    u.sreg q = if q = 0 then 0 else if q = r + 1 then (s.atime (dieOfKey s.cur.key)).extractLsb' 32 32
      else if q = r then (s.atime (dieOfKey s.cur.key)).extractLsb' 0 32 else w.sreg q

/-- WAITV and SWAITV arm every lane and wait; TWAIT waits for its time; LDT and STT go to their homes under their times. (R210, R211, R41, R374, R380, R381, R375) -/
def Obligations.WaitsForValuesAndTimes : Prop :=
  ∀ (s : State) (w : Swell) (f : Frag), Quiet s → NoLines s → f.outst = [] →
    let own := dieOfKey s.cur.key
    let same (t : State) : Prop := Accessed s t s.cur ∧ ∀ a, byteAt t.mem a = byteAt s.mem a
    (∀ p ∈ ([(.eq, .waitvEq, .swaitvEq), (.ne, .waitvNe, .swaitvNe), (.gen, .waitvGen, .swaitvGen), (.gtn, .waitvGtn, .swaitvGtn)] : List (WaitCond × (Reg3 → Instr) × (Reg3 → Instr))),
      ∀ (o : Reg3) (l : LaneLoc) (rest : List LaneLoc), (∀ y ∈ l :: rest, HbmPlace 4 y) →
      let armed (group : Bool) (cmp : Nat → Word) (t : State) : Prop := same t ∧
        (∀ y ∈ l :: rest, ∃ k, kvGet t.msgs k = some ⟨s.cur, w.ctx, swellLaunch s s.cur.uid, y.va, y.loc, .arm y.lane⟩ ∧
          (s.now + (20 + 40 * meshHops own y.loc.die), Internal.homeWrite k) ∈ t.due) ∧
        ∃ u x, t.swellAt s.cur.swell = some u ∧ SwellKept w u s.cur.ent ∧ u.region = w.region ∧ (u.ent s.cur.ent).outst = [x] ∧ (u.ent s.cur.ent).pc = f.follow (nextPc f.pc) ∧
          Fresh w f x (.wait (.value p.1 group o.d ((l :: rest).map fun y => ⟨y.lane, y.va, y.loc, cmp y.lane, none⟩))) f.lav ∧
          (f.lav = 0 → (u.ent s.cur.ent).st = 1 ∧ (u.ent s.cur.ent).wkind = 5 ∧ (u.ent s.cur.ent).waddr = l.va ∧ (u.ent s.cur.ent).wval = (cmp l.lane).setWidth 64) ∧
          (f.lav ≠ 0 → (u.ent s.cur.ent).st = f.st)
      (Ready s w f { pmx := true, acq := true, lae := true, noTpe := true } [o.d.toNat, o.a.toNat + 1, o.b.toNat] → Placed s w f .wait (wordLanes w f o.a) (l :: rest) →
        Answers (p.2.1 o) s (armed false fun i => (w.vreg o.b)[i % 32]'(Nat.mod_lt _ (by decide)))) ∧
      (Ready s w f { acq := true, lae := true, noTpe := true } [] → Placed s w f .wait [⟨0, w.spair o.a, 4⟩] (l :: rest) → Answers (p.2.2 o) s (armed true fun _ => w.sreg o.b))) ∧
    (∀ r : Reg, Ready s w f {} [] → let t0 := (s.atime own).toNat;
      ((w.spair r).toNat ≤ t0 → Answers (.twait r) s fun t => Performed s t w (f.onward s.now)) ∧
      (t0 < (w.spair r).toNat → Answers (.twait r) s fun t => same t ∧ (s.now + ((w.spair r).toNat - t0), Internal.twaitExpiry s.cur) ∈ t.due ∧
        t.swellAt s.cur.swell = some (w.setEnt s.cur.ent { f with st := 1, wkind := 6, waddr := 0, wval := w.spair r, wait := some (.twait (w.spair r)), age := 0 }))) ∧
    (∀ (o : MemOp) (ls : List LaneLoc), Ready s w f { wide := true, pmx := true, te := true } [o.d.toNat + sizeRegs o.sz - 1, o.a.toNat + 1] →
      (∀ l ∈ ls, HbmPlace (sizeBytes o.sz) l) → ls ≠ [] →
      let sent (t : State) (k : LaneLoc → MsgKind) : Prop := ∀ l ∈ ls, ∃ n, (n, (⟨s.cur, w.ctx, swellLaunch s s.cur.uid, l.va, l.loc, k l⟩ : Msg)) ∈ t.msgs
      (∀ m, f.hints.mods = some m → m.te = true →
        (Placed s w f .timedLoad (memLanes w f o) ls → Answers (.ldt o) s fun t => same t ∧
          sent t (fun l => .timedLoad w.nextOp l.lane (sizeBytes o.sz) (w.spair m.ts)) ∧
          ∃ x, Fresh w f x (.load { sz := o.sz, group := false, d := o.d, a := o.a, disp := memOffset o.off (sizeBytes o.sz) f.hints.wide, lanes := ls, got := [], notBefore := some (w.spair m.ts), acq := false, cp := .normal }) o.la.toNat ∧
            t.swellAt s.cur.swell = some ({ w with nextOp := w.nextOp + 1 }.setEnt s.cur.ent (f.sent s.now x))) ∧
        (Placed s w f .timedStore (memLanes w f o) ls → Answers (.stt o) s fun t => same t ∧
          sent t (fun l => .timedStore (storeBytes o.sz (Spec.laneWords w o l.lane)) (w.spair m.ts)) ∧
          t.swellAt s.cur.swell = some ((w.setEnt s.cur.ent (f.onward s.now)).newRegion s.cur.ent))) ∧
      ((∀ m, f.hints.mods = some m → m.te = false) →
        exec (.ldt o) s = .next (s.takeFault s.cur (plainFault .illegal ((packMem 0x35 o.d o.a o.sz.bits o.off o.la).setWidth 64))) ∧
        exec (.stt o) s = .next (s.takeFault s.cur (plainFault .illegal ((packMem 0x36 o.d o.a o.sz.bits o.off o.la).setWidth 64)))))

/-- FENCE writes back and drops the L1 lines of its scope; CLEAN, INV and CLINV act on the lines of their range. (R283, R286, R287, R288, R289, R290, R291, R348, R357) -/
def Obligations.FencesAndCacheMaintenance : Prop :=
  ∀ (s : State) (w : Swell) (f : Frag), Quiet s → f.outst = [] → Ready s w f {} [] →
    let c := coreOfKey s.cur.key
    let lines := (s.core c).l1
    (lines.map CacheLine.line).Nodup → (∀ x ∈ lines, paDie (x.line * 256) = dieOfKey s.cur.key) →
    let on (t : State) : Prop := t.swellAt s.cur.swell = some (w.setEnt s.cur.ent (f.onward s.now)) ∧ (∀ k, k ≠ s.cur.key → kvGet t.swells k = kvGet s.swells k) ∧
      (∀ k, (t.core k).scratch = (s.core k).scratch ∧ (t.core k).full = (s.core k).full) ∧ (∀ k, k ≠ c → (t.core k).l1 = (s.core k).l1)
    let written (P : CacheLine → Prop) (t : State) : Prop := ∀ x ∈ lines, P x → ∀ i, i < 256 → x.dirty.getLsbD i = true → byteAt t.mem (x.line * 256 + i) = byteAt x.data i
    let closed (x : CacheLine) : Prop := x.dirty ≠ 0 ∧ inShelf (x.line * 256) = true ∧ refreshLeft s (paDie (x.line * 256)) (shelfBank (x.line * 256)) ≠ 0
    let others (P : CacheLine → Prop) (t : State) : Prop := ∀ a, (∀ x ∈ lines, P x → x.line = a / 256 → x.dirty.getLsbD (a % 256) = false) → byteAt t.mem a = byteAt s.mem a
    (∀ scope : FenceScope,
      let takes (x : CacheLine) : Prop := x.cls ≠ .dp ∨ scope ≠ .core
      let clean (t : State) : Prop := (∀ x ∈ (t.core c).l1, takes x → x.dirty = 0) ∧ written takes t
      let drop (t : State) : Prop := ∀ x ∈ (t.core c).l1, takes x → x.cls = .ros
      let free : Prop := ∀ x ∈ lines, takes x → ¬ closed x
      let waits (t : State) : Prop := t.swellAt s.cur.swell = some w ∧ others takes t
      (free → Answers (.fenceRel scope) s (fun t => on t ∧ others takes t ∧ clean t ∧ ∀ x ∈ lines, ∃ y ∈ (t.core c).l1, y.line = x.line) ∧
        Answers (.fenceAr scope) s (fun t => on t ∧ others takes t ∧ clean t ∧ drop t)) ∧
      (¬ free → Answers (.fenceRel scope) s waits ∧ Answers (.fenceAr scope) s waits) ∧
      Answers (.fenceAcq scope) s (fun t => on t ∧ others takes t ∧ drop t)) ∧
    (∀ (o : Reg2LA) (ps : List CachePiece),
      let ea := (w.spair o.a).toNat
      let len := (w.sreg o.d).toNat
      let inside (x : CacheLine) : Prop := ∃ p ∈ ps, p.has x.line = true
      (ea % 256 ≠ 0 ∨ len % 256 ≠ 0 → exec (.clean o) s = .next (s.takeFault s.cur (plainFault .align (w.spair o.a))) ∧
        exec (.inv o) s = .next (s.takeFault s.cur (plainFault .align (w.spair o.a))) ∧ exec (.clinv o) s = .next (s.takeFault s.cur (plainFault .align (w.spair o.a)))) ∧
      (ea % 256 = 0 → len % 256 = 0 → ea < 2 ^ 56 → ea + len ≤ 2 ^ 56 → (∀ x ∈ lines, inside x → ¬ closed x) → cachePieces s c w.ctx (if len = 0 then [] else granules ea len) = (ps, s) →
        ((∀ p ∈ ps, accessCheck s w.ctx (dieOfCore c) (f.priv != 0) .clean p.leaf p.loc = none) →
          Answers (.clean o) s fun t => on t ∧ others inside t ∧ written inside t ∧ ∀ x ∈ (t.core c).l1, inside x → x.dirty = 0) ∧
        ((∀ p ∈ ps, accessCheck s w.ctx (dieOfCore c) (f.priv != 0) .inv p.leaf p.loc = none) →
          Answers (.clinv o) s (fun t => on t ∧ others inside t ∧ written inside t ∧ ∀ x ∈ (t.core c).l1, ¬ inside x) ∧
          Answers (.inv o) s (fun t => on t ∧ others (fun x => ∃ p ∈ ps, p.has x.line = true ∧ (p.loc.cls = .coh ∨ p.loc.cls = .ros)) t ∧ ∀ x ∈ (t.core c).l1, ¬ inside x))))

/-- MMA and MMAZ read their operands at issue and are outstanding; a bad format takes FORMAT; REORDER joins its collective. The model’s choice: a result is due a fixed number of ticks after issue, where the spec counts cycles (logs 2, 3 and 11). (R212, R213, R188, R217, R219, R27) -/
def Obligations.MatrixAndReorderAreSent : Prop :=
  ∀ (s : State) (w : Swell) (f : Frag), f.outst = [] →
    let c := coreOfKey s.cur.key
    (∀ p ∈ ([(.mma, false), (.mmaz, true)] : List ((Reg3LA → Instr) × Bool)), ∀ o : Reg3LA,
      Ready s w f { pmx := true, rse := true } [o.d.toNat + 15, o.a.toNat + 16, o.b.toNat + 8] →
      (f.fmt.toNat % 8 ≠ f.fmt.toNat / 8 % 8 ∨ 5 ≤ f.fmt.toNat % 8 → exec (p.1 o) s = .next (s.takeFault s.cur (plainFault .format (f.fmt.setWidth 64)))) ∧
      (∀ fmt, f.fmt.toNat % 8 = f.fmt.toNat / 8 % 8 → [MmaFmt.bs8, .bs4, .bf16, .fp16, .i8][f.fmt.toNat % 8]? = some fmt →
        Answers (p.1 o) s fun t => (∀ a, byteAt t.mem a = byteAt s.mem a) ∧ (∀ k a, byteAt (t.core k).scratch a = byteAt (s.core k).scratch a) ∧
          (∀ k, k ≠ s.cur.key → kvGet t.swells k = kvGet s.swells k) ∧ (s.now + fmt.latency, Internal.mmaResult s.cur.swell w.nextOp) ∈ t.due ∧
          ∃ (x : Outst) (op : MmaOp), Fresh w f x (.mma op) o.la.toNat ∧
            op = { op with fmt := fmt, zero := p.2, rm := f.env.rm, sat := f.env.sat, fz := f.env.fz, noscl := f.fmt.getLsbD 11, lanes := lanesActive w f f.pmx, d := o.d, a := (List.range 17).map fun i => w.vreg (o.a + BitVec.ofNat 7 i), b := (List.range 9).map fun i => w.vreg (o.b + BitVec.ofNat 7 i), c := some ((List.range 16).map fun i => w.vreg (o.d + BitVec.ofNat 7 i)), rerun := false } ∧
            t.swellAt s.cur.swell = some ({ w with nextOp := w.nextOp + 1 }.setEnt s.cur.ent { f.sent s.now x with lastMma := some (o.d.toNat, fmt) }))) ∧
    (∀ o : ReorderOp, Ready s w f { pmx := true } [o.d.toNat] →
      (1 < w.liveEnts.length → exec (.reorder o) s = .next (s.takeFault s.cur (plainFault .illegal ((packReg 0x39 o.d o.a o.id o.la).setWidth 64)))) ∧
      (w.liveEnts = [s.cur.ent] → f.heldKeys = [] → (∀ r, r < 32 → (w.sreg o.a).getLsbD r = true → r < w.n) → (s.swells.map fun x => x.1).Nodup →
        Answers (.reorder o) s fun t => SameBytes s t ∧ (∀ k, t.core k = { s.core k with latch := (t.core k).latch }) ∧
          t = { s with swells := t.swells, cores := t.cores, due := t.due } ∧
          (∀ k v, k ≠ s.cur.key → kvGet s.swells k = some v → ∃ u, kvGet t.swells k = some u ∧ u = { v with ents := u.ents } ∧
            ∀ e, u.ent e = { v.ent e with outst := (u.ent e).outst }) ∧
          ∃ x due, Fresh w f x (.reorder o.id.toNat (lanesActive w f f.pmx) o.d (w.sreg o.a ||| BitVec.twoPow 32 (o.d.toNat % 32)) due) o.la.toNat ∧
            (∀ n, due = some n → s.now + 66 ≤ n ∧ (n, Internal.reorderCompletion c w.launch o.id.toNat) ∈ t.due) ∧
            t.swellAt s.cur.swell = some (({ w with nextOp := w.nextOp + 1 }.setEnt s.cur.ent (f.sent s.now x)).newRegion s.cur.ent)))

/-- TEX, TEXQ, EMITP and RSHADE act in their frames, and take ILLEGAL outside them. The model’s choice: TEX is performed at issue (log 41), a descriptor is read as a load by its lane (log 19), and the packet of a primitive has the transit time of log 2. (R318, R319, R320, R334, R335, R336, R337) -/
def Obligations.RenderWordsActInTheirFrames : Prop :=
  ∀ (s : State) (w : Swell) (f : Frag), f.outst = [] →
    let c := coreOfKey s.cur.key
    let bad (i : Instr) (x : Word) : Prop := exec i s = .next (s.takeFault s.cur (plainFault .illegal (x.setWidth 64)))
    let one (l : Fin 32) : Prop := lanesOf (lanesActive w f f.pmx) = [l]
    let begin (t : State) (u : Swell) : Prop := t.swellAt s.cur.swell = some ((u.setEnt s.cur.ent (f.onward s.now)).newRegion s.cur.ent)
    (Ready s w f { pmx := true } [] → frameOf s w = none →
      (∀ o : Reg3LA, bad (.tex o) (packReg 0x3A o.d o.a o.b o.la)) ∧ (∀ o : Reg2LA, bad (.texq o) (packReg 0x3B o.d o.a 1 o.la) ∧
        bad (.emitp o) (packReg 0x3B o.d o.a 0 o.la) ∧ bad (.rshade o) (packReg 0x3B o.d o.a 2 o.la))) ∧
    (∀ (fr : Frame) (l : Fin 32), frameOf s w = some fr → one l →
      (Quiet s → NoLines s → l1Sets (s.core c) = 0 → (∀ e ∈ (s.core c).tlb ++ (s.cluster (clusterOfCore c)).tlb, ∀ va, (locOf e.leaf e.big va).die = dieOfCore c) →
        let same (t : State) : Prop := Accessed s t s.cur ∧ ∀ a, byteAt t.mem a = byteAt s.mem a
        (∀ (o : Reg3LA) ws s', Ready s w f { pmx := true } [o.d.toNat + 3, o.a.toNat + 1, o.b.toNat + 1] →
          texLane s w f fr (packReg 0x3A o.d o.a o.b o.la) l.val (w.vreg o.a)[l] (w.vreg (o.a + 1))[l] (w.vreg o.b)[l] (w.vreg (o.b + 1))[l] = .done ws s' →
          Answers (.tex o) s fun t => same t ∧ t.swellAt s.cur.swell = some ((w.setLane l o.d ws).setEnt s.cur.ent (f.onward s.now))) ∧
        (∀ (o : Reg2LA) ws s', Ready s w f { pmx := true } [o.d.toNat, o.a.toNat + 3] →
          texqLane s w f fr (packReg 0x3B o.d o.a 1 o.la) l.val (w.vreg o.a)[l] (w.vreg (o.a + 1))[l] (w.vreg (o.a + 2))[l] (w.vreg (o.a + 3))[l] = .done ws s' →
          Answers (.texq o) s fun t => same t ∧ t.swellAt s.cur.swell = some ((w.setLane l o.d ws).setEnt s.cur.ent (f.onward s.now)))) ∧
      (∀ o : Reg2LA, Ready s w f { pmx := true } [o.d.toNat, o.a.toNat + 11] → w.shades = false → fr.desc.reshade = false →
        let np := (kvGet fr.np w.task.toNat).getD 0
        let p := lanePrim w o.a l.val w.task.toNat np ((fr.draws[w.task.toNat]?).getD 0)
        let code (x : Word) (g : Frame) (t : State) : Prop := begin t (w.setLane l o.d [x]) ∧ frameOf t w = some g ∧ ∀ a, byteAt t.mem a = byteAt s.mem a
        let empty : Prop := primArea p = 0 ∨ primBox p fr.desc.width fr.desc.height = none
        let full : Prop := np = 65536 ∨ fr.nf = fr.desc.pmax
        (primBad p = true → Answers (.emitp o) s (code 0xFFFFFFFD { fr with cull := fr.cull + 1 })) ∧
        (primBad p = false → empty → Answers (.emitp o) s (code 0xFFFFFFFF { fr with cull := fr.cull + 1 })) ∧
        (primBad p = false → ¬ empty → full → Answers (.emitp o) s (code 0xFFFFFFFE { fr with ovf := true })) ∧
        (primBad p = false → ¬ empty → ¬ full → Answers (.emitp o) s fun t =>
          code (BitVec.ofNat 32 np) { fr with np := kvSet fr.np w.task.toNat (np + 1), nf := fr.nf + 1 } t ∧
          ∀ d ∈ primOwners fr p, ∃ k, kvGet t.msgs k = some ⟨s.cur, w.ctx, w.launch, 0, ⟨0, .dp, false, d, false⟩, .prim p⟩ ∧
            ((∀ x ∈ s.dies, ∀ y ∈ x.2.links, y.spilled = [] ∧ y.blocked = []) → ∃ n, s.now + (20 + 40 * meshHops (dieOfCore c) d) ≤ n ∧ (n, Internal.homeWrite k) ∈ t.due ∧
              (Quiet s → n = s.now + (20 + 40 * meshHops (dieOfCore c) d))))) ∧
      (∀ o : Reg2LA, Ready s w f { pmx := true } [o.d.toNat, o.a.toNat] → fr.desc.reshade = true →
        let tile := ((w.vreg o.a)[l]).toNat
        (fr.desc.tw * fr.desc.th ≤ tile → Answers (.rshade o) s fun t => begin t (w.setLane l o.d [2]) ∧ ∀ a, byteAt t.mem a = byteAt s.mem a) ∧
        (tile < fr.desc.tw * fr.desc.th → Quiet s → NoLines s → ∀ y, Placed s w f .atomic [⟨l.val, fr.desc.rmap + BitVec.ofNat 64 (tile / 8), 1⟩] [y] → HbmPlace 1 y →
          let old := byteAt s.mem y.loc.pa
          (old.getLsbD (tile % 8) = false → Answers (.rshade o) s fun t => begin t (w.setLane l o.d [1]) ∧ ∀ a, byteAt t.mem a = byteAt s.mem a) ∧
          (old.getLsbD (tile % 8) = true → Answers (.rshade o) s fun t => begin t (w.setLane l o.d [0]) ∧
            (∀ a, byteAt t.mem a = if a = y.loc.pa then old &&& ~~~(BitVec.twoPow 8 (tile % 8)) else byteAt s.mem a) ∧
            ∃ n d, (n, Internal.tileShadeStart d w.launch tile) ∈ t.due))))

/-- SEQTAKE, ENTER, LEAVE, LEAVE.END, ABANDON and SECTQ send their request; wrong order or state faults. (R294, R299, R300, R302, R303, R304, R305, R306, R47) -/
def Obligations.SectionWordsReachTheHome : Prop :=
  ∀ (s : State) (w : Swell) (f : Frag), Quiet s → NoLines s → f.outst = [] → Ready s w f {} [] →
    let same (t : State) : Prop := Accessed s t s.cur ∧ ∀ a, byteAt t.mem a = byteAt s.mem a
    let due (t : State) (k : Addr) (e : Internal) : Prop := (s.now + (20 + 40 * meshHops (dieOfKey s.cur.key) (keyHome s w.ctx k)), e) ∈ t.due
    let begin (t : State) (g : Frag) : Prop := t.swellAt s.cur.swell = some (({ w with nextOp := w.nextOp + 1 }.setEnt s.cur.ent g).newRegion s.cur.ent)
    (∀ o : Reg2LA, let k := w.spair o.a;
      Answers (.seqtake o) s (fun t => same t ∧ due t k (.seqtakeRequest ⟨s.cur, w.ctx, k, 0, o.d⟩) ∧ ∃ x, Fresh w f x .sect 0 ∧ begin t (f.sent s.now x)) ∧
      Answers (.sectq o) s (fun t => same t ∧ due t k (.sectqRequest ⟨s.cur, w.ctx, k, 0, o.d⟩) ∧ ∃ x, Fresh w f x .sect o.la.toNat ∧
        t.swellAt s.cur.swell = some ({ w with nextOp := w.nextOp + 1 }.setEnt s.cur.ent (f.sent s.now x))) ∧
      (f.heldKeys.length = 2 ∨ (∃ h ∈ f.heldKeys, k.toNat ≤ h.toNat) → exec (.enter o) s = .next (s.takeFault s.cur (plainFault .sectorder k))) ∧
      (f.heldKeys.length < 2 → (∀ h ∈ f.heldKeys, h.toNat < k.toNat) → Answers (.enter o) s fun t => same t ∧ due t k (.enterRequest ⟨s.cur, w.ctx, k, w.sreg o.d, o.d⟩) ∧
        ∃ u x g, t.swellAt s.cur.swell = some u ∧ SwellKept w u s.cur.ent ∧ u.ent s.cur.ent = g ∧ g.outst = [x] ∧ Fresh w f x (.wait (.enter k (w.sreg o.d) o.d)) o.la.toNat ∧
          g.st = 1 ∧ g.wkind = 3 ∧ g.waddr = k ∧ g.wval = (w.sreg o.d).setWidth 64 ∧ g.pc = f.follow (nextPc f.pc) ∧ g.heldKeys = f.heldKeys)) ∧
    (∀ (o : SectOp) (p : (SectOp → Instr) × LeaveKind), p ∈ ([(.leave, .leave), (.leaveEnd, .leaveEnd), (.abandon, .abandon)] : List ((SectOp → Instr) × LeaveKind)) →
      let k := w.spair o.a
      (k ∉ f.heldKeys → exec (p.1 o) s = .next (s.takeFault s.cur (plainFault .sectstate k))) ∧
      (k ∈ f.heldKeys → Answers (p.1 o) s fun t => same t ∧ due t k (.leaveRequest ⟨s.cur, w.ctx, k, 0, 0⟩ p.2) ∧
        ∃ (x : Outst) (g : Frag), Fresh w f x .sect 0 ∧ begin t (g.sent s.now x) ∧ g = { f with held0 := g.held0, held1 := g.held1 } ∧ k ∉ g.heldKeys ∧ ∀ h, h ≠ k → (h ∈ g.heldKeys ↔ h ∈ f.heldKeys)))

/-- COPY, GATHER, SCATTER, RARITH, WSEND, WSIG and COLL queue a command and write its ticket. (R242, R243, R244, R246, R248, R354, R421, R423, R47) -/
def Obligations.EngineCommandsGetTickets : Prop :=
  ∀ (o : Reg2LA) (s : State) (w : Swell) (f : Frag), Quiet s → NoLines s → f.outst = [] → Ready s w f {} [] →
    let cl := clusterOfCore (coreOfKey s.cur.key)
    let block (n : Nat) : List Word := (List.range n).map fun i => w.sreg (o.a + BitVec.ofNat 7 i)
    let queued (e : Nat) (kind : EngKind) (n total : Nat) (t : State) : Prop :=
      let seq : BitVec 24 := if (s.engine cl e).seq = BitVec.allOnes 24 then 1 else (s.engine cl e).seq + 1
      (∀ a, byteAt t.mem a = byteAt s.mem a) ∧ (∀ k, k ≠ s.cur.key → kvGet t.swells k = kvGet s.swells k) ∧
      t.swellAt s.cur.swell = some (((w.setS o.d (BitVec.ofNat 32 (seq.toNat * 256 + e))).setEnt s.cur.ent (f.onward s.now)).newRegion s.cur.ent) ∧
      (t.engine cl e).seq = seq ∧ (∃ k, (k, Internal.engineStep cl e) ∈ t.due) ∧
      ∃ m, (t.engine cl e).cmds = [m] ∧ m.seq = seq ∧ m.kind = kind ∧ m.ctx = w.ctx ∧ m.fr = s.cur ∧ m.user = (f.priv == 0) ∧ m.block = block n ∧ m.st = .queued ∧ m.done = 0 ∧ m.total = total
    (copyDsp (block 9) = 2 → exec (.copy o) s = .next (s.takeFault s.cur (plainFault .shelfw (w.spair (o.a + 2))))) ∧
    (copyDsp (block 9) ≠ 2 → Answers (.copy o) s (queued 0 .copy 9 (copyBytes (block 9)))) ∧
    Answers (.gather o) s (queued 4 .gather 6 (gathN (block 6) * gathElem (block 6))) ∧
    Answers (.scatter o) s (queued 4 .scatter 6 (gathN (block 6) * gathElem (block 6))) ∧
    Answers (.rarith o) s (queued 0 .rarith 9 (rarN (block 9) * rarElem (block 9))) ∧
    Answers (.coll o) s (queued 0 .coll 9 (collDstN (block 9) * collElem (block 9))) ∧
    (windowFault s w.ctx .wsend (block 5) = none → Answers (.wsend o) s (queued 0 .wsend 5 (putLen (block 5)))) ∧
    (windowFault s w.ctx .wsig (block 7) = none → Answers (.wsig o) s (queued 0 .wsig 7 (putLen (block 7)))) ∧
    (let e := (s.ctx w.ctx).window (putWin (block 5));
      e.valid = false ∨ e.putout = false ∨ e.rsize < putOff (block 5) + putLen (block 5) →
      exec (.wsend o) s = .next (s.takeFault s.cur (plainFault .window (BitVec.ofNat 64 (putOff (block 5))))))

/-- EQRY, CSTAT and LQRY write what they read; LAUNCH hands a bay to the dispatchers; PF completes. The model’s choice: the three further words of LQRY of an unknown handle are free values (log 85). (R249, R429, R402, R401, R396, R397, R203, R271) -/
def Obligations.QueriesAndLaunches : Prop :=
  ∀ (s : State) (w : Swell) (f : Frag), Quiet s → NoLines s → f.outst = [] →
    let cl := clusterOfCore (coreOfKey s.cur.key)
    let ones := BitVec.allOnes 32
    (∀ o : Reg2LA, Ready s w f {} [] →
      let begin (t : State) (u : Swell) : Prop := t.swellAt s.cur.swell = some ((u.setEnt s.cur.ent (f.onward s.now)).newRegion s.cur.ent)
      let x := ticketStatus s cl w.ctx (w.sreg o.a)
      let e := (w.sreg o.a).toNat % 256
      Answers (.eqry o) s (fun t => SameOutside s t s.cur ∧ begin t (w.setS o.d x)) ∧
      ((s.engine cl e).ended = [] → x = 0xF3) ∧
      (∀ r ∈ (s.engine cl e).ended, (s.engine cl e).ended = [r] → e < 5 → r.seq.toNat = (w.sreg o.a).toNat / 256 → r.ctx = w.ctx → r.failed = false → r.remain = 0 → r.reason = 0 →
        ticketKept (s.engine cl e) r.seq = true → x = 2) ∧
      (e < 5 → ticketKept (s.engine cl e) ((w.sreg o.a).extractLsb' 8 24) = false → x = 0xF3) ∧
      ((s.engine cl e).stats = [] → Answers (.cstat o) s fun t => SameOutside s t s.cur ∧ begin t (w.setSList o.d [ones, ones, ones, ones])) ∧
      (∀ g l, (s.engine cl e).stats = [((w.sreg o.a).extractLsb' 8 24, w.ctx, l, g)] → e < 4 →
        Answers (.cstat o) s fun t => SameOutside s t s.cur ∧ begin t ((w.setSPair o.d l).setSPair (o.d + 2) g)) ∧
      (let k := (w.sreg o.a).toNat; let arg := w.sreg (o.a + 1);
        let reads (ws : List Word) : Prop := Answers (.lqry o) s fun t => Performed s t (w.setSList o.d ws) (f.onward s.now);
        (k = 0 → (∀ l, launchOf s w.ctx arg = some l → reads [BitVec.ofNat 32 l.st.num, BitVec.ofNat 32 l.started, BitVec.ofNat 32 l.ended, BitVec.ofNat 32 l.donated]) ∧
          (launchOf s w.ctx arg = none → Answers (.lqry o) s fun t => ∃ x y z, Performed { s with freeCtr := s.freeCtr + 3 } t (w.setSList o.d [0, x, y, z]) (f.onward s.now))) ∧
        (k = 1 → (∀ r, s.pkg.rects[arg.toNat]? = some r → reads [r.bits.extractLsb' 0 32, r.bits.extractLsb' 32 32, s.pkg.gen, BitVec.ofNat 32 s.pkg.rects.length]) ∧
          (s.pkg.rects.length ≤ arg.toNat → reads [ones, ones, ones, ones])) ∧
        (k = 2 → ∀ y, s.pkg.l2p[arg.toNat]? = some y → reads [y.setWidth 32, s.pkg.gen, 0, 0]) ∧
        (3 ≤ k → k < 256 → reads [ones, ones, ones, ones]) ∧
        (256 ≤ k → exec (.lqry o) s = .next (s.takeFault s.cur (plainFault .illegal ((packReg 0x79 o.d o.a 1 o.la).setWidth 64))))) ∧
      (let va := w.spair o.a;
        (va.toNat < 2 ^ 56 → va.toNat % 64 ≠ 0 → exec (.launch o) s = .next (s.takeFault s.cur (plainFault .launch va))) ∧
        (∀ y own, va.toNat % 64 = 0 → Placed s w f .load [⟨0, va, 1⟩] [y] → HbmPlace 64 y → kvGet s.launches w.launch = some own →
          let bs := readBytes s.mem y.loc.pa 64
          let b := bayOf bs
          bayLimits s bs = false → mayLaunch b own.bay = true → bayMarked s (newLaunch s w.ctx va b false) = false → b.render = false →
          (s.launches.filter fun z => z.2.ctx == w.ctx && z.2.active).length < 256 →
          Answers (.launch o) s fun t => ∃ h l, h = BitVec.ofNat 32 (nextHandle (s.ctx w.ctx).launches) ∧ begin t (w.setS o.d h) ∧ (∀ a, byteAt t.mem a = byteAt s.mem a) ∧
            kvGet t.launches s.nextMsg = some l ∧ l.ctx = w.ctx ∧ l.handle = h ∧ l.bayVa = va ∧ l.bay = b ∧ l.st = .queued ∧
            ∀ d ∈ l.dieList, ∃ n, (n, Internal.dispatcherRefill d s.nextMsg) ∈ t.due))) ∧
    (∀ o : PrefetchOp, Ready s w f { wide := true, pmx := true, cp := true } [o.a.toNat + 1] →
      let c := coreOfKey s.cur.key
      let lanes := lanesOf (lanesActive w f f.pmx)
      let va (l : Fin 32) : Addr := w.vpair o.a l + memOffset o.off 1 f.hints.wide
      let finds (l : Fin 32) : Xlat := xlate s c w.ctx (f.priv != 0) .prefetch f (va l)
      let on (t : State) : Prop := SameBytes s t ∧ t.swellAt s.cur.swell = some (w.setEnt s.cur.ent (f.onward s.now)) ∧ ∀ k, k ≠ s.cur.key → kvGet t.swells k = kvGet s.swells k
      (lanes = [] ∨ f.cp = .memorySide ∧ (∀ l ∈ lanes, finds l ≠ .miss) → Answers (.pf o) s fun t => Performed s t w (f.onward s.now)) ∧
      ((∀ l ∈ lanes, finds l ≠ .miss) → Answers (.pf o) s on) ∧
      (∀ (l : Fin 32) (y : Loc), lanes = [l] → (va l).toNat < 2 ^ 56 → finds l = .ok y → HbmPlace 1 ⟨0, va l, y⟩ → y.die = dieOfKey s.cur.key → y.ms = false →
        let line := y.pa / 256
        let has : Bool := homeHas s { y with pa := line * 256 } 256
        (has = true → l1Sets (s.core c) ≠ 0 → f.cp = .normal ∨ f.cp = .stream → Answers (.pf o) s fun t => on t ∧
          ∃ x, l1Find t c line = some x ∧ x.present = BitVec.allOnes 256 ∧ x.dirty = 0 ∧ ∀ i, i < 256 → byteAt x.data i = byteAt s.mem (line * 256 + i)) ∧
        (has = true → f.cp = .noAllocate → Answers (.pf o) s fun t => on t ∧ (∀ k, (t.core k).l1 = (s.core k).l1) ∧ homeHas t { y with pa := line * 256 } 256 = true) ∧
        (has = false → f.cp ≠ .memorySide → Answers (.pf o) s fun t => on t ∧ (∀ k, (t.core k).l1 = (s.core k).l1) ∧
          kvGet (t.die y.die).misses line = some [⟨s.cur.swell, 0, 0, line, s.now, some s.nextMsg⟩] ∧ Comes t (.sliceMissFill y.die (sliceOf (line * 256)) line) ∧
          ∃ m, kvGet t.msgs s.nextMsg = some m ∧ m.kind = .prefetch f.cp ∧ m.loc = { y with pa := line * 256 })))

/-- Replies, homes, directories, tide buffers and registers of the memory system act as their events say. The model’s choice: the fill of a miss comes 270 ticks after it (log 2), and the copy of a shelf bank lasts a free number of ticks (log 63). (R72, R187, R192, R201, R208, R211, R271, R281, R282, R345, R376, R378) -/
def Obligations.RepliesAndMemoryEventsAct : Prop :=
  (∀ (s : State) (sw : SwellId) (op : Nat) (w : Swell) (e : Nat) (x : Outst), Alone s sw op w e x →
    (∀ l, x.kind = .load l → (∀ y ∈ l.lanes, l.has y.lane = true) → (l.acq = false ∨ NoLines s) → Answers (.loadResponse sw op) s fun t =>
      SameBytes s t ∧ t.swellAt sw = some ((w.writeLoad l.group l.sz l.d l.got).over e)) ∧
    (∀ g acq d vals va, x.kind = .atomic g acq d vals va → vals.length = va.length → (acq = false ∨ NoLines s) → Answers (.atomicReply sw op) s fun t => SameBytes s t ∧ t.swellAt sw = some ((w.writeWords g d vals).over e)) ∧
    (∀ m c, x.kind = .mma m → m.c = some c → m.checks = true → Answers (.mmaResult sw op) s fun t => SameBytes s t ∧ t.swellAt sw = some ((w.writeMma m c).over e)) ∧
    (∀ l y, x.kind = .load l → l.notBefore = none → l.lanes.find? (fun y => !l.has y.lane) = some y → x.sent + 2 ^ 24 ≤ s.now → w.busy = false → (w.ent e).live = true → (w.ent e).priv = 0 →
      Answers (.accessTimeout sw op) s fun t => SameBytes s t ∧ ∃ u, t.swellAt sw = some u ∧ u.fcause.toNat % 256 = 0x15 ∧ u.fval = y.va ∧ u.busy = true ∧ (u.ent e).outst = []) ∧
    (∀ l y line, x.kind = .load l → l.lanes = [y] → l.got = [] → line = y.loc.pa / 256 → HbmPlace (sizeBytes l.sz) y → y.loc.die ≠ dieOfKey sw.key → (y.loc.cls = .dp ∨ y.loc.cls = .ucr) →
      (y.loc.ms = true ∨ l.cp = .memorySide ∨ l.cp = .noAllocate ∨ l1Sets (s.core (coreOfKey sw.key)) = 0) → Quiet (sansRequests s y.loc.die) → NoLines s →
      (s.die y.loc.die).missWait = [] → (s.die y.loc.die).waiting = [] → (w.ent e).live = true → ∀ n, kvGet (s.die y.loc.die).misses line = some [⟨sw, op, y.lane, line, n, none⟩] → Answers (.sliceMissFill y.loc.die (sliceOf y.loc.pa) line) s fun t => SameBytes s t ∧
        kvGet (t.die y.loc.die).misses line = none ∧ Comes t (.loadResponse sw op) ∧
        t.swellAt sw = some (w.setEnt e { w.ent e with outst := [{ x with kind := .load { l with got := [(y.lane, readBytes s.mem y.loc.pa (sizeBytes l.sz))] } }] })) ∧
    (∀ core launch id p, reorderParts s core launch id (fun n => n.any fun n => decide (n ≤ s.now)) = [p] → sw = ⟨p.key, p.uid⟩ → op = p.op → e = p.ent → lanesOf p.lanes ≠ [] →
      p.k.toNat < 32 → p.moved.getLsbD p.k.toNat = true → Answers (.reorderCompletion core launch id) s fun t => SameBytes s t ∧ ∃ u, t.swellAt sw = some u ∧
        (u.ent e).mask = BitVec.ofNat 32 (2 ^ (lanesOf p.lanes).length - 1) ∧ (u.ent e).outst = [] ∧
        ∀ i j : Fin 32, i.val < j.val → j.val < (lanesOf p.lanes).length → ((u.vreg p.k)[i]).toNat ≤ ((u.vreg p.k)[j]).toNat)) ∧
  (∀ (s : State) (fr : FragId) (w : Swell) (x : Outst) (c : WaitCond) (g : Bool) (d : Reg) (y : ValueLane), Quiet s → NoLines s →
    s.swellAt fr.swell = some w → anySwell s fr.uid = some (some fr.key, w) → (w.ent fr.ent).live = true → Alone s fr.swell x.id w fr.ent x →
    x.kind = .wait (.value c g d [y]) → y.got = none → HbmPlace 4 ⟨y.lane, y.va, y.loc⟩ →
    let v := wordOfList (readBytes s.mem y.loc.pa 4)
    (c.holds v y.cmp = true → Answers (.valueWaitArm fr y.lane) s fun t => SameBytes s t ∧ t.swellAt fr.swell = some ((w.writeWords g d [(y.lane, v)]).over fr.ent)) ∧
    (c.holds v y.cmp = false → Answers (.valueWaitArm fr y.lane) s fun t => SameBytes s t ∧ t.swellAt fr.swell = some w ∧
      (t.die y.loc.die).watches = [⟨fr, y.lane, y.loc.pa, y.loc.ms, c, y.cmp⟩])) ∧
  (∀ (s : State) (fr : FragId) (core lane : Nat) (w : Swell) (x : Outst) (d : Reg) (l : TagLane) (lanes done : Word), NoLines s → s.swellAt fr.swell = some w → (w.ent fr.ent).live = true →
    s.opAt fr.swell x.id = some (w, fr.ent, x) → (w.ent fr.ent).outst = [x] → (w.ent fr.ent).wait = some (.op x.id) → x.fail = none → w.busy = false → x.kind = .wait (.tag .ldf false d [l] lanes done) → l.lane = lane →
    (s.core core).full.contains (scratchOff l.sa / 4) = true → (s.core core).badWords = [] →
    (s.cluster (clusterOfCore core)).waiters = [⟨fr, core, scratchOff l.sa / 4, lane, false⟩] →
    Answers (.tagWaiterService core (scratchOff l.sa / 4)) s fun t => SameBytes s t ∧ (t.cluster (clusterOfCore core)).waiters = [] ∧ ∃ u, t.swellAt fr.swell = some u ∧
      u.v = (w.setLane ⟨lane % 32, Nat.mod_lt _ (by decide)⟩ d [wordOfList (readBytes (s.core core).scratch (scratchOff l.sa) 4)]).v ∧ u.s = w.s ∧
      (u.ent fr.ent).outst = [] ∧ (u.ent fr.ent).st = 0) ∧
  (∀ (s : State) (k : Nat) (m : Msg) (bs : List Byte), Quiet { s with msgs := [] } → NoLines s → kvGet s.msgs k = some m → HbmPlace bs.length ⟨0, m.va, m.loc⟩ → bs ≠ [] → behindOwn s m.fr k m.loc bs.length = false →
    let stored (t : State) : Prop := (∀ a, byteAt t.mem a = Spec.stored (byteAt s.mem) [(m.loc.pa, bs)] a) ∧ kvGet t.msgs k = none ∧ t.swells = s.swells
    let due (tau : Addr) : Prop := tau.toNat ≤ (s.atime m.loc.die).toNat
    (m.kind = .store bs → Answers (.homeWrite k) s stored) ∧
    (∀ op lane, m.kind = .load op lane bs.length → homeHas s m.loc bs.length = false → Answers (.homeWrite k) s fun t => SameBytes s t ∧ kvGet t.msgs k = none ∧
      t.swells = s.swells ∧ kvGet (t.die m.loc.die).misses m.line = some [⟨m.fr.swell, op, lane, m.line, s.now, none⟩] ∧
      (s.now + 270, Internal.sliceMissFill m.loc.die (sliceOf (m.line * 256)) m.line) ∈ t.due) ∧
    (∀ tau, m.kind = .timedStore bs tau → s.msgs = [(k, m)] →
      ((s.tide m.loc.die (tideHome m.loc)).buf = [] → (s.tide m.loc.die (tideHome m.loc)).ingress = [] → (due tau → Answers (.timedLaneArrival k) s stored) ∧
        (¬ due tau → Answers (.timedLaneArrival k) s fun t => SameBytes s t ∧ (t.tide m.loc.die (tideHome m.loc)).buf = [(k, m)] ∧ t.msgs = s.msgs)) ∧
      ((s.tide m.loc.die (tideHome m.loc)).buf = [(k, m)] → (s.tide m.loc.die (tideHome m.loc)).ingress = [] → due tau →
        Answers (.tideTick m.loc.die (tideHome m.loc)) s fun t => stored t ∧ (t.tide m.loc.die (tideHome m.loc)).buf = []))) ∧
  (∀ (s : State) (core line : Nat) (x : CacheLine), Quiet s → l1Find s core line = some x → x.dirty ≠ 0 → paDie (line * 256) = dieOfCore core → bankWait s ⟨line * 256, x.cls, false, dieOfCore core, false⟩ = 0 → x.wtime + 65536 ≤ s.now →
    Answers (.l1WritebackDeadline core line) s fun t => l1Find t core line = some { x with dirty := 0 } ∧
      ∀ a, byteAt t.mem a = if a / 256 = line ∧ x.dirty.getLsbD (a % 256) = true then byteAt x.data (a % 256) else byteAt s.mem a) ∧
  (∀ (s : State) (die line : Nat), Quiet s → die < 64 → paDie (line * 256) ≠ die → remoteWays (sliceReg s die (sliceOf (line * 256))) ≠ [] →
    Answers (.cohReadRequest die line) s (fun t => SameBytes s t ∧ dirFind t line = some ⟨line, false, BitVec.twoPow 64 die⟩ ∧
      ∃ x, partFind t die line = some x ∧ x.dirty = 0 ∧ x.present = BitVec.allOnes 256 ∧ ∀ i, i < 256 → byteAt x.data i = byteAt s.mem (line * 256 + i)) ∧
    Answers (.cohOwnershipRequest die line) s (fun t => SameBytes s t ∧ dirFind t line = some ⟨line, true, BitVec.twoPow 64 die⟩ ∧
      ∃ x, partFind t die line = some x ∧ x.excl = true ∧ x.dirty = 0)) ∧
  (∀ (s : State) (die line : Nat) (x : CacheLine), die < 64 → s.badSectors = [] → (s.die die).partition = [x] → x.line = line → dirFind s line = some ⟨line, true, BitVec.twoPow 64 die⟩ →
    (s.die (paDie (line * 256))).dir.length = 1 → Answers (.cohRecall die line true) s fun t => partFind t die line = none ∧ dirFind t line = none ∧
      ∀ a, byteAt t.mem a = if a / 256 = line ∧ x.dirty.getLsbD (a % 256) = true then byteAt x.data (a % 256) else byteAt s.mem a) ∧
  (∀ (s : State) (ctx die granule : Nat), Quiet s → Memory.wf s.mem = true → paDie (granule * 65536) ≠ die → 0 < (replicaArea (s.ctx ctx)).2 →
    Answers (.rosReplicaFill ctx die granule) s fun t => ∃ r, replicaOf t (granule * 65536) die = some r ∧ ∀ i, i < 65536 → byteAt t.mem (r + i) = byteAt s.mem (granule * 65536 + i)) ∧
  (∀ (s : State) (die granule : Nat), Answers (.replicaFree die granule) s fun t => SameBytes s t ∧ replicaOf t (granule * 65536) die = none) ∧
  (∀ (s : State) (die ctx page : Nat) (wk : Walk) (id : FragId) (w : Swell), (s.die die).walks = [wk] → wk.ctx = ctx → wk.page = page → wk.who = [id] → s.swellAt id.swell = some w →
    Answers (.walkCompletion die ctx page) s fun t => SameBytes s t ∧ (t.die die).walks = [] ∧ ∃ u, t.swellAt id.swell = some u ∧ u.v = w.v ∧ u.s = w.s ∧
      (u.ent id.ent).walkWait = (w.ent id.ent).walkWait.erase page) ∧
  (∀ (s : State) (ctx page frame : Nat), Answers (.atsTranslationCompletion ctx page (some frame)) s fun t => SameBytes s t ∧
    (t.ctx ctx).ats.find? (fun x => x.1 == page) = some (page, frame)) ∧
  (∀ (s : State) (fr : FragId) (w : Swell) (f : Frag) (tau : Addr), s.fragAt fr = some (w, f) → f.wait = some (.twait tau) → tau.toNat ≤ (s.atime (dieOfKey fr.key)).toNat →
    Answers (.twaitExpiry fr) s fun t => SameBytes s t ∧ ∃ u, t.swellAt fr.swell = some u ∧ SwellKept w u fr.ent ∧ (u.ent fr.ent).wait = none ∧ (u.ent fr.ent).wkind = 0 ∧
      (u.ent fr.ent).pc = f.follow (nextPc f.pc) ∧ (u.ent fr.ent).st = if w.busy = true ∧ w.busyEnt.toNat = fr.ent then 5 else 0) ∧
  (∀ (s : State) (fr : FragId) (w : Swell) (tide : Addr), s.findUid fr.uid = some (fr.key, w) → Answers (.lateNotice fr tide) s fun t => SameBytes s t ∧
    kvGet t.swells fr.key = some (if w.scfg.getLsbD 6 = false then w
      else if w.pend.late then { w with pend := { w.pend with count := if w.pend.count = 255 then 255 else w.pend.count + 1 } }
      else { w with pend := { w.pend with late := true, count := 1, tide := tide, target := BitVec.ofNat 3 fr.ent, lateAt := s.now } })) ∧
  (∀ (s : State) (sw : SwellId) (w : Swell) (e : Nat), s.swellAt sw = some w → w.busy = false → w.pend.late = true → w.pend.engine = false → w.pend.target.toNat = e → (w.ent e).live = true →
    (w.ent e).st = 0 → (w.ent e).hints.words = [] → (w.ent e).outst = [] → (w.ent e).walkWait = [] → Answers (.asyncFaultDelivery sw) s fun t => SameBytes s t ∧ ∃ u, t.swellAt sw = some u ∧
      u.fcause = BitVec.ofNat 32 (2 ^ 31 + w.pend.count.toNat * 65536 + e * 8192 + 0x0F) ∧ u.fval = w.pend.tide ∧ u.pend.late = false ∧ u.pend.count = 0 ∧ u.busy = true ∧ (u.ent e).st = 5 ∧ (u.ent e).priv = 1) ∧
  (∀ (s : State) (w : Swell) (f : Frag) (x : Word), Ready s w f {} [] → f.outst = [] → exec (.nonInstructionWord x) s = .next (s.takeFault s.cur (plainFault .illegal (x.setWidth 64)))) ∧
  (∀ (s : State) (die bank slab slice core : Nat) (v : Word) (y : Addr),
    ((s.die die).waiting = [] → exec (.shelfRefreshEnd die bank) s = .next s) ∧
    (refreshLeft s die bank ≠ 0 → Answers (.shelfRefreshEnd die bank) s fun t => SameBytes s t ∧ t.swells = s.swells ∧ t.msgs = s.msgs) ∧
    (∀ k m bs n, s.msgs = [(k, m)] → m.kind = .store bs → bs ≠ [] → m.loc.host = false → m.loc.die = die → paDie m.loc.pa = die → inShelf m.loc.pa = true → shelfBank m.loc.pa = bank →
      m.loc.pa % 256 + bs.length ≤ 256 → (s.die die).waiting = [⟨k, m.line, n⟩] → (s.die die).misses = [] → (s.die die).missWait = [] → refreshLeft s die bank = 0 →
      Quiet (sansRequests s die) → NoLines s → Answers (.shelfRefreshEnd die bank) s fun t => (∀ a, byteAt t.mem a = Spec.stored (byteAt s.mem) [(m.loc.pa, bs)] a) ∧
        t.msgs = [] ∧ (t.die die).waiting = [] ∧ t.swells = s.swells) ∧
    Answers (.shelfBankRetire die bank) s (fun t => SameBytes s t ∧ ((s.die die).spare = none → (t.die die).spare = some bank ∧ (t.die die).shelfFailed = (s.die die).shelfFailed ∧ s.now ≤ (t.die die).copyEnd) ∧
      (∀ b, (s.die die).spare = some b → (t.die die).spare = some b ∧ (t.die die).shelfFailed = true)) ∧
    (s.msgs = [] → NoLines s → Answers (.slabRunRise die slab) s fun t => SameBytes s t ∧
      kvGet (t.die die).slabs slab = some ((kvGet (s.die die).slabs slab).getD 0 ||| BitVec.twoPow 32 30)) ∧
    (v.getLsbD 31 = false → Answers (.slabRegisterWrite die slab v) s fun t => SameBytes s t ∧ kvGet (t.die die).slabs slab = some (v &&& 0x3F#32)) ∧
    ((s.die die).partition = [] → Answers (.sliceConfigWrite die slice v) s fun t => SameBytes s t ∧
      kvGet (t.die die).sliceCfg slice = some (BitVec.ofNat 32 (v.toNat / 65536 * 65536 + Nat.min (v.toNat / 256 % 16) 8 * 256))) ∧
    Answers (.coreErrorRecordWrite core y) s (fun t => SameBytes s t ∧ let old := (s.core core).err; let new := (t.core core).err;
      new.getLsbD 63 = (old.getLsbD 63 && !y.getLsbD 63) ∧ new.getLsbD 62 = y.getLsbD 62 ∧ new.extractLsb' 48 14 = 0 ∧
      new.extractLsb' 32 16 = (if y.extractLsb' 32 16 = 0 then old.extractLsb' 32 16 else 0) ∧ new.extractLsb' 0 32 = (if y.extractLsb' 0 32 = 0 then old.extractLsb' 0 32 else 0)))

/-- A key’s home numbers, grants and releases its section in sequence, and its answers reach the fragments that wait. The model’s choice: a waiter record has the lowest free number of its die’s store (log 42), and the reply 0x80000000, no status of R304, stands for SECTSTALL (log 55). (R295, R297, R298, R303, R304, R305, R306, R307, R311, R312, R314, R315) -/
def Obligations.SectionHomesServeTheirKeys : Prop :=
  (∀ (s : State) (req : SectReq) (d : Nat) (e : SluiceEnt), d = keyHome s req.ctx req.key → Settled s d → EntryOf s d req.ctx req.key e →
    ((req.seq - e.next).msb = true → Answers (.enterRequest req) s fun t => SameBytes s t ∧ EntryIs t d req.ctx req.key e.next e.take e.held ∧ Comes t (.sectionGrantReply req 4)) ∧
    (req.seq = e.next → e.held = false → Answers (.enterRequest req) s fun t => SameBytes s t ∧ EntryIs t d req.ctx req.key e.next e.take true ∧
      Comes t (.sectionGrantReply req (if e.abandoned then 3 else 1))) ∧
    ((req.seq - e.next).msb = false → ¬ (req.seq = e.next ∧ e.held = false) → (s.die d).sluice.waits.length < 16384 → Answers (.enterRequest req) s fun t =>
      SameBytes s t ∧ EntryIs t d req.ctx req.key e.next e.take e.held ∧
      ∃ n, (∀ y ∈ (s.die d).sluice.waits, y.num ≠ n) ∧ queued t d req.ctx req.key = queued s d req.ctx req.key ++ [⟨n, req.ctx, req.key, req.seq, req, s.atime d, false, none, false⟩]) ∧
    (∀ w, s.findUid req.fr.uid = some (req.fr.key, w) → Answers (.seqtakeRequest req) s fun t => SameBytes s t ∧ EntryIs t d req.ctx req.key e.next (e.take + 1) e.held ∧
      kvGet t.swells req.fr.key = some (w.setS req.d e.take) ∧ Comes t (.sectionGrantReply req 0))) ∧
  (∀ (s : State) (req : SectReq) (kind : LeaveKind) (d : Nat), d = keyHome s req.ctx req.key → Settled s d →
    (sluiceFind s d req.ctx req.key = none → Answers (.leaveRequest req kind) s fun t => SameBytes s t ∧ t.dies = s.dies ∧ (kind ≠ .torn → Comes t (.sectionGrantReply req 0))) ∧
    (∀ e, sluiceFind s d req.ctx req.key = some e →
      let lost := e.abandoned || kind == .abandon || kind == .torn
      Answers (.leaveRequest req kind) s fun t => SameBytes s t ∧ (kind ≠ .torn → Comes t (.sectionGrantReply req 0)) ∧
        (queued s d req.ctx req.key = [] → if kind = .leaveEnd then sluiceFind t d req.ctx req.key = none else
          ∃ u, sluiceFind t d req.ctx req.key = some u ∧ u.next = e.next + 1 ∧ u.take = e.take ∧ u.held = false ∧ u.abandoned = lost) ∧
        (∀ y, queued s d req.ctx req.key = [y] → y.seq = e.next + 1 → y.evicted = false → Comes t (.sectionGrantReply y.req (if lost then 3 else 1)) ∧
          queued t d req.ctx req.key = [] ∧ ∃ u, sluiceFind t d req.ctx req.key = some u ∧ u.next = e.next + 1 ∧ u.held = true ∧ u.abandoned = false) ∧
        (∀ y ∈ queued s d req.ctx req.key, (y.seq - (e.next + 1)).msb = true → y.evicted = false → Comes t (.sectionGrantReply y.req 4)))) ∧
  (∀ (s : State) (req : SectReq) (w : Swell) (d : Nat), d = keyHome s req.ctx req.key → s.findUid req.fr.uid = some (req.fr.key, w) →
    Answers (.sectqRequest req) s fun t => SameBytes s t ∧ t.dies = s.dies ∧ Comes t (.sectionGrantReply req 0) ∧
      (sluiceFind s d req.ctx req.key = none → kvGet t.swells req.fr.key = some (w.setSList req.d [0, 0, 8, 0])) ∧
      (∀ e, sluiceFind s d req.ctx req.key = some e → ∃ x : Word, kvGet t.swells req.fr.key = some (w.setSList req.d [e.next, e.take, x,
          if e.held then BitVec.ofNat 32 (e.hcore.toNat * 65536 + e.hslot.toNat * 256 + e.hent.toNat) else 0]) ∧
        x.getLsbD 0 = e.held ∧ x.getLsbD 1 = e.abandoned ∧ x.getLsbD 2 = e.spilled ∧ x.getLsbD 3 = false ∧ x.getLsbD 4 = e.mems ∧
        x.toNat / 65536 = Nat.min (queued s d req.ctx req.key).length 65535)) ∧
  (∀ (s : State) (req : SectReq) (w : Swell) (x : Outst) (k : Addr) (q : Word) (r : Reg), Blocked s req.fr w x → x.kind = .wait (.enter k q r) → NoLines s →
    let went (t : State) (v : Word) (h : HeldSlot) : Prop := SameBytes s t ∧ ∃ u, t.swellAt req.fr.swell = some u ∧ u.s = (w.setS req.d v).s ∧ u.v = w.v ∧ u.region = w.region + 1 ∧
      (u.ent req.fr.ent).outst = [] ∧ (u.ent req.fr.ent).wait = none ∧ (u.ent req.fr.ent).st = 0 ∧ (u.ent req.fr.ent).held0 = h ∧ (u.ent req.fr.ent).rep = (w.ent req.fr.ent).pc
    Answers (.sectionGrantReply req 4) s (fun t => went t 4 (w.ent req.fr.ent).held0) ∧
    ((w.ent req.fr.ent).held0.valid = false → ∀ v : Word, v = 1 ∨ v = 3 →
      Answers (.sectionGrantReply req v) s fun t => went t v ⟨true, req.key, BitVec.ofNat 6 (keyHome s req.ctx req.key)⟩) ∧
    Answers (.sectionGrantReply req 0x80000000) s (fun t => SameBytes s t ∧ ∃ u, t.swellAt req.fr.swell = some u ∧ u.fcause.toNat % 256 = 0x0D ∧ u.fval = req.key ∧
      u.fpc = x.unit.setWidth 64 ∧ u.busy = true ∧ (u.ent req.fr.ent).outst = [])) ∧
  (∀ (s : State) (req : SectReq) (w : Swell) (x : Outst) (v : Word), anySwell s req.fr.uid = some (some req.fr.key, w) → Alone s req.fr.swell x.id w req.fr.ent x →
    x.kind = .sect → (x.writes.s.head? = some req.d.toNat ∨ x.writes.s = []) → v ≠ 0x80000000 →
    Answers (.sectionGrantReply req v) s fun t => SameBytes s t ∧ t.swellAt req.fr.swell = some (w.over req.fr.ent)) ∧
  (∀ (s : State) (req : SectReq) (v : Word), (anySwell s req.fr.uid = none → v = 1 ∨ v = 3 → sectBehind s (dieOfKey req.fr.key) (keyHome s req.ctx req.key) = false → Answers (.sectionGrantReply req v) s fun t => SameBytes s t ∧ Comes t (.leaveRequest req .torn)) ∧
    (∀ w, anySwell s req.fr.uid = some (none, w) → v ≠ 0x80000000 → Answers (.sectionGrantReply req v) s fun t => SameBytes s t ∧ t.swells = s.swells ∧
      ∃ y ∈ (t.die (keyHome s req.ctx req.key)).sluice.waits, y.req = req ∧ y.granted = some v ∧ y.evicted = true)) ∧
  (∀ (s : State) (d : Nat) (y : SluiceWait) (e : SluiceEnt), Settled s d → sectNow s d = false → (s.die d).sluice.waits = [y] → y.granted = none → y.stalled = false → y.evicted = false → sluiceFind s d y.ctx y.key = some e →
    let n := (s.ctx y.ctx).field 0x54 1
    let late := 2 ^ (if n = 0 then 28 else n) ≤ (s.atime d).toNat - Nat.max y.arrived.toNat e.lastp.toNat
    Answers (.sectionTimeoutScan d) s fun t => SameBytes s t ∧ (late → (t.die d).sluice.waits = [] ∧ Comes t (.sectionGrantReply y.req 0x80000000)) ∧
      (¬ late → (t.die d).sluice.waits = [y] ∧ Comes t (.sectionTimeoutScan d))) ∧
  (∀ (s : State) (d ctx : Nat) (k : Addr) (e : SluiceEnt), (s.die d).sluice.ingress = [] → (∀ x ∈ (s.die d).sluice.ents, x.mems = false) → sluiceFind s d ctx k = some e → e.spilled = true →
    (setEnts s d (keySet e.ctx e.key)).length < 8 → Answers (.sluiceReload d ctx k) s fun t => SameBytes s t ∧ (t.die d).sluice.reloads = (s.die d).sluice.reloads + 1 ∧
      sluiceFind t d ctx k = some { e with spilled := false, mems := false }) ∧
  (∀ (s : State) (ctx old new : Nat) (e : SluiceEnt), old < 64 → new < 64 → old ≠ new → Settled s old → (s.die old).sluice.ents.filter (fun x => x.ctx == ctx) = [e] → (s.die new).sluice.ents = [] →
    (s.die new).sluice.ingress = [] → Answers (.sluiceDieReplace ctx old new) s fun t => SameBytes s t ∧
      (t.ctx ctx).sluiceDies = (s.ctx ctx).sluiceDies.map (fun d => if d = old then new else d) ∧
      (∀ i, i < 64 → ((t.ctx ctx).field 0x10 8).testBit i = if i = new then true else if i = old then false else ((s.ctx ctx).field 0x10 8).testBit i) ∧
      (∀ x ∈ (t.die old).sluice.ents, x.ctx ≠ ctx) ∧ EntryIs t new ctx e.key e.next e.take e.held)

/-- Swells move between the register files, leave and come back; tasks, donations and launches go on as their events say. The model’s choice: who leaves a core and who comes back (log 24), how far a refill deals (log 54), which blocked swell is displaced (log 67), and how a shipment is dealt and waits whole (log 71). (R33, R173, R174, R175, R193, R246, R259, R260, R323, R403, R404, R407) -/
def Obligations.SwellsAndTasksFindTheirPlaces : Prop :=
  (∀ (s : State) (sw : SwellId) (w : Swell), s.swellAt sw = some w →
    Answers (.swellMoveOut sw) s (fun t => SameBytes s t ∧ ∃ u, t.swellAt sw = some u ∧ u = { w with active := false, ents := u.ents } ∧
      ∀ e, u.ent e = { w.ent e with readyAt := if (w.ent e).st = 0 ∨ (w.ent e).st = 5 then s.now else (w.ent e).readyAt }) ∧
    (copyLeft s (coreOfKey sw.key) sw.key w ≠ 0 → Answers (.swellMoveIn sw) s fun t => SameBytes s t ∧ t.swells = s.swells ∧ Comes t (.swellMoveIn sw)) ∧
    (w.active = false → copyLeft s (coreOfKey sw.key) sw.key w = 0 → let fast := (coreSwells s (coreOfKey sw.key)).filter fun x => x.2.active
      let room := fast.length < 8 ∧ (fast.map fun x => (x.2.n + 7) / 8).sum + (w.n + 7) / 8 ≤ 128
      (room → Answers (.swellMoveIn sw) s fun t => SameBytes s t ∧ ∃ u, t.swellAt sw = some u ∧ u = { w with active := true, movedIn := u.movedIn } ∧
        ∀ x ∈ coreSwells s (coreOfKey sw.key), x.2.movedIn < u.movedIn) ∧
      (¬ room → Answers (.swellMoveIn sw) s fun t => t = s))) ∧
  (∀ (s : State) (core k since : Nat) (w : Swell), nextIn s core = some (k, w, since) → fastRoom s core w.n = false → since + 2048 ≤ s.now →
    (∃ x ∈ coreSwells s core, x.2.active = true ∧ movingOut s x.1 x.2.uid = false) → Answers (.forcedDisplacement core) s fun t => SameBytes s t ∧ t.swells = s.swells ∧
      ∃ x ∈ coreSwells s core, x.2.active = true ∧ Comes t (.swellMoveOut ⟨x.1, x.2.uid⟩) ∧
        (x.2.blocked = true ∨ ∀ y ∈ coreSwells s core, y.2.active = true → movingOut s y.1 y.2.uid = false → y.2.blocked = false ∧ topPri s x.1 x.2 ≤ topPri s y.1 y.2)) ∧
  (∀ (s : State) (core : Nat) (x y : Nat × Swell), coreSwells s core = [x, y] → x.1 ≠ y.1 → kvGet s.swells x.1 = some x.2 → kvGet s.swells y.1 = some y.2 → Answers (.compaction core) s fun t => SameBytes s t ∧
    (x.2.slowBase < y.2.slowBase → kvGet t.swells x.1 = some { x.2 with slowBase := 0 } ∧ kvGet t.swells y.1 = some { y.2 with slowBase := (x.2.n + 7) / 8 }) ∧
    (y.2.slowBase < x.2.slowBase → kvGet t.swells y.1 = some { y.2 with slowBase := 0 } ∧ kvGet t.swells x.1 = some { x.2 with slowBase := (y.2.n + 7) / 8 })) ∧
  (∀ (s : State) (sw : SwellId) (w : Swell), s.swellAt sw = some w →
    (mayLeave s sw.key w = false → Answers (.swellEviction sw) s fun t => t = s) ∧
    (mayLeave s sw.key w = true → (∀ x ∈ (s.core (coreOfKey sw.key)).l1, x.dirty = 0) → mergeWaits s (coreOfKey sw.key) (fun _ => true) = true →
      Answers (.swellEviction sw) s fun t => SameBytes s t ∧ t.swells = s.swells ∧ Comes t (.swellEviction sw)) ∧
    (mayLeave s sw.key w = true → (∀ x ∈ (s.core (coreOfKey sw.key)).l1, x.dirty = 0) → mergeWaits s (coreOfKey sw.key) (fun _ => true) = false → ((s.core (coreOfKey sw.key)).save.map fun x => (x.n + 7) / 8 * 1024 + 1408).sum + ((w.n + 7) / 8 * 1024 + 1408) ≤ 786432 - (s.core (coreOfKey sw.key)).bndTop.toNat →
      Answers (.swellEviction sw) s fun t => SameBytes s t ∧ kvGet t.swells sw.key = none ∧ w.uid ∈ (t.ctx w.ctx).evicted ∧
        ∃ u, (t.core (coreOfKey sw.key)).save = (s.core (coreOfKey sw.key)).save ++ [u] ∧ u.uid = w.uid ∧ u.v = w.v ∧ u.s = w.s ∧ u.active = false)) ∧
  (∀ (s : State) (ctx uid core slot c base : Nat) (w : Swell) (l : Launch), findSaved s ctx uid = some (.inl c, w) → kvGet s.launches w.launch = some l → (s.ctx ctx).status = 2 → w.ctx = ctx → w.uid = uid →
    usable s core l = true → slot < 32 → kvGet s.swells (32 * core + slot) = none → canHold s core l = true → hasBounds (s.core core) l.bay = true → (s.core core).ctx = some l.ctx →
    slowPlace s core w.n = some base → w.contMark = false → (∀ e, (w.ent e).outst = []) → residentOf s core w.launch < l.bay.swells → NoLines s → (∀ x ∈ s.dies, x.2.partition = []) → (∀ d, Settled s d) → Answers (.swellResume ctx uid core slot) s fun t => SameBytes s t ∧
      (∀ k, ∀ x ∈ (t.core k).save, x.uid ≠ uid) ∧ uid ∉ (t.ctx ctx).evicted ∧
      ∃ u, kvGet t.swells (32 * core + slot) = some u ∧ u.uid = uid ∧ u.v = w.v ∧ u.s = w.s ∧ u.slowBase = base ∧ u.active = false) ∧
  (∀ (s : State) (core lid slot base : Nat) (l : Launch) (x : Tcb), launchLive s lid = some l → usable s core l = true → l.frame = none →
    (s.cluster (clusterOfCore core)).store.filter (fun t => t.launch == lid && t.core == core) = [x] → residentOf s core lid < l.bay.swells → canHold s core l = true →
    hasBounds (s.core core) l.bay = true → (s.core core).ctx = some l.ctx → freeSlot s core = some slot → slabsToRise s (dieOfCore core) l.ctx = [] → slowPlace s core l.bay.regs = some base →
    Answers (.taskStart core lid) s fun t => SameBytes s t ∧ t.nextUid = s.nextUid + 1 ∧ kvGet t.launches lid = some { l with ran := if l.ran.contains (dieOfCore core) then l.ran else l.ran ++ [dieOfCore core], st := .running, started := l.started + 1 } ∧
      (s.cluster (clusterOfCore core)).store.erase x = (t.cluster (clusterOfCore core)).store ∧
      ∃ u, kvGet t.swells (32 * core + slot) = some u ∧ u.uid = s.nextUid ∧ u.ctx = l.ctx ∧ u.launch = lid ∧ u.n = l.bay.regs ∧ u.slowBase = base ∧ u.active = false ∧
        u.cont = 0 ∧ u.pri = BitVec.ofNat 32 l.bay.pri ∧ u.scfg = (if l.bay.flags / 4 % 2 = 1 then 1 else 0) ∧ u.liveEnts = [0] ∧ (u.ent 0).pc = l.bay.entry.setWidth 56 ∧
        (u.ent 0).mask = BitVec.allOnes 32 ∧ (u.ent 0).st = 0 ∧ (u.ent 0).priv = 0 ∧ (u.ent 0).fmt = 0 ∧
        u.sreg 1 = 0xFFFFFFFF#32 ∧ u.sreg 2 = 0xFFFFFFFF#32 ∧ u.sreg 3 = 0xFFFFFFFF#32 ∧ u.sreg 4 = BitVec.ofNat 32 x.task ∧ u.sreg 5 = BitVec.ofNat 32 (coreRow core - l.prow) ∧
        u.sreg 6 = BitVec.ofNat 32 (coreCol core - l.pcol) ∧ u.sreg 7 = BitVec.ofNat 32 l.bay.rows ∧ u.sreg 8 = BitVec.ofNat 32 l.bay.cols ∧ u.sreg 9 = BitVec.ofNat 32 l.bay.rect ∧
        u.spair 10 = l.bay.args ∧ (∀ r : Reg, 12 ≤ r.toNat → u.sreg r = 0) ∧ (∀ i : Fin 32, (u.vreg 0)[i] = BitVec.ofNat 32 i.val) ∧ ∀ r : Reg, r ≠ 0 → ∀ i : Fin 32, (u.vreg r)[i] = 0) ∧
  (∀ (s : State) (c lid v : Nat) (rest : List Nat) (l : Launch), launchLive s lid = some l → idleFor s c lid l = true → (s.cluster c).steals.find? (fun y => y.launch == lid) = some ⟨lid, v :: rest⟩ →
    let n := (unstarted s v lid).length
    (0 < n → Answers (.stealRequest c lid) s fun t => SameBytes s t ∧ kvGet t.launches lid = some { l with donated := l.donated + Nat.min ((n + 1) / 2) 64 } ∧
      ∃ ship, ship.length = Nat.min ((n + 1) / 2) 64 ∧ Comes t (.tcbShipment c lid ship) ∧ ∀ a ∈ ship, ∀ b ∈ unstarted t v lid, b.task < a) ∧
    (n = 0 → Answers (.stealRequest c lid) s fun t => SameBytes s t ∧ t.launches = s.launches ∧ if rest = [] then Comes t (.stealRetry c lid) else Comes t (.stealRequest c lid))) ∧
  (∀ (s : State) (c lid : Nat), (launchLive s lid = none → Answers (.stealRetry c lid) s fun t => SameBytes s t ∧ ∀ y ∈ (t.cluster c).steals, y.launch ≠ lid) ∧
    (∀ l, launchLive s lid = some l → idleFor s c lid l = true → stealOrder l c ≠ [] → Answers (.stealRetry c lid) s fun t => SameBytes s t ∧ Comes t (.stealRequest c lid) ∧
      (t.cluster c).steals.find? (fun y => y.launch == lid) = some ⟨lid, stealOrder l c⟩)) ∧
  (∀ (s : State) (c lid : Nat) (tasks : List Nat) (l : Launch), kvGet s.launches lid = some l →
    (l.active = true → shipCores s c lid l ≠ [] → (∀ k, (s.cluster k).store.length + tasks.length ≤ 4096) → Answers (.tcbShipment c lid tasks) s fun t => SameBytes s t ∧
      ∀ a ∈ tasks, ∃ x : Tcb, x ∈ (t.cluster (clusterOfCore x.core)).store ∧ x.launch = lid ∧ x.task = a ∧ x.core ∈ shipCores s c lid l ∧ Comes t (.taskStart x.core lid)) ∧
    (l.active = true → tasks ≠ [] → (∀ b ∈ shipCores s c lid l, 4096 ≤ (s.cluster (clusterOfCore b)).store.length) → Answers (.tcbShipment c lid tasks) s fun t =>
      SameBytes s t ∧ t.clusters = s.clusters ∧ Comes t (.tcbShipment c lid tasks)) ∧
    (l.active = false → Answers (.tcbShipment c lid tasks) s fun t => t = s)) ∧
  (∀ (s : State) (die lid c : Nat) (l : Launch), launchLive s lid = some l → l.cores = [c] → l.bay.rows = 1 → l.bay.cols = 1 → usable s c l = true → dieOfCore c = die → l.cursors = [] →
    (s.cluster (clusterOfCore c)).store = [] → l.bay.tasks ≤ 4096 → Answers (.dispatcherRefill die lid) s fun t => SameBytes s t ∧
      (t.cluster (clusterOfCore c)).store = (List.range l.bay.tasks).map fun i => ⟨lid, c, i⟩) ∧
  (∀ (s : State) (lid : Nat) (l : Launch), kvGet s.launches lid = some l → l.frame = none → l.active = true → (s.ctx l.ctx).status = 2 → l.bay.tasks ≤ l.ended → launchSwells s lid (fun _ => true) = false →
    (∀ x ∈ s.due, ∀ d u, x.2 ≠ .tileShadeStart d lid u) → NoLines s → s.msgs = [] → (∀ x ∈ s.clusters, ∀ e ∈ x.2.engines.toList, e.cmds = []) →
    (l.bay.done = 0 → Answers (.launchCompletion lid) s fun t => SameBytes s t ∧ ∃ u, kvGet t.launches lid = some u ∧ u.st = .complete) ∧
    (∀ loc s1, Plain s1 → devPlace (s.updLaunch lid fun x => { x with doneStep := 1 }) s.pkg.lead l.ctx true .store l.bay.done.toNat 4 (.done lid) = (.ok loc, s1) →
      l.bay.done ≠ 0 → HbmPlace 4 ⟨0, l.bay.done, loc⟩ → Answers (.launchCompletion lid) s fun t =>
        (∀ a, byteAt t.mem a = Spec.stored (byteAt s1.mem) [(loc.pa, [1, 0, 0, 0])] a) ∧ ∃ u, kvGet t.launches lid = some u ∧ u.st = .complete)) ∧
  (∀ (s : State) (die lid : Nat) (l : Launch) (f : Frame) (p : RenderDie), partOf s lid die = some (l, f, p) →
    (∀ prim, (p.released < prim.g → Answers (.primitivePacket die lid prim) s fun t => SameBytes s t ∧ ∃ q, (partOf t lid die).map (·.2.2) = some q ∧ q.held = p.held ++ [prim] ∧ q.tiles = p.tiles) ∧
      (prim.g ≤ p.released → Answers (.primitivePacket die lid prim) s fun t => SameBytes s t ∧ ∃ q, (partOf t lid die).map (·.2.2) = some q ∧ q.held = p.held ∧ q.packets = p.packets ++ [prim] ∧
        q.tiles.map (·.prims) = p.tiles.map fun x => match primBox prim f.desc.width f.desc.height with
          | some b => if (boxTiles f.desc.tw b).contains x.tile then x.prims ++ [prim] else x.prims
          | none => x.prims)) ∧
    (p.markers = [] → (∀ g, g ≠ p.released → Answers (.endOfGroupMarker die lid g) s fun t => SameBytes s t ∧ ∃ q, (partOf t lid die).map (·.2.2) = some q ∧ q.markers = [g] ∧ q.released = p.released) ∧
      Answers (.endOfGroupMarker die lid p.released) s (fun t => SameBytes s t ∧ ∃ q, (partOf t lid die).map (·.2.2) = some q ∧ q.markers = [] ∧ q.released = p.released + 1 ∧
        (∀ x ∈ q.held, x.g ≠ p.released + 1) ∧ (p.released + 1 = l.bay.tasks → p.binned = false → q.binned = true ∧ ∀ x ∈ p.tiles, Comes t (.tileShadeStart die lid x.tile)))) ∧
    (∀ tile x, p.tiles.find? (fun y => y.tile == tile) = some x → l.active = true → (∀ k ∈ s.cores, ∀ y ∈ k.2.l1, y.dirty = 0) →
      ((x.st = .opaqueRun ∨ x.st = .blendRun) ∨ stageHeld s lid l = true ∨ (f.desc.reshade = false ∧ batchWaits p tile = true) →
        Answers (.tileShadeStart die lid tile) s fun t => SameBytes s t ∧ Comes t (.tileShadeStart die lid tile)) ∧
      ((x.st = .binning ∨ x.st = .finished) → stageHeld s lid l = false → (f.desc.reshade = true ∨ batchWaits p tile = false) → let final := resolvedTile f p x
        let c := clearWaits s die l.ctx (.tile lid die tile) (clearPieces f.desc tile ++ if f.desc.reshade then [] else binPieces f p final)
        let begins (t : State) (y : Tile) : Prop := ∃ f' q, (partOf t lid die).map (·.2) = some (f', q) ∧ (∀ z ∈ q.tiles, z.tile = tile → z.st = .opaqueRun) ∧
          f'.queued = f.queued ++ (opaqueSwells l lid f y).map fun w => (die, w)
        (c.1 = true → Answers (.tileShadeStart die lid tile) s fun t => Comes t (.tileShadeStart die lid tile)) ∧
        (c.1 = false → f.desc.reshade = false → Answers (.tileShadeStart die lid tile) s fun t => begins t final) ∧
        (∀ y s2, c.1 = false → f.desc.reshade = true → loadTile c.2 l.ctx (.tile lid die tile) f p x = .ok (y, s2) → Answers (.tileShadeStart die lid tile) s fun t => begins t y)) ∧
      (x.st = .opaqueRun → stageHeld s lid l = false → x.prims.all (fun y => !y.blend) = true → launchSwells s lid (fun w => w.role == .opaquePix tile) = false →
        launchSwells s lid (fun w => match w.role with | .blendPix u _ _ => u == tile | _ => false) = false → Answers (.blendSwellsStart die lid tile) s fun t => SameBytes s t ∧ Comes t (.launchCompletion lid) ∧
          ∃ q, (partOf t lid die).map (·.2.2) = some q ∧ ∀ y ∈ q.tiles, y.tile = tile → y.st = .finished))) ∧
  (∀ (s : State) (cl e : Nat) (m : EngCmd), OnlyCmd s cl e m → m.kind = .copy → cmdBar .copy m.block = none →
    (m.st = .queued → copyReason m.block ≠ 0 → ticketKept (s.engine cl e) m.seq = true → Answers (.engineStep cl e) s fun t => SameBytes s t ∧ (t.engine cl e).cmds = [] ∧ TicketIs t cl e m.ctx m.seq (copyReason m.block * 16 + 3)) ∧
    (∀ n src dst : Nat, (m.st = .queued → copyReason m.block = 0) → boardHolds s cl m = false → copyXp m.block = 0 → copySsp m.block = 1 → copyDsp m.block = 1 → copyRlen m.block = n →
      m.total = n → m.done = 0 → blkField m.block 7 24 1 = 0 → 0 < n → n ≤ 64 → src = blkPair m.block 0 % 2 ^ 32 → dst = blkPair m.block 2 % 2 ^ 32 → n ≤ 256 - src % 256 → n ≤ 256 - dst % 256 →
      scratchBad s m.core m.ctx (BitVec.ofNat 32 src) n false = false → scratchErr s m.core (BitVec.ofNat 32 src) n = false → scratchBad s m.core m.ctx (BitVec.ofNat 32 dst) n true = false → ticketKept (s.engine cl e) m.seq = true → (∀ x ∈ s.clusters, x.2.waiters = []) →
      Answers (.engineStep cl e) s fun t => SameBytes s t ∧ scratchRead t m.core (BitVec.ofNat 32 dst) n = scratchRead s m.core (BitVec.ofNat 32 src) n ∧
        (t.engine cl e).cmds = [] ∧ TicketIs t cl e m.ctx m.seq 2))

/-- Contexts, mailboxes, registers, apertures, puts, collectives and fault answers act as their events say. The model’s choice: a teardown is taken from STATE 3 too (log 32), the pilot’s handle is 1 (log 52), which physical addresses exist (log 33), which copy of a mailbox word a host write fills (log 53), and where a function takes its PASID (log 8). (R293, R394, R397, R399, R408, R413, R414, R415, R417, R419, R422, R425) -/
def Obligations.HostAndContextEventsAct : Prop :=
  (∀ (s : State) (ctx : Nat),
    let s1 := requestCreate s ctx
    let va := (s1.ctx ctx).field 0x40 8
    (((s.ctx ctx).status ≠ 0 ∧ (s.ctx ctx).status ≠ 1) → Answers (.contextCreate ctx) s fun t => SameBytes s t ∧ (t.ctx ctx).status = (s.ctx ctx).status ∧ t.launches = s.launches) ∧
    ((s.ctx ctx).status = 0 → (recordBad (s1.ctx ctx) = true ∨ va % 64 ≠ 0) → Answers (.contextCreate ctx) s fun t => SameBytes s t ∧ (t.ctx ctx).status = 0 ∧ t.launches = s.launches ∧
      (t.ctx ctx).elhead = 1 ∧ byteAt (t.ctx ctx).bar 0x24010 = 6) ∧
    (∀ loc s2, (s.ctx ctx).status = 0 → recordBad (s1.ctx ctx) = false → va % 64 = 0 → devPlace s1 s1.pkg.lead ctx true .load va 64 .create = (.ok loc, s2) → loc.host = false →
      let bs := coherentBytes s2 loc.pa 64
      let l := newLaunch s2 ctx (BitVec.ofNat 64 va) (bayOf bs) true
      bayLimits s2 bs = false → l.bay.host = true → l.bay.render = false → bayMarked s2 l = false → Answers (.contextCreate ctx) s fun t => SameBytes s t ∧ (t.ctx ctx).status = 2 ∧
        kvGet t.launches s2.nextMsg = some { l with handle := 1 } ∧ ∀ d ∈ l.dieList, Comes t (.dispatcherRefill d s2.nextMsg))) ∧
  (∀ (s : State) (ctx : Nat),
    ((s.ctx ctx).status = 2 → (∀ x ∈ s.swells, x.2.ctx ≠ ctx) → Answers (.contextSuspend ctx) s fun t => SameBytes s t ∧ t.swells = s.swells ∧ (t.ctx ctx).status = 4) ∧
    ((s.ctx ctx).status = 2 → (∃ x ∈ s.swells, x.2.ctx = ctx) → Answers (.contextSuspend ctx) s fun t => SameBytes s t ∧ t.swells = s.swells ∧ (t.ctx ctx).status = 3 ∧
      ∀ x ∈ s.swells, x.2.ctx = ctx → mayLeave s x.1 x.2 = true → Comes t (.swellEviction ⟨x.1, x.2.uid⟩)) ∧
    ((s.ctx ctx).status = 4 → Answers (.contextResume ctx) s fun t => SameBytes s t ∧ t.swells = s.swells ∧ (t.ctx ctx).status = 2 ∧
      ∀ x ∈ s.launches, x.2.ctx = ctx → x.2.active = true → (∀ c ∈ x.2.cores, Comes t (.taskStart c x.1)) ∧ ∀ d ∈ x.2.dieList, Comes t (.dispatcherRefill d x.1)) ∧
    ((s.ctx ctx).status ∈ [2, 3, 4] → Answers (.contextTeardown ctx) s fun t => ((t.ctx ctx).status = 5 ∨ (t.ctx ctx).status = 6) ∧ (∀ x ∈ t.swells, x.2.ctx ≠ ctx) ∧
      ∀ x ∈ t.launches, x.2.ctx = ctx → x.2.active = false) ∧
    ((s.ctx ctx).status = 6 → (∀ d, Settled s d) → Answers (.contextFree ctx) s fun t => SameBytes s t ∧ (t.ctx ctx).status = 0 ∧ (t.ctx ctx).sluiceDies = [] ∧ (∀ x ∈ t.launches, x.2.ctx ≠ ctx) ∧
      ∀ d, ∀ x ∈ (t.die d).sluice.ents, x.ctx ≠ ctx)) ∧
  (∀ (s : State) (ctx i : Nat) (v : Word), i < 32 → s.pkg.powerState = 0 →
    let off : Nat := (s.ctx ctx).field 0x50 4 + 4 * i
    (hostBehind s ctx ≠ 0 → Answers (.mailboxWrite ctx i v) s fun t => t = { s with due := t.due } ∧ (s.now + hostBehind s ctx, Internal.mailboxWrite ctx i v) ∈ t.due) ∧
    (hostBehind s ctx = 0 → ((s.ctx ctx).status = 0 ∨ (s.ctx ctx).status = 6) → Answers (.mailboxWrite ctx i v) s fun t => SameBytes s t ∧ (t.ctx ctx).mbWords = (s.ctx ctx).mbWords ∧ (t.ctx ctx).mbFull = (s.ctx ctx).mbFull) ∧
    (hostBehind s ctx = 0 → (s.ctx ctx).status ≠ 0 → (s.ctx ctx).status ≠ 6 →
      ((mbStat s ctx).getLsbD i = true → Answers (.mailboxWrite ctx i v) s fun t => SameBytes s t ∧ (t.ctx ctx).mbWords = (s.ctx ctx).mbWords ∧ t.cores = s.cores ∧
        (t.ctx ctx).mbOvf = (s.ctx ctx).mbOvf ||| BitVec.twoPow 32 i) ∧
      ((mbStat s ctx).getLsbD i = false → mailboxCore s ctx = none → i < (s.ctx ctx).mbWords.length → Answers (.mailboxWrite ctx i v) s fun t => SameBytes s t ∧
        (t.ctx ctx).mbWords[i]? = some v ∧ (t.ctx ctx).mbFull = (s.ctx ctx).mbFull ||| BitVec.twoPow 32 i) ∧
      (∀ c, (mbStat s ctx).getLsbD i = false → mailboxCore s ctx = some c → (s.cluster (clusterOfCore c)).waiters = [] → Answers (.mailboxWrite ctx i v) s fun t => SameBytes s t ∧
        wordOfList (readBytes (t.core c).scratch off 4) = v ∧ (t.core c).full.contains (off / 4) = true))) ∧
  (∀ (s : State) (fn : HostFn) (ctx off : Nat) (base : Addr) (bytes : List Byte), s.pkg.powerState = 0 → bytes ≠ [] →
    (fn = .work ctx ∧ base = (s.ctx ctx).apbase ∨ (∃ p die, fn = .data die ∧ s.pkg.ports.find? (fun p => p.die == die) = some p ∧ die ≠ s.pkg.primary ∧ ctx = p.apsel.toNat ∧ base = p.apbase)) →
    let pa : Nat := base.toNat + off % 2 ^ 36
    (Plain s → HbmPlace bytes.length ⟨0, 0, ⟨pa, .coh, false, paDie pa, false⟩⟩ → inShelf (pa + bytes.length - 1) = false → paExists pa = true → paExists (pa + bytes.length - 1) = true →
      (hostBehind s ctx = 0 → Answers (.apertureWrite fn off bytes) s fun t => ∀ a, byteAt t.mem a = Spec.stored (byteAt s.mem) [(pa, bytes)] a) ∧
      (hostBehind s ctx ≠ 0 → Answers (.apertureWrite fn off bytes) s fun t => SameBytes s t ∧ (s.now + hostBehind s ctx, Internal.homeWrite s.nextMsg) ∈ t.due ∧
        ∃ m, kvGet t.msgs s.nextMsg = some m ∧ m.ctx = ctx ∧ m.loc.pa = pa)) ∧
    (paExists pa = false → Answers (.apertureWrite fn off bytes) s fun t => SameBytes s t)) ∧
  (∀ (s : State) (fn : HostFn) (ctx die off size : Nat) (v : Addr), s.pkg.powerState = 0 →
    (((size ≠ 4 ∧ size ≠ 8) ∨ off % size ≠ 0) → Answers (.registerWrite fn off size v) s fun t => t = s) ∧
    Answers (.registerWrite .pf1 0 4 v) s (fun t => t = { s with pkg := t.pkg, dies := t.dies } ∧
      (∀ d, t.die d = { s.die d with emergency := (t.die d).emergency }) ∧ (∀ x ∈ t.dies, x.2.clock < 1024 - (v.extractLsb' 0 10).toNat → x.2.emergency = true) ∧ t.pkg = { s.pkg with pwrhr := t.pkg.pwrhr } ∧ t.pkg.pwrhr.extractLsb' 0 10 = v.extractLsb' 0 10 ∧
      t.pkg.pwrhr.extractLsb' 16 16 = if v.extractLsb' 16 16 = 0 then s.pkg.pwrhr.extractLsb' 16 16 else 0) ∧
    Answers (.registerWrite .pf1 4 4 v) s (fun t => t = { s with pkg := { s.pkg with ltol := (v.setWidth 32 : Word) &&& 0xFFFFF#32 } }) ∧
    Answers (.registerWrite .pf1 8 4 v) s (fun t => t = { s with pkg := { s.pkg with node := (v.setWidth 32 : Word) &&& 0xFF#32 } }) ∧
    Answers (.registerWrite (.work ctx) 0x100 8 v) s (fun t => SameBytes s t ∧ t.ctx ctx = { s.ctx ctx with apbase := v &&& 0x000FFFF000000000#64 }) ∧
    Answers (.registerWrite (.work ctx) 0x11C 4 v) s (fun t => SameBytes s t ∧ t.ctx ctx = { s.ctx ctx with eltail := v.setWidth 32 }) ∧
    Answers (.registerWrite (.config ctx) 0 4 v) s (fun t => SameBytes s t ∧ t.ctx ctx = { s.ctx ctx with pasid := v.extractLsb' 0 20 }) ∧
    Answers (.registerWrite (.data die) 0 4 v) s (fun t => SameBytes s t ∧ ∀ p ∈ t.pkg.ports, p.die = die → p.apsel = v.extractLsb' 0 6) ∧
    (off % 4 = 0 → off + 4 ≤ 0x54 → (((s.ctx ctx).status = 0 ∨ (s.ctx ctx).status = 6) → Answers (.registerWrite (.work ctx) off 4 v) s fun t => SameBytes s t ∧
        (t.ctx ctx).field off 4 = (v.setWidth 32 : Word).toNat) ∧
      ((s.ctx ctx).status ≠ 0 → (s.ctx ctx).status ≠ 6 → Answers (.registerWrite (.work ctx) off 4 v) s fun t => SameBytes s t ∧ (t.ctx ctx).field off 4 = (s.ctx ctx).field off 4))) ∧
  (∀ (s : State) (put : PutIn), let w := (s.ctx put.ctx).window put.win
    ((w.valid = false ∨ w.putin = false ∨ (s.ctx put.ctx).status = 0 ∨ (s.ctx put.ctx).status = 6) → Answers (.putArrival put) s fun t => SameBytes s t ∧ t.pkg.acks = (put, 3) :: s.pkg.acks) ∧
    (w.valid = true → w.putin = true → (s.ctx put.ctx).status ≠ 0 → (s.ctx put.ctx).status ≠ 6 →
      (w.size < put.toff + put.bytes.length → Answers (.putArrival put) s fun t => SameBytes s t ∧ t.pkg.acks = (put, 6) :: s.pkg.acks) ∧
      (∀ l1 l2 s1 s2, put.toff + put.bytes.length ≤ w.size → put.sig = none → w.tcnt % 4 = 0 → s.pkg.heldPuts = [] → put.bytes ≠ [] → (w.base + put.toff) % 256 + put.bytes.length ≤ 256 →
        agentPlace s s.pkg.lead put.ctx true .engWrite (w.base + put.toff) put.bytes.length none = (.ok l1, s1) → agentPlace s1 s.pkg.lead put.ctx true .atomic w.tcnt 4 none = (.ok l2, s2) →
        Plain s2 → HbmPlace put.bytes.length ⟨0, 0, l1⟩ → HbmPlace 4 ⟨0, 0, l2⟩ → (l1.pa + put.bytes.length ≤ l2.pa ∨ l2.pa + 4 ≤ l1.pa) → Answers (.putArrival put) s fun t =>
          t.pkg.acks = (put, 0) :: s.pkg.acks ∧
          ∀ a, byteAt t.mem a = Spec.stored (byteAt s2.mem) [(l1.pa, put.bytes), (l2.pa, wordBytes (wordOfList (readBytes s2.mem l2.pa 4) + 1))] a))) ∧
  (∀ (s : State) (k r : Nat) (p : Put) (m : EngCmd), kvGet s.pkg.puts k = some p → s.cmdAt p.cluster p.engine p.seq = some m → p.engine < 5 → m.kind = .wsend → m.done = 0 → ticketKept (s.engine p.cluster p.engine) p.seq = true →
    let ended (t : State) (status : Nat) : Prop := kvGet t.pkg.puts k = none ∧ TicketIs t p.cluster p.engine m.ctx p.seq status
    (0 < r → r < 16 → Answers (.putAcknowledgement k r) s fun t => SameBytes s t ∧ ended t (r * 16 + 3)) ∧
    (∀ l s1, cmdPlace s p.cluster m .atomic ((s.ctx p.ctx).window p.win).ocnt 4 = (.ok l, s1) → Plain s1 → HbmPlace 4 ⟨0, 0, l⟩ → Answers (.putAcknowledgement k 0) s fun t => ended t 2 ∧
      ∀ a, byteAt t.mem a = Spec.stored (byteAt s1.mem) [(l.pa, wordBytes (wordOfList (readBytes s1.mem l.pa 4) + 1))] a) ∧
    (p.waiting = true → p.tried + 2 ^ 24 ≤ s.now → Answers (.putLinkTimeout k) s fun t => SameBytes s t ∧ ended t (8 * 16 + 3)) ∧
    (p.waiting = false → Answers (.putLinkTimeout k) s fun t => t = s)) ∧
  (∀ (s : State) (ctx id d cl e : Nat) (m : EngCmd), collParts s ctx id = [(d, cl, e, m)] → s.pkg.xfers = [] → e < 5 → m.kind = .coll → m.done = 0 → ticketKept (s.engine cl e) m.seq = true →
    (collBad s d m = true → Answers (.collectiveExchange ctx id []) s fun t => SameBytes s t ∧ TicketIs t cl e m.ctx m.seq 0x13) ∧
    (∀ bs s1 s2 s4 l, collBad s d m = false → collKind m.block = 1 → collNpk m.block = 1 → collCove m.block = [d] → collStats m.block = false →
      collGather s [(d, cl, e, m)] = (.ok [(0, bs)], s1) → collBlocked s1 [(d, cl, e, m)] = (none, s2) → blkPair m.block 2 % 256 + bs.length ≤ 256 → bs ≠ [] →
      collPlaces { collClear s2 ctx id with freeCtr := s2.freeCtr + 2 } cl m [(blkPair m.block 2, bs.length)] = (.ok [l], s4) → Plain s4 → HbmPlace bs.length ⟨0, 0, l⟩ →
      Answers (.collectiveExchange ctx id []) s fun t => TicketIs t cl e m.ctx m.seq 2 ∧ ∀ a, byteAt t.mem a = Spec.stored (byteAt s4.mem) [(l.pa, bs)] a)) ∧
  (∀ (s : State) (die ctx page : Nat) (kind : ReqKind) (who : Option FragId),
    (serviceServes s ctx page kind who = false → Answers (.faultServiceRequest die ctx page kind who) s fun t => t = s) ∧
    (serviceServes s ctx page kind who = true → serviceBusy s die ctx page = true → Answers (.faultServiceRequest die ctx page kind who) s fun t =>
      SameBytes s t ∧ t.dies = s.dies ∧ Comes t (.faultServiceRequest die ctx page kind who)) ∧
    (serviceServes s ctx page kind who = true → serviceBusy s die ctx page = false →
      (isHost (BitVec.ofNat 64 (page * 65536)) = true → Answers (.faultServiceRequest die ctx page kind who) s fun t => SameBytes s t ∧ Comes t (.priPageRequest ctx page kind who)) ∧
      (isHost (BitVec.ofNat 64 (page * 65536)) = false → Answers (.faultServiceRequest die ctx page kind who) s fun t => SameBytes s t ∧
        (∃ r ∈ (t.die die).reqs, r.ctx = ctx ∧ r.page = pageName s ctx page ∧ ∀ a ∈ askersOf s die ctx page kind who, a ∈ r.who) ∧
        ((∀ x ∈ s.dies, x.2.reqs = []) → (s.ctx ctx).fqhead - (s.ctx ctx).fqtail ≠ 4096 → (t.ctx ctx).fqhead = (s.ctx ctx).fqhead + 1 ∧
          readNat (t.ctx ctx).bar (0x30000 + 16 * ((s.ctx ctx).fqhead.toNat % 4096)) 8 = pageName s ctx page * 65536 % 2 ^ 64))) ∧
    (∀ fr, who = some fr → serviceServes s ctx page kind who = true → Answers (.priPageRequest ctx page kind who) s fun t => SameBytes s t ∧ ∃ r ∈ (t.die (dieOfKey fr.key)).reqs, r.ctx = ctx ∧ r.page = pageName s ctx page ∧
      ∀ a ∈ askersOf s (dieOfKey fr.key) ctx page kind who, a ∈ r.who)) ∧
  (∀ (s : State) (ctx d p : Nat) (va word : Addr) (r : PageReq) (fr : FragId) (w : Swell), d < 64 → (s.die d).reqs = [r] → (∀ e, e ≠ d → (s.die e).reqs = []) → r.ctx = ctx → r.who = [.swell fr] →
    anySwell s fr.uid = some (some fr.key, w) → s.swellAt fr.swell = some w → (w.ent fr.ent).wait = some (.service p va) → (r.page = p ∨ r.page = p / 512 * 512) → w.busy = false →
    (s.cluster (clusterOfCore (coreOfKey fr.key))).waiters = [] →
    let c := coreOfKey fr.key
    let off := wakeOffset (s.core c) (slotOfKey fr.key)
    let answered (t : State) (result : Nat) : Prop := SameBytes s t ∧ (∀ e, (t.die e).reqs = []) ∧ ∃ u, t.swellAt fr.swell = some u ∧ u.v = w.v ∧ u.s = w.s ∧ (u.ent fr.ent).wait = none ∧
      (u.ent fr.ent).st = 0 ∧ (u.ent fr.ent).pc = (w.ent fr.ent).pc ∧ (let f := w.ent fr.ent; let x : Denial := ⟨p, f.rep, f.inCont, f.priv != 0⟩; (u.ent fr.ent).denied = if result = 2 then x :: f.denied.filter (fun y => y != x) else f.denied) ∧
      wordOfList (readBytes (t.core c).scratch off 4) = BitVec.ofNat 32 result ∧ (t.core c).full.contains (off / 4) = true
    (∀ result, result = 1 ∨ result = 2 → (word.extractLsb' 32 2).toNat = result → word.extractLsb' 34 30 = 0 →
      s.dies.findSome? (fun x => x.2.reqs.find? fun r => r.ctx == ctx && r.fqid == some (loWord word)) = some r → Answers (.faultAnswer ctx word) s fun t => answered t result) ∧
    (s.dies.findSome? (fun x => x.2.reqs.find? fun r => r.ctx == ctx && r.fqid == some (loWord word)) = none → Answers (.faultAnswer ctx word) s fun t => SameBytes s t ∧ t.swells = s.swells ∧ t.dies = s.dies) ∧
    Answers (.priPageResponse ctx r.page true) s (fun t => answered t 1) ∧ Answers (.priPageResponse ctx r.page false) s (fun t => answered t 2))

/-- Links, time discipline, power, meters, cores, dies, modules and boot act as their events say. The model’s choice: every count is equal after ATIME_BOOT_SET (log 7), a PPS or PTP input sets FLOCK (log 50), the copy of an HBM4E channel lasts a free number of ticks (log 63), and an inter-die link is serviced by a new table entry (log 74). (R362, R363, R366, R367, R368, R369, R371, R384, R386, R391, R392, R431) -/
def Obligations.PackageEventsAct : Prop :=
  (∀ (s : State) (die edge cls k : Nat) (m : Msg), kvGet s.msgs k = some m → m.flits ≤ 262144 →
    ((s.die die).links = [] → outQueue s die edge cls = [k] → Answers (.linkStallSpill die edge cls) s fun t => SameBytes s t ∧ (t.die die).links = [⟨edge, cls, [k], []⟩] ∧ ¬ Comes t (m.event k) ∧
      Comes t (.linkSpillDrain die edge cls) ∧ ∃ r, kvGet (t.die die).spillRegs edge = some r ∧ r.occ = BitVec.ofNat 19 m.flits ∧ r.cls = BitVec.ofNat 2 cls ∧
        let old := ((kvGet (s.die die).spillRegs edge).getD ⟨0, 0, 0⟩).spills
        r.spills = if old = BitVec.allOnes 32 then old else old + 1) ∧
    (outQueue s die edge cls = [] → Answers (.linkStallSpill die edge cls) s fun t => t = s) ∧
    ((s.die die).links = [⟨edge, cls, [k], []⟩] → (∀ d, d ≠ die → (s.die d).links = []) → Answers (.linkSpillDrain die edge cls) s fun t => SameBytes s t ∧ (t.die die).links = [⟨edge, cls, [], []⟩] ∧ Comes t (m.event k) ∧
      ∃ r, kvGet (t.die die).spillRegs edge = some r ∧ r.occ = 0)) ∧
  (∀ (s : State), ((∃ x ∈ s.dies, ∃ l ∈ x.2.links, l.stalled = true) → Answers .routeTableCompute s fun t => SameBytes s t ∧ t.dies = s.dies ∧ Comes t .routeTableCompute) ∧
    ((∀ x ∈ s.dies, ∀ l ∈ x.2.links, l.stalled = false) → Answers .routeTableCompute s fun t => SameBytes s t ∧ ∀ d, d < 64 → (t.die d).routes.length = 64 ∧ (t.die d).routes[d]? = some 0 ∧
      ∀ c ∈ (t.die d).routes, c = 0 ∨ ∃ n, neighbour d (c.toNat - 1) = some n ∧ (linkCost t d (c.toNat - 1)).isSome = true)) ∧
  (∀ (s : State) (die seq : Nat) (t1 t2 t3 : Addr), let d := (s.die die).disc
    Answers (.syncTimer die) s (fun t => SameBytes s t ∧ Comes t (.syncTimer die) ∧ ∀ c ∈ timeChildren s die, Comes t (.sync c (d.syncSeq + 1)) ∧ Comes t (.followUp c (s.atime die))) ∧
    Answers (.sync die seq) s (fun t => SameBytes s t ∧ (t.die die).disc.syncAt = s.atime die ∧ Comes t (.lockLossTimeout die)) ∧
    Answers (.followUp die t1) s (fun t => SameBytes s t ∧ (d.lead = true → (t.die die).disc = d) ∧
      (d.lead = false → let o : Int := (d.syncAt - t1).toInt - d.delay
        (t.die die).disc.slew = -o ∧ (-32767 ≤ o → o ≤ 32767 → (t.die die).disc.ofs = BitVec.ofInt 16 o) ∧
        (4 < o.natAbs → (t.die die).disc.lock = false ∧ (t.die die).disc.loss = if d.lock ∧ d.loss ≠ 255 then d.loss + 1 else d.loss) ∧
        (o.natAbs ≤ 2 → d.good = 15 → (t.die die).disc.lock = true) ∧ (2 < o.natAbs → o.natAbs ≤ 4 → (t.die die).disc.lock = d.lock))) ∧
    (∀ p, timeParent s die = some p → Answers (.pdelayReqTimer die) s (fun t => SameBytes s t ∧ Comes t (.pdelayReq die (s.atime die)) ∧ Comes t (.pdelayReqTimer die)) ∧
      Answers (.pdelayReq die t1) s fun t => SameBytes s t ∧ Comes t (.pdelayResp die t1 (s.atime p) (s.atime p))) ∧
    Answers (.pdelayResp die t1 t2 t3) s (fun t => SameBytes s t ∧ (t.die die).disc = { d with delay := (((s.atime die - t1).toInt - (t3 - t2).toInt) / 2).toNat }) ∧
    ((s.atime die - d.syncAt).toNat < 2 ^ 20 → Answers (.lockLossTimeout die) s fun t => SameBytes s t ∧ t.dies = s.dies ∧ Comes t (.lockLossTimeout die)) ∧
    (2 ^ 20 ≤ (s.atime die - d.syncAt).toNat → d.lead = false → Answers (.lockLossTimeout die) s fun t => SameBytes s t ∧ (t.die die).disc.lock = false)) ∧
  (∀ (s : State) (die : Nat) (v : Word) (offset : Int) (delays : List Nat), let lead := s.pkg.lead
    Answers .timeSourceFail s (fun t => SameBytes s t ∧ (t.die lead).disc.flock = false ∧ (t.die lead).disc.slew = (s.die lead).disc.slew ∧ (t.die lead).disc.holdover = (if (s.die lead).disc.slew = 0 then none else some (s.die lead).disc.fast) ∧ Comes t .plockBroadcast) ∧
    Answers (.tdiscWrite die v) s (fun t => SameBytes s t ∧ (t.die die).disc.src = (if v.extractLsb' 26 2 = 3 then 0 else v.extractLsb' 26 2) ∧
      (t.die die).disc.loss = (if v.extractLsb' 16 8 = 0 then (s.die die).disc.loss else 0) ∧ (t.die die).disc.lock = (s.die die).disc.lock) ∧
    (anyContext s = true → Answers (.atimeBootSet delays) s fun t => t = s) ∧
    (anyContext s = false → Answers (.atimeBootSet delays) s fun t => SameBytes s t ∧ ∀ d, d < 64 → d ≠ lead → t.atime d = s.atime lead ∧ (t.die d).disc.delay = (delays[d]?).getD 0) ∧
    ((s.pkg.managed = true ∧ (s.die lead).disc.src = 2) → Answers (.ppsInput offset) s fun t => SameBytes s t ∧ (t.die lead).disc.flock = true ∧ (t.die lead).disc.slew = -offset) ∧
    (¬ (s.pkg.managed = true ∧ (s.die lead).disc.src = 2) → Answers (.ppsInput offset) s fun t => t = s) ∧
    ((s.pkg.managed = true ∧ (s.die lead).disc.src = 1) → Answers (.ptpPortMessage offset) s fun t => SameBytes s t ∧ (t.die lead).disc.flock = true ∧ (t.die lead).disc.slew = -offset) ∧
    (¬ (s.pkg.managed = true ∧ (s.die lead).disc.src = 1) → Answers (.ptpPortMessage offset) s fun t => t = s) ∧
    Answers .plockBroadcast s (fun t => SameBytes s t ∧ ∀ d, d < 64 → (s.die d).live = true → (t.die d).disc.flock = (s.die lead).disc.flock ∧
      ((t.die d).disc.plock = true ↔ ∀ e, e < 64 → (s.die e).live = true → (s.die e).disc.lock = true)) ∧
    (((s.die lead).live = true ∧ (s.die lead).updating = false) → Answers .leadRoleMove s fun t => t = s) ∧
    (∀ n, ¬ ((s.die lead).live = true ∧ (s.die lead).updating = false) → ([0, 7, 56, 63] ++ List.range 64).find? (fun d => (s.die d).live && !(s.die d).updating) = some n →
      Answers .leadRoleMove s fun t => SameBytes s t ∧ t.pkg.lead = n ∧ (t.die n).disc.lead = true ∧ (t.die n).disc.lock = true ∧ (n ≠ lead → (t.die lead).disc.lead = false))) ∧
  (∀ (s : State) (die clock : Nat), Answers (.powerEmergency die clock) s (fun t => SameBytes s t ∧ (t.die die).clock = clock ∧
      (t.die die).emergency = ((s.die die).emergency || decide (clock < 1024 - (s.pkg.pwrhr.extractLsb' 0 10).toNat))) ∧
    Answers (.powerEmergencyEnd die) s (fun t => SameBytes s t ∧ t.die die = { s.die die with clock := 1024 }) ∧
    Answers (.meterUpdate die) s (fun t => SameBytes s t ∧ Comes t (.meterUpdate die) ∧ ∀ k, k < 64 → let m := t.meter die k
      m.seq = (s.meter die k).seq + 1 ∧ m.mxbusy = (s.meter die k).mxbusy ∧ m.hbmrd = (s.meter die k).hbmrd ∧ m.late = (s.meter die k).late ∧
      readNat m.published 0 8 = m.seq.toNat ∧ readNat m.published 8 8 = (s.atime die).toNat ∧ readNat m.published 0x10 8 = m.mxbusy.toNat) ∧
    (let ltol := (s.pkg.ltol.extractLsb' 0 20).toNat;
      (deviceIdle s = true → s.pkg.idleSince + 2 ^ 20 ≤ s.now → (∀ x ∈ s.dies, x.2.partition = []) → Answers .powerStateEntry s fun t => SameBytes s t ∧
        t.pkg.powerState = if 1000 ≤ ltol then 3 else if 50 ≤ ltol then 2 else if 2 ≤ ltol then 1 else 0) ∧
      ((deviceIdle s = false ∨ s.now < s.pkg.idleSince + 2 ^ 20) → Answers .powerStateEntry s fun t => t = s)) ∧
    Answers .powerStateWake s (fun t => t = { s with pkg := { s.pkg with powerState := 0, idleSince := s.now } })) ∧
  (∀ (s : State) (core die live n : Nat),
    ((s.core core).err.getLsbD 63 = true → Answers (.suspectCoreService core) s fun t => SameBytes s t ∧ (t.core core).stopped = true) ∧
    ((s.core core).err.getLsbD 63 = false → Answers (.suspectCoreService core) s fun t => t = s) ∧
    Answers (.coreSelfTest core true) s (fun t => SameBytes s t ∧ (t.core core).stopped = false ∧ (t.core core).err.getLsbD 63 = false) ∧
    (coreOut (s.die (dieOfCore core)) (core % 256) = false → (∀ x ∈ (s.die (dieOfCore core)).reinstated, x.2 < (s.die (dieOfCore core)).retired.length) → Answers (.coreSelfTest core false) s fun t => SameBytes s t ∧ coreOut (t.die (dieOfCore core)) (core % 256) = true ∧
      (t.die (dieOfCore core)).enabled.getLsbD (core % 256) = false ∧ Comes t .enumeration) ∧
    (coreOut (s.die (dieOfCore core)) (core % 256) = true → Answers (.coreSelfTest core false) s fun t => t = s) ∧
    (markedBusy s = true → Answers .enumeration s fun t => SameBytes s t ∧ t.pkg = s.pkg ∧ Comes t .enumeration) ∧
    (markedBusy s = false → Answers .enumeration s fun t => SameBytes s t ∧ t.pkg.gen = (if s.pkg.gen = BitVec.allOnes 32 then 1 else s.pkg.gen + 1) ∧ t.pkg.marked = [] ∧ t.pkg.rects.length ≤ 64 ∧
      t.pkg.l2p = t.pkg.rects.flatMap fun r => (List.range (r.rows * r.cols)).map fun i => BitVec.ofNat 16 ((r.prow + i / r.cols) * 256 + (r.pcol + i % r.cols))) ∧
    ((∀ x ∈ (s.die die).reinstated, x.2 < (s.die die).retired.length) → Answers (.dieRetirement die live) s fun t => (t.die die).live = false ∧ (∀ i, i < 256 → coreOut (t.die die) i = true) ∧
      Comes t .routeTableCompute ∧ Comes t .plockBroadcast) ∧
    Answers (.hbmChannelSpare die n) s (fun t => SameBytes s t ∧ (((s.die die).hbmSpares.length < 2 → s.now ≤ (t.die die).hbmCopyEnd ∧ t.die die = { s.die die with hbmSpares := (s.die die).hbmSpares ++ [n], hbmCopyEnd := (t.die die).hbmCopyEnd }) ∧
      (2 ≤ (s.die die).hbmSpares.length → t.die die = { s.die die with hbmFailed := true }))) ∧
    ((∃ x ∈ s.dies, x.2.updating = true) → Answers (.firmwareUpdate die .begin) s fun t => t = s) ∧
    ((∀ x ∈ s.dies, x.2.updating = false) → Answers (.firmwareUpdate die .begin) s fun t => SameBytes s t ∧ (t.die die).updating = true) ∧
    (∀ image, Answers (.firmwareUpdate die (.finish image)) s fun t => SameBytes s t ∧ (t.die die).updating = false ∧
      (t.die die).measures = if (s.die die).updating = true then (s.die die).measures.mapIdx (fun i m => if i = 7 then sha256 (m ++ sha256 image) else m) else (s.die die).measures)) ∧
  (∀ (s : State) (n : Nat) (b : Bool) (bs : List Byte), (n < 28 → Answers (.shoreLinkLiveChange n b) s fun t => SameBytes s t ∧ t.pkg.shoreLive.getLsbD n = b ∧
      ∀ i, i ≠ n → t.pkg.shoreLive.getLsbD i = s.pkg.shoreLive.getLsbD i) ∧
    (n < 28 → Answers (.moduleHotSwap (.optical n) b) s fun t => SameBytes s t ∧ t.pkg.shoreLive.getLsbD n = b) ∧
    (∀ edge v, Answers (.moduleHotSwap (.interDie n edge v) b) s fun t => SameBytes s t ∧
      kvGet t.pkg.links (linkKey n edge) = some (if b = true ∧ (neighbour n edge).isSome = true then v &&& 0xF000#16 else 0xC000#16) ∧ Comes t .routeTableCompute) ∧
    Answers (.moduleHotSwap (.pump n) b) s (fun t => SameBytes s t ∧ (n ∈ t.pkg.pumpsOut ↔ b = false)) ∧
    Answers (.moduleHotSwap (.powerStage n) b) s (fun t => SameBytes s t ∧ (n ∈ t.pkg.stagesOut ↔ b = false)) ∧
    Answers (.moduleHotSwap .management b) s (fun t => SameBytes s t ∧ t.pkg.managed = b ∧ (b = false → (s.die s.pkg.lead).disc.src ≠ 0 → (t.die s.pkg.lead).disc.flock = false)) ∧
    (∀ p, s.pkg.ports[n]? = some p → Answers (.hostPortLinkChange n b) s fun t => t.pkg.ports[n]? = some { p with up := b } ∧ (b = false → t = { s with pkg := { s.pkg with ports := t.pkg.ports } })) ∧
    (∀ die m, (s.die die).measures[n]? = some m → Answers (.firmwareMeasure die n bs) s fun t => SameBytes s t ∧ (t.die die).measures[n]? = some (sha256 (m ++ sha256 bs)) ∧
      ∀ i, i ≠ n → (t.die die).measures[i]? = (s.die die).measures[i]?) ∧
    Answers (.getMeasurements bs) s (fun t => t = { s with pkg := { s.pkg with report := t.pkg.report } } ∧ ∃ x, t.pkg.report = x ++ bs ++ Config.signature s.pkg.serial (x ++ bs))) ∧
  (∀ (s : State) (cfg : BootCfg), Answers (.boot cfg) s fun t => t.mem = [] ∧ t.swells = [] ∧ t.launches = [] ∧ t.hostMem = s.hostMem ∧ t.now = s.now ∧ (∀ k, (t.ctx k).status = 0) ∧
    t.pkg.gen = (if s.pkg.gen = BitVec.allOnes 32 then 1 else s.pkg.gen + 1) ∧ (t.die t.pkg.lead).disc.lead = true ∧ (t.die t.pkg.lead).disc.lock = true ∧
    t.pkg.serial = s.pkg.serial ∧ (∀ d, d < 64 → ∀ x ∈ (s.die d).retired, x ∈ (t.die d).retired) ∧ t.pkg.managed = cfg.managed ∧ (∀ d, cfg.managed = true → cfg.primary = some d → d ∈ [0, 7, 56, 63] → d ∈ cfg.portsUp → t.pkg.lead = d) ∧
    (∀ d, cfg.managed = false ∨ cfg.primary = none → [0, 7, 56, 63].find? (fun k => cfg.portsUp.contains k) = some d → t.pkg.lead = d) ∧
    ∀ d, d < 64 → (t.die d).live = true ∧ (t.atime d).toNat = s.now % 2 ^ 64 ∧ Comes t (.meterUpdate d) ∧ (t.die d).routes.length = 64)

/-- Every step keeps the words of a turn legal, and time moves by at most a tick. The model’s choice: the words that a core picks for a tick are performed one by one, and a cycle is a tick (log 3). (R40, R167, R170, R365) -/
def Obligations.TurnStaysLegal : Prop :=
  ∀ s t : State, TurnLegal s → step s = .next t → TurnLegal t ∧ (t.now = s.now ∨ t.now = s.now + 1)

/-- After reset the turn is legal, no context or swell exists, and the registers hold the values that the spec states. (R177, R192, R274, R371, R394, R414, R415, R430) -/
def Obligations.ResetHoldsTheStatedValues : Prop :=
  TurnLegal State.reset ∧ Memory.wf State.reset.mem = true ∧ State.reset.swells = [] ∧ State.reset.launches = [] ∧
  (∀ k, (State.reset.ctx k).status = 0 ∧ (State.reset.ctx k).fqhead = 0 ∧ (State.reset.ctx k).fqtail = 0 ∧ (State.reset.ctx k).elhead = 0 ∧ (State.reset.ctx k).eltail = 0 ∧
    (State.reset.ctx k).elovf = 0 ∧ (State.reset.ctx k).apbase = 0) ∧
  (∀ c, (State.reset.core c).bndReg = 0 ∧ (State.reset.core c).bndScr = 0 ∧ (State.reset.core c).bndTop = 0 ∧ (State.reset.core c).err = 0) ∧
  (∀ d, (State.reset.die d).slabs = [] ∧ (State.reset.die d).measures = List.replicate 8 (List.replicate 32 0)) ∧
  State.reset.pkg.pwrhr = 0x100 ∧ State.reset.pkg.ltol = 0 ∧ State.reset.pkg.node = 0 ∧ State.reset.pkg.routeTable = []
end

