-- ==== Sys2Proof/Laws/Encoding.lean ====
section
/-! SUPPORT. The fields of a packed word are the fields it was packed from, for each format of R65; each code of the tables reads back; and what the decoder does for each opcode. -/

namespace Sys2Proof

/-! ## Fields of a concatenation -/

/-- A field that lies in the last part of a concatenation. -/
theorem field_low {m n : Nat} (x : BitVec m) (y : BitVec n) (s k : Nat) (h : s + k ≤ n) : (x ++ y).extractLsb' s k = y.extractLsb' s k := by
  ext i hi
  simp only [BitVec.getElem_extractLsb', BitVec.getLsbD_append]
  rw [if_pos (by omega)]

/-- A field that lies above the last part of a concatenation. -/
theorem field_high {m n : Nat} (x : BitVec m) (y : BitVec n) (s k : Nat) (h : n ≤ s) : (x ++ y).extractLsb' s k = x.extractLsb' (s - n) k := by
  ext i hi
  simp only [BitVec.getElem_extractLsb', BitVec.getLsbD_append]
  rw [if_neg (by omega)]
  congr 1; omega

/-- The whole of a part. -/
theorem field_all {n : Nat} (x : BitVec n) : x.extractLsb' 0 n = x := by ext i hi; simp

/-- A field of a field. -/
theorem field_field {n : Nat} (x : BitVec n) (s k s' k' : Nat) (h : s' + k' ≤ k) :
    (x.extractLsb' s k).extractLsb' s' k' = x.extractLsb' (s + s') k' := by
  ext i hi
  simp only [BitVec.getElem_extractLsb', BitVec.getLsbD_extractLsb']
  rw [decide_eq_true (by omega), Bool.true_and, Nat.add_assoc]

/-- A bit of a field. -/
theorem bit_field {n : Nat} (x : BitVec n) (s k i : Nat) (h : i < k) : (x.extractLsb' s k).getLsbD i = x.getLsbD (s + i) := by
  simp only [BitVec.getLsbD_extractLsb', decide_eq_true h, Bool.true_and]

/-- Two fields side by side are one. -/
theorem field_append {n : Nat} (x : BitVec n) (s j k : Nat) : x.extractLsb' (s + k) j ++ x.extractLsb' s k = x.extractLsb' s (j + k) := by
  ext i hi
  simp only [BitVec.getElem_append, BitVec.getElem_extractLsb']
  split
  · rfl
  · congr 1; omega

/-! ## The parts of each format -/

@[simp] theorem packReg_of_op (op : BitVec 7) (d : BitVec 7) (a : BitVec 7) (b : BitVec 7) (x : BitVec 4) : fOp (packReg op d a b x) = op :=
  (field_high (op ++ d ++ a ++ b) x 25 7 (by decide)).trans ((field_high (op ++ d ++ a) b 21 7 (by decide)).trans ((field_high (op ++ d) a 14 7 (by decide)).trans ((field_high op d 7 7 (by decide)).trans (field_all op))))
@[simp] theorem packReg_of_d (op : BitVec 7) (d : BitVec 7) (a : BitVec 7) (b : BitVec 7) (x : BitVec 4) : fD (packReg op d a b x) = d :=
  (field_high (op ++ d ++ a ++ b) x 18 7 (by decide)).trans ((field_high (op ++ d ++ a) b 14 7 (by decide)).trans ((field_high (op ++ d) a 7 7 (by decide)).trans ((field_low op d 0 7 (by decide)).trans (field_all d))))
@[simp] theorem packReg_of_a (op : BitVec 7) (d : BitVec 7) (a : BitVec 7) (b : BitVec 7) (x : BitVec 4) : fA (packReg op d a b x) = a :=
  (field_high (op ++ d ++ a ++ b) x 11 7 (by decide)).trans ((field_high (op ++ d ++ a) b 7 7 (by decide)).trans ((field_low (op ++ d) a 0 7 (by decide)).trans (field_all a)))
@[simp] theorem packReg_of_b (op : BitVec 7) (d : BitVec 7) (a : BitVec 7) (b : BitVec 7) (x : BitVec 4) : fB (packReg op d a b x) = b :=
  (field_high (op ++ d ++ a ++ b) x 4 7 (by decide)).trans ((field_low (op ++ d ++ a) b 0 7 (by decide)).trans (field_all b))
@[simp] theorem packReg_of_x (op : BitVec 7) (d : BitVec 7) (a : BitVec 7) (b : BitVec 7) (x : BitVec 4) : fX (packReg op d a b x) = x :=
  (field_low (op ++ d ++ a ++ b) x 0 4 (by decide)).trans (field_all x)
@[simp] theorem packImm_of_op (op : BitVec 7) (d : BitVec 7) (a : BitVec 7) (i : BitVec 9) (pm : BitVec 2) : fOp (packImm op d a i pm) = op :=
  (field_high (op ++ d ++ a ++ i) pm 25 7 (by decide)).trans ((field_high (op ++ d ++ a) i 23 7 (by decide)).trans ((field_high (op ++ d) a 14 7 (by decide)).trans ((field_high op d 7 7 (by decide)).trans (field_all op))))
@[simp] theorem packImm_of_d (op : BitVec 7) (d : BitVec 7) (a : BitVec 7) (i : BitVec 9) (pm : BitVec 2) : fD (packImm op d a i pm) = d :=
  (field_high (op ++ d ++ a ++ i) pm 18 7 (by decide)).trans ((field_high (op ++ d ++ a) i 16 7 (by decide)).trans ((field_high (op ++ d) a 7 7 (by decide)).trans ((field_low op d 0 7 (by decide)).trans (field_all d))))
@[simp] theorem packImm_of_a (op : BitVec 7) (d : BitVec 7) (a : BitVec 7) (i : BitVec 9) (pm : BitVec 2) : fA (packImm op d a i pm) = a :=
  (field_high (op ++ d ++ a ++ i) pm 11 7 (by decide)).trans ((field_high (op ++ d ++ a) i 9 7 (by decide)).trans ((field_low (op ++ d) a 0 7 (by decide)).trans (field_all a)))
@[simp] theorem packImm_of_i (op : BitVec 7) (d : BitVec 7) (a : BitVec 7) (i : BitVec 9) (pm : BitVec 2) : fI9 (packImm op d a i pm) = i :=
  (field_high (op ++ d ++ a ++ i) pm 2 9 (by decide)).trans ((field_low (op ++ d ++ a) i 0 9 (by decide)).trans (field_all i))
@[simp] theorem packImm_of_pm (op : BitVec 7) (d : BitVec 7) (a : BitVec 7) (i : BitVec 9) (pm : BitVec 2) : (packImm op d a i pm).extractLsb' 0 2 = pm :=
  (field_low (op ++ d ++ a ++ i) pm 0 2 (by decide)).trans (field_all pm)
@[simp] theorem packImm16_of_op (op : BitVec 7) (d : BitVec 7) (i : BitVec 16) (pm : BitVec 2) : fOp (packImm16 op d i pm) = op :=
  (field_high (op ++ d ++ i) pm 25 7 (by decide)).trans ((field_high (op ++ d) i 23 7 (by decide)).trans ((field_high op d 7 7 (by decide)).trans (field_all op)))
@[simp] theorem packImm16_of_d (op : BitVec 7) (d : BitVec 7) (i : BitVec 16) (pm : BitVec 2) : fD (packImm16 op d i pm) = d :=
  (field_high (op ++ d ++ i) pm 18 7 (by decide)).trans ((field_high (op ++ d) i 16 7 (by decide)).trans ((field_low op d 0 7 (by decide)).trans (field_all d)))
@[simp] theorem packImm16_of_i (op : BitVec 7) (d : BitVec 7) (i : BitVec 16) (pm : BitVec 2) : fI16 (packImm16 op d i pm) = i :=
  (field_high (op ++ d ++ i) pm 2 16 (by decide)).trans ((field_low (op ++ d) i 0 16 (by decide)).trans (field_all i))
@[simp] theorem packImm16_of_pm (op : BitVec 7) (d : BitVec 7) (i : BitVec 16) (pm : BitVec 2) : (packImm16 op d i pm).extractLsb' 0 2 = pm :=
  (field_low (op ++ d ++ i) pm 0 2 (by decide)).trans (field_all pm)
@[simp] theorem packMem_of_op (op : BitVec 7) (d : BitVec 7) (a : BitVec 7) (sz : BitVec 3) (o : BitVec 4) (la : BitVec 4) : fOp (packMem op d a sz o la) = op :=
  (field_high (op ++ d ++ a ++ sz ++ o) la 25 7 (by decide)).trans ((field_high (op ++ d ++ a ++ sz) o 21 7 (by decide)).trans ((field_high (op ++ d ++ a) sz 17 7 (by decide)).trans ((field_high (op ++ d) a 14 7 (by decide)).trans ((field_high op d 7 7 (by decide)).trans (field_all op)))))
@[simp] theorem packMem_of_d (op : BitVec 7) (d : BitVec 7) (a : BitVec 7) (sz : BitVec 3) (o : BitVec 4) (la : BitVec 4) : fD (packMem op d a sz o la) = d :=
  (field_high (op ++ d ++ a ++ sz ++ o) la 18 7 (by decide)).trans ((field_high (op ++ d ++ a ++ sz) o 14 7 (by decide)).trans ((field_high (op ++ d ++ a) sz 10 7 (by decide)).trans ((field_high (op ++ d) a 7 7 (by decide)).trans ((field_low op d 0 7 (by decide)).trans (field_all d)))))
@[simp] theorem packMem_of_a (op : BitVec 7) (d : BitVec 7) (a : BitVec 7) (sz : BitVec 3) (o : BitVec 4) (la : BitVec 4) : fA (packMem op d a sz o la) = a :=
  (field_high (op ++ d ++ a ++ sz ++ o) la 11 7 (by decide)).trans ((field_high (op ++ d ++ a ++ sz) o 7 7 (by decide)).trans ((field_high (op ++ d ++ a) sz 3 7 (by decide)).trans ((field_low (op ++ d) a 0 7 (by decide)).trans (field_all a))))
@[simp] theorem packMem_of_sz (op : BitVec 7) (d : BitVec 7) (a : BitVec 7) (sz : BitVec 3) (o : BitVec 4) (la : BitVec 4) : (packMem op d a sz o la).extractLsb' 8 3 = sz :=
  (field_high (op ++ d ++ a ++ sz ++ o) la 8 3 (by decide)).trans ((field_high (op ++ d ++ a ++ sz) o 4 3 (by decide)).trans ((field_low (op ++ d ++ a) sz 0 3 (by decide)).trans (field_all sz)))
@[simp] theorem packMem_of_o (op : BitVec 7) (d : BitVec 7) (a : BitVec 7) (sz : BitVec 3) (o : BitVec 4) (la : BitVec 4) : fO4 (packMem op d a sz o la) = o :=
  (field_high (op ++ d ++ a ++ sz ++ o) la 4 4 (by decide)).trans ((field_low (op ++ d ++ a ++ sz) o 0 4 (by decide)).trans (field_all o))
@[simp] theorem packMem_of_la (op : BitVec 7) (d : BitVec 7) (a : BitVec 7) (sz : BitVec 3) (o : BitVec 4) (la : BitVec 4) : fX (packMem op d a sz o la) = la :=
  (field_low (op ++ d ++ a ++ sz ++ o) la 0 4 (by decide)).trans (field_all la)
@[simp] theorem packBra_of_op (op : BitVec 7) (c : BitVec 7) (o : BitVec 18) : fOp (packBra op c o) = op :=
  (field_high (op ++ c) o 25 7 (by decide)).trans ((field_high op c 7 7 (by decide)).trans (field_all op))
@[simp] theorem packBra_of_c (op : BitVec 7) (c : BitVec 7) (o : BitVec 18) : fD (packBra op c o) = c :=
  (field_high (op ++ c) o 18 7 (by decide)).trans ((field_low op c 0 7 (by decide)).trans (field_all c))
@[simp] theorem packBra_of_o (op : BitVec 7) (c : BitVec 7) (o : BitVec 18) : fO18 (packBra op c o) = o :=
  (field_low (op ++ c) o 0 18 (by decide)).trans (field_all o)
@[simp] theorem packTrap_of_op (op : BitVec 7) (imm : BitVec 14) (f : BitVec 7) : fOp (packTrap op imm f) = op :=
  (field_high (op ++ imm ++ f) (0#4) 25 7 (by decide)).trans ((field_high (op ++ imm) f 21 7 (by decide)).trans ((field_high op imm 14 7 (by decide)).trans (field_all op)))
@[simp] theorem packTrap_of_imm (op : BitVec 7) (imm : BitVec 14) (f : BitVec 7) : (packTrap op imm f).extractLsb' 11 14 = imm :=
  (field_high (op ++ imm ++ f) (0#4) 11 14 (by decide)).trans ((field_high (op ++ imm) f 7 14 (by decide)).trans ((field_low op imm 0 14 (by decide)).trans (field_all imm)))
@[simp] theorem packTrap_of_f (op : BitVec 7) (imm : BitVec 14) (f : BitVec 7) : fB (packTrap op imm f) = f :=
  (field_high (op ++ imm ++ f) (0#4) 4 7 (by decide)).trans ((field_low (op ++ imm) f 0 7 (by decide)).trans (field_all f))
@[simp] theorem fX_packTrap (op : BitVec 7) (imm : BitVec 14) (f : BitVec 7) : fX (packTrap op imm f) = 0 :=
  (field_low (op ++ imm ++ f) (0#4) 0 4 (by decide)).trans (field_all (0#4))
@[simp] theorem packHint_of_op (k : BitVec 2) (p : BitVec 23) : fOp (packHint k p) = 0x7F#7 :=
  (field_high ((0x7F#7) ++ k) p 25 7 (by decide)).trans ((field_high (0x7F#7) k 2 7 (by decide)).trans (field_all (0x7F#7)))
@[simp] theorem packHint_of_k (k : BitVec 2) (p : BitVec 23) : (packHint k p).extractLsb' 23 2 = k :=
  (field_high ((0x7F#7) ++ k) p 23 2 (by decide)).trans ((field_low (0x7F#7) k 0 2 (by decide)).trans (field_all k))
@[simp] theorem packHint_of_p (k : BitVec 2) (p : BitVec 23) : (packHint k p).extractLsb' 0 23 = p :=
  (field_low ((0x7F#7) ++ k) p 0 23 (by decide)).trans (field_all p)

/-! ## Parts of a field -/

theorem fHold_eq (w : BitVec 32) : fHold w = Hold.ofBits ((fX w).extractLsb' 2 2) := by rw [fHold, fX, field_field _ _ _ _ _ (by decide)]
theorem fPm_eq (w : BitVec 32) : fPm w = Pm.ofBits (w.extractLsb' 0 2) := rfl
theorem low_of_fX (w : BitVec 32) : w.extractLsb' 0 2 = (fX w).extractLsb' 0 2 := by rw [fX, field_field _ _ _ _ _ (by decide)]
theorem hold_of_fX (w : BitVec 32) : w.extractLsb' 2 2 = (fX w).extractLsb' 2 2 := by rw [fX, field_field _ _ _ _ _ (by decide)]
theorem fTagMember_eq (w : BitVec 32) : fTagMember w = (fB w).extractLsb' 0 3 := by rw [fTagMember, fB, field_field _ _ _ _ _ (by decide)]
theorem fBs_eq (w : BitVec 32) : fBs w = (fB w).getLsbD 3 := by rw [fBs, fB, bit_field _ _ _ _ (by decide)]
theorem fTagHigh_eq (w : BitVec 32) : fTagHigh w = (fB w).extractLsb' 4 3 := by rw [fTagHigh, fB, field_field _ _ _ _ _ (by decide)]
theorem high_of_fB (w : BitVec 32) : w.extractLsb' 8 3 = (fB w).extractLsb' 4 3 := by rw [fB, field_field _ _ _ _ _ (by decide)]
theorem low4_of_fB (w : BitVec 32) : w.extractLsb' 4 4 = (fB w).extractLsb' 0 4 := by rw [fB, field_field _ _ _ _ _ (by decide)]
theorem low5_of_fB (w : BitVec 32) : w.extractLsb' 4 5 = (fB w).extractLsb' 0 5 := by rw [fB, field_field _ _ _ _ _ (by decide)]
theorem bit9_of_fB (w : BitVec 32) : w.getLsbD 9 = (fB w).getLsbD 5 := by rw [fB, bit_field _ _ _ _ (by decide)]
theorem bit10_of_fB (w : BitVec 32) : w.getLsbD 10 = (fB w).getLsbD 6 := by rw [fB, bit_field _ _ _ _ (by decide)]
theorem scope_of_fB (w : BitVec 32) : w.extractLsb' 6 2 = (fB w).extractLsb' 2 2 := by rw [fB, field_field _ _ _ _ _ (by decide)]
theorem kind_of_fB (w : BitVec 32) : w.extractLsb' 4 2 = (fB w).extractLsb' 0 2 := by rw [fB, field_field _ _ _ _ _ (by decide)]
theorem cond_of_fI9 (w : BitVec 32) : w.extractLsb' 8 3 = (fI9 w).extractLsb' 6 3 := by rw [fI9, field_field _ _ _ _ _ (by decide)]
theorem imm6_of_fI9 (w : BitVec 32) : w.extractLsb' 2 6 = (fI9 w).extractLsb' 0 6 := by rw [fI9, field_field _ _ _ _ _ (by decide)]
theorem member_of_fI9 (w : BitVec 32) : w.extractLsb' 9 2 = (fI9 w).extractLsb' 7 2 := by rw [fI9, field_field _ _ _ _ _ (by decide)]
theorem mid_of_fI9 (w : BitVec 32) : w.extractLsb' 7 2 = (fI9 w).extractLsb' 5 2 := by rw [fI9, field_field _ _ _ _ _ (by decide)]
theorem amount_of_fI9 (w : BitVec 32) : w.extractLsb' 2 5 = (fI9 w).extractLsb' 0 5 := by rw [fI9, field_field _ _ _ _ _ (by decide)]

/-! ## Codes read back -/

@[simp] theorem Hold.ofBits_bits (h : Hold) : Hold.ofBits h.bits = h := by cases h <;> rfl
@[simp] theorem Pm.ofBits_bits (p : Pm) : Pm.ofBits p.bits = p := by cases p <;> rfl
@[simp] theorem Rm.ofBits_bits (r : Rm) : Rm.ofBits r.bits = r := by cases r <;> rfl
@[simp] theorem CachePol.ofBits_bits (c : CachePol) : CachePol.ofBits c.bits = c := by cases c <;> rfl
@[simp] theorem MemSize.ofBits_bits (z : MemSize) : MemSize.ofBits z.bits = some z := by cases z <;> rfl
@[simp] theorem CvtSrc.ofBits_bits (c : CvtSrc) : CvtSrc.ofBits c.bits = some c := by cases c <;> rfl
@[simp] theorem CvtDst.ofBits_bits (c : CvtDst) : CvtDst.ofBits c.bits = some c := by cases c <;> rfl
@[simp] theorem hpBits_hold (h : Hold) (p : Pm) : (hpBits h p).extractLsb' 2 2 = h.bits := by cases h <;> cases p <;> rfl
@[simp] theorem hpBits_pm (h : Hold) (p : Pm) : (hpBits h p).extractLsb' 0 2 = p.bits := by cases h <;> cases p <;> rfl
@[simp] theorem tagBits_member (b : Bool) (m : BitVec 3) : (tagBits b m).extractLsb' 0 3 = m := (field_low (0#3 ++ BitVec.ofBool b) m 0 3 (by decide)).trans (field_all m)
@[simp] theorem tagBits_bs (b : Bool) (m : BitVec 3) : (tagBits b m).getLsbD 3 = b := by
  simp only [tagBits, BitVec.getLsbD_append]; cases b <;> rfl
@[simp] theorem tagBits_high (b : Bool) (m : BitVec 3) : (tagBits b m).extractLsb' 4 3 = 0 :=
  (field_high (0#3 ++ BitVec.ofBool b) m 4 3 (by decide)).trans ((field_high (0#3) (BitVec.ofBool b) 1 3 (by decide)).trans (field_all (0#3)))
@[simp] theorem shflBits_count (k : Bool) (c : BitVec 5) : (shflBits k c).extractLsb' 0 5 = c := (field_low (0#1 ++ BitVec.ofBool k) c 0 5 (by decide)).trans (field_all c)
@[simp] theorem shflBits_keep (k : Bool) (c : BitVec 5) : (shflBits k c).getLsbD 5 = k := by
  simp only [shflBits, BitVec.getLsbD_append]; cases k <;> rfl
@[simp] theorem shflBits_top (k : Bool) (c : BitVec 5) : (shflBits k c).getLsbD 6 = false := by
  simp only [shflBits, BitVec.getLsbD_append]; cases k <;> rfl
@[simp] theorem shiftBits_member (m : BitVec 2) (n : BitVec 5) : (shiftBits m n).extractLsb' 7 2 = m :=
  (field_high (m ++ 0#2) n 7 2 (by decide)).trans ((field_high m (0#2) 2 2 (by decide)).trans (field_all m))
@[simp] theorem shiftBits_mid (m : BitVec 2) (n : BitVec 5) : (shiftBits m n).extractLsb' 5 2 = 0 :=
  (field_high (m ++ 0#2) n 5 2 (by decide)).trans ((field_low m (0#2) 0 2 (by decide)).trans (field_all (0#2)))
@[simp] theorem shiftBits_amount (m : BitVec 2) (n : BitVec 5) : (shiftBits m n).extractLsb' 0 5 = n := (field_low (m ++ 0#2) n 0 5 (by decide)).trans (field_all n)
@[simp] theorem cmpBits_cond (c : BitVec 3) (i : BitVec 6) : (cmpBits c i).extractLsb' 6 3 = c := (field_high c i 6 3 (by decide)).trans (field_all c)
@[simp] theorem cmpBits_imm (c : BitVec 3) (i : BitVec 6) : (cmpBits c i).extractLsb' 0 6 = i := (field_low c i 0 6 (by decide)).trans (field_all i)
@[simp] theorem cvtBits_src (s : CvtSrc) (d : BitVec 4) : (cvtBits s d).extractLsb' 4 3 = s.bits := (field_high s.bits d 4 3 (by decide)).trans (field_all _)
@[simp] theorem cvtBits_dst (s : CvtSrc) (d : BitVec 4) : (cvtBits s d).extractLsb' 0 4 = d := (field_low s.bits d 0 4 (by decide)).trans (field_all d)

/-! ## Words put together again -/

/-- A word is its five fields (R65). -/
theorem packReg_fields (w : BitVec 32) : packReg (fOp w) (fD w) (fA w) (fB w) (fX w) = w := by
  have h1 : fOp w ++ fD w = w.extractLsb' 18 14 := field_append w 18 7 7
  have h2 : w.extractLsb' 18 14 ++ fA w = w.extractLsb' 11 21 := field_append w 11 14 7
  have h3 : w.extractLsb' 11 21 ++ fB w = w.extractLsb' 4 28 := field_append w 4 21 7
  have h4 : w.extractLsb' 4 28 ++ fX w = w.extractLsb' 0 32 := field_append w 0 28 4
  unfold packReg
  rw [h1, h2, h3, h4, field_all]

/-- The fields of IMM format. -/
theorem packImm_fields (w : BitVec 32) : packImm (fOp w) (fD w) (fA w) (fI9 w) (w.extractLsb' 0 2) = w := by
  have h1 : fOp w ++ fD w = w.extractLsb' 18 14 := field_append w 18 7 7
  have h2 : w.extractLsb' 18 14 ++ fA w = w.extractLsb' 11 21 := field_append w 11 14 7
  have h3 : w.extractLsb' 11 21 ++ fI9 w = w.extractLsb' 2 30 := field_append w 2 21 9
  have h4 : w.extractLsb' 2 30 ++ w.extractLsb' 0 2 = w.extractLsb' 0 32 := field_append w 0 30 2
  unfold packImm
  rw [h1, h2, h3, h4, field_all]

/-- The fields of IMM16 format. -/
theorem packImm16_fields (w : BitVec 32) : packImm16 (fOp w) (fD w) (fI16 w) (w.extractLsb' 0 2) = w := by
  have h1 : fOp w ++ fD w = w.extractLsb' 18 14 := field_append w 18 7 7
  have h3 : w.extractLsb' 18 14 ++ fI16 w = w.extractLsb' 2 30 := field_append w 2 14 16
  have h4 : w.extractLsb' 2 30 ++ w.extractLsb' 0 2 = w.extractLsb' 0 32 := field_append w 0 30 2
  unfold packImm16
  rw [h1, h3, h4, field_all]

/-- The fields of MEM format. -/
theorem packMem_fields (w : BitVec 32) : packMem (fOp w) (fD w) (fA w) (w.extractLsb' 8 3) (fO4 w) (fX w) = w := by
  have h1 : fOp w ++ fD w = w.extractLsb' 18 14 := field_append w 18 7 7
  have h2 : w.extractLsb' 18 14 ++ fA w = w.extractLsb' 11 21 := field_append w 11 14 7
  have h3 : w.extractLsb' 11 21 ++ w.extractLsb' 8 3 = w.extractLsb' 8 24 := field_append w 8 21 3
  have h4 : w.extractLsb' 8 24 ++ fO4 w = w.extractLsb' 4 28 := field_append w 4 24 4
  have h5 : w.extractLsb' 4 28 ++ fX w = w.extractLsb' 0 32 := field_append w 0 28 4
  unfold packMem
  rw [h1, h2, h3, h4, h5, field_all]

/-- The fields of BRA format. -/
theorem packBra_fields (w : BitVec 32) : packBra (fOp w) (fD w) (fO18 w) = w := by
  have h1 : fOp w ++ fD w = w.extractLsb' 18 14 := field_append w 18 7 7
  have h2 : w.extractLsb' 18 14 ++ fO18 w = w.extractLsb' 0 32 := field_append w 0 14 18
  unfold packBra
  rw [h1, h2, field_all]

/-! ## What the decoder does for each opcode (R80) -/

theorem decodeFields_0x00 (w : BitVec 32) (h : fOp w = 0x00#7) : decodeFields w = .ok (.add (readHP w)) := by rw [decodeFields, h]; rfl
theorem decodeFields_0x01 (w : BitVec 32) (h : fOp w = 0x01#7) : decodeFields w = .ok (.sub (readHP w)) := by rw [decodeFields, h]; rfl
theorem decodeFields_0x02 (w : BitVec 32) (h : fOp w = 0x02#7) : decodeFields w = .ok (.mul (readHP w)) := by rw [decodeFields, h]; rfl
theorem decodeFields_0x03 (w : BitVec 32) (h : fOp w = 0x03#7) : decodeFields w = .ok (.mac (readHP w)) := by rw [decodeFields, h]; rfl
theorem decodeFields_0x04 (w : BitVec 32) (h : fOp w = 0x04#7) : decodeFields w = .ok (.and (readHP w)) := by rw [decodeFields, h]; rfl
theorem decodeFields_0x05 (w : BitVec 32) (h : fOp w = 0x05#7) : decodeFields w = .ok (.or (readHP w)) := by rw [decodeFields, h]; rfl
theorem decodeFields_0x06 (w : BitVec 32) (h : fOp w = 0x06#7) : decodeFields w = .ok (.xor (readHP w)) := by rw [decodeFields, h]; rfl
theorem decodeFields_0x07 (w : BitVec 32) (h : fOp w = 0x07#7) : decodeFields w = .ok (.andn (readHP w)) := by rw [decodeFields, h]; rfl
theorem decodeFields_0x08 (w : BitVec 32) (h : fOp w = 0x08#7) : decodeFields w = .ok (.shl (readHP w)) := by rw [decodeFields, h]; rfl
theorem decodeFields_0x09 (w : BitVec 32) (h : fOp w = 0x09#7) : decodeFields w = .ok (.shr (readHP w)) := by rw [decodeFields, h]; rfl
theorem decodeFields_0x0A (w : BitVec 32) (h : fOp w = 0x0A#7) : decodeFields w = .ok (.sra (readHP w)) := by rw [decodeFields, h]; rfl
theorem decodeFields_0x0B (w : BitVec 32) (h : fOp w = 0x0B#7) : decodeFields w = .ok (.min (readHP w)) := by rw [decodeFields, h]; rfl
theorem decodeFields_0x0C (w : BitVec 32) (h : fOp w = 0x0C#7) : decodeFields w = .ok (.max (readHP w)) := by rw [decodeFields, h]; rfl
theorem decodeFields_0x0D (w : BitVec 32) (h : fOp w = 0x0D#7) : decodeFields w = .ok (.minn (readHP w)) := by rw [decodeFields, h]; rfl
theorem decodeFields_0x0E (w : BitVec 32) (h : fOp w = 0x0E#7) : decodeFields w = .ok (.maxn (readHP w)) := by rw [decodeFields, h]; rfl
theorem decodeFields_0x0F (w : BitVec 32) (h : fOp w = 0x0F#7) : decodeFields w = .ok (.sel (readHP w)) := by rw [decodeFields, h]; rfl
theorem decodeFields_0x10 (w : BitVec 32) (h : fOp w = 0x10#7) : decodeFields w = .ok (.ceq (readHP w)) := by rw [decodeFields, h]; rfl
theorem decodeFields_0x11 (w : BitVec 32) (h : fOp w = 0x11#7) : decodeFields w = .ok (.cne (readHP w)) := by rw [decodeFields, h]; rfl
theorem decodeFields_0x12 (w : BitVec 32) (h : fOp w = 0x12#7) : decodeFields w = .ok (.clt (readHP w)) := by rw [decodeFields, h]; rfl
theorem decodeFields_0x13 (w : BitVec 32) (h : fOp w = 0x13#7) : decodeFields w = .ok (.cle (readHP w)) := by rw [decodeFields, h]; rfl
theorem decodeFields_0x14 (w : BitVec 32) (h : fOp w = 0x14#7) : decodeFields w = .ok (.cltn (readHP w)) := by rw [decodeFields, h]; rfl
theorem decodeFields_0x15 (w : BitVec 32) (h : fOp w = 0x15#7) : decodeFields w = .ok (.clen (readHP w)) := by rw [decodeFields, h]; rfl
theorem decodeFields_0x16 (w : BitVec 32) (h : fOp w = 0x16#7) : decodeFields w = decodeIxt w := by rw [decodeFields, h]; rfl
theorem decodeFields_0x17 (w : BitVec 32) (h : fOp w = 0x17#7) : decodeFields w = decodeIntf w := by rw [decodeFields, h]; rfl
theorem decodeFields_0x18 (w : BitVec 32) (h : fOp w = 0x18#7) : decodeFields w = .ok (.addi (readImmPM w)) := by rw [decodeFields, h]; rfl
theorem decodeFields_0x19 (w : BitVec 32) (h : fOp w = 0x19#7) : decodeFields w = .ok (.andi (readImmPM w)) := by rw [decodeFields, h]; rfl
theorem decodeFields_0x1A (w : BitVec 32) (h : fOp w = 0x1A#7) : decodeFields w = .ok (.ori (readImmPM w)) := by rw [decodeFields, h]; rfl
theorem decodeFields_0x1B (w : BitVec 32) (h : fOp w = 0x1B#7) : decodeFields w = .ok (.xori (readImmPM w)) := by rw [decodeFields, h]; rfl
theorem decodeFields_0x1C (w : BitVec 32) (h : fOp w = 0x1C#7) : decodeFields w = decodeShi w := by rw [decodeFields, h]; rfl
theorem decodeFields_0x1D (w : BitVec 32) (h : fOp w = 0x1D#7) : decodeFields w = .ok (.movi (readMoviPM w)) := by rw [decodeFields, h]; rfl
theorem decodeFields_0x1E (w : BitVec 32) (h : fOp w = 0x1E#7) : decodeFields w = decodeCmpi w := by rw [decodeFields, h]; rfl
theorem decodeFields_0x1F (w : BitVec 32) (h : fOp w = 0x1F#7) : decodeFields w = .ok (.fadd (readHP w)) := by rw [decodeFields, h]; rfl
theorem decodeFields_0x20 (w : BitVec 32) (h : fOp w = 0x20#7) : decodeFields w = .ok (.fsub (readHP w)) := by rw [decodeFields, h]; rfl
theorem decodeFields_0x21 (w : BitVec 32) (h : fOp w = 0x21#7) : decodeFields w = .ok (.fmul (readHP w)) := by rw [decodeFields, h]; rfl
theorem decodeFields_0x22 (w : BitVec 32) (h : fOp w = 0x22#7) : decodeFields w = .ok (.ffma (readHP w)) := by rw [decodeFields, h]; rfl
theorem decodeFields_0x23 (w : BitVec 32) (h : fOp w = 0x23#7) : decodeFields w = .ok (.fmin (readHP w)) := by rw [decodeFields, h]; rfl
theorem decodeFields_0x24 (w : BitVec 32) (h : fOp w = 0x24#7) : decodeFields w = .ok (.fmax (readHP w)) := by rw [decodeFields, h]; rfl
theorem decodeFields_0x25 (w : BitVec 32) (h : fOp w = 0x25#7) : decodeFields w = decodeFcmp w := by rw [decodeFields, h]; rfl
theorem decodeFields_0x26 (w : BitVec 32) (h : fOp w = 0x26#7) : decodeFields w = decodeFpf w := by rw [decodeFields, h]; rfl
theorem decodeFields_0x27 (w : BitVec 32) (h : fOp w = 0x27#7) : decodeFields w = .ok (.fdiv (readHP w)) := by rw [decodeFields, h]; rfl
theorem decodeFields_0x28 (w : BitVec 32) (h : fOp w = 0x28#7) : decodeFields w = decodeCvt w := by rw [decodeFields, h]; rfl
theorem decodeFields_0x29 (w : BitVec 32) (h : fOp w = 0x29#7) : decodeFields w = decodeH2 w := by rw [decodeFields, h]; rfl
theorem decodeFields_0x2A (w : BitVec 32) (h : fOp w = 0x2A#7) : decodeFields w = decodeShfl w := by rw [decodeFields, h]; rfl
theorem decodeFields_0x2B (w : BitVec 32) (h : fOp w = 0x2B#7) : decodeFields w = decodeLmov w := by rw [decodeFields, h]; rfl
theorem decodeFields_0x2C (w : BitVec 32) (h : fOp w = 0x2C#7) : decodeFields w = .ok (.prmt (readHP w)) := by rw [decodeFields, h]; rfl
theorem decodeFields_0x2D (w : BitVec 32) (h : fOp w = 0x2D#7) : decodeFields w = decodeDeriv w := by rw [decodeFields, h]; rfl
theorem decodeFields_0x2E (w : BitVec 32) (h : fOp w = 0x2E#7) : decodeFields w = readMem w .ld := by rw [decodeFields, h]; rfl
theorem decodeFields_0x2F (w : BitVec 32) (h : fOp w = 0x2F#7) : decodeFields w = readMem w .st := by rw [decodeFields, h]; rfl
theorem decodeFields_0x30 (w : BitVec 32) (h : fOp w = 0x30#7) : decodeFields w = readMem w .lds := by rw [decodeFields, h]; rfl
theorem decodeFields_0x31 (w : BitVec 32) (h : fOp w = 0x31#7) : decodeFields w = readMem w .sts := by rw [decodeFields, h]; rfl
theorem decodeFields_0x32 (w : BitVec 32) (h : fOp w = 0x32#7) : decodeFields w = decodeTag w := by rw [decodeFields, h]; rfl
theorem decodeFields_0x33 (w : BitVec 32) (h : fOp w = 0x33#7) : decodeFields w = decodeAtom w := by rw [decodeFields, h]; rfl
theorem decodeFields_0x34 (w : BitVec 32) (h : fOp w = 0x34#7) : decodeFields w = decodeRed w := by rw [decodeFields, h]; rfl
theorem decodeFields_0x35 (w : BitVec 32) (h : fOp w = 0x35#7) : decodeFields w = readMem w .ldt := by rw [decodeFields, h]; rfl
theorem decodeFields_0x36 (w : BitVec 32) (h : fOp w = 0x36#7) : decodeFields w = readMem w .stt := by rw [decodeFields, h]; rfl
theorem decodeFields_0x37 (w : BitVec 32) (h : fOp w = 0x37#7) : decodeFields w = .ok (.mma (readReg3LA w)) := by rw [decodeFields, h]; rfl
theorem decodeFields_0x38 (w : BitVec 32) (h : fOp w = 0x38#7) : decodeFields w = .ok (.mmaz (readReg3LA w)) := by rw [decodeFields, h]; rfl
theorem decodeFields_0x39 (w : BitVec 32) (h : fOp w = 0x39#7) : decodeFields w = .ok (.reorder (readReorder w)) := by rw [decodeFields, h]; rfl
theorem decodeFields_0x3A (w : BitVec 32) (h : fOp w = 0x3A#7) : decodeFields w = .ok (.tex (readReg3LA w)) := by rw [decodeFields, h]; rfl
theorem decodeFields_0x3B (w : BitVec 32) (h : fOp w = 0x3B#7) : decodeFields w = decodeGfx w := by rw [decodeFields, h]; rfl
theorem decodeFields_0x3C (w : BitVec 32) (h : fOp w = 0x3C#7) : decodeFields w = decodeWaitv w := by rw [decodeFields, h]; rfl
theorem decodeFields_0x3D (w : BitVec 32) (h : fOp w = 0x3D#7) : decodeFields w = decodePf w := by rw [decodeFields, h]; rfl
theorem decodeFields_0x40 (w : BitVec 32) (h : fOp w = 0x40#7) : decodeFields w = zeroX w (.addGroup (readReg3 w)) := by rw [decodeFields, h]; rfl
theorem decodeFields_0x41 (w : BitVec 32) (h : fOp w = 0x41#7) : decodeFields w = zeroX w (.subGroup (readReg3 w)) := by rw [decodeFields, h]; rfl
theorem decodeFields_0x42 (w : BitVec 32) (h : fOp w = 0x42#7) : decodeFields w = zeroX w (.mulGroup (readReg3 w)) := by rw [decodeFields, h]; rfl
theorem decodeFields_0x43 (w : BitVec 32) (h : fOp w = 0x43#7) : decodeFields w = zeroX w (.macGroup (readReg3 w)) := by rw [decodeFields, h]; rfl
theorem decodeFields_0x44 (w : BitVec 32) (h : fOp w = 0x44#7) : decodeFields w = zeroX w (.andGroup (readReg3 w)) := by rw [decodeFields, h]; rfl
theorem decodeFields_0x45 (w : BitVec 32) (h : fOp w = 0x45#7) : decodeFields w = zeroX w (.orGroup (readReg3 w)) := by rw [decodeFields, h]; rfl
theorem decodeFields_0x46 (w : BitVec 32) (h : fOp w = 0x46#7) : decodeFields w = zeroX w (.xorGroup (readReg3 w)) := by rw [decodeFields, h]; rfl
theorem decodeFields_0x47 (w : BitVec 32) (h : fOp w = 0x47#7) : decodeFields w = zeroX w (.andnGroup (readReg3 w)) := by rw [decodeFields, h]; rfl
theorem decodeFields_0x48 (w : BitVec 32) (h : fOp w = 0x48#7) : decodeFields w = zeroX w (.shlGroup (readReg3 w)) := by rw [decodeFields, h]; rfl
theorem decodeFields_0x49 (w : BitVec 32) (h : fOp w = 0x49#7) : decodeFields w = zeroX w (.shrGroup (readReg3 w)) := by rw [decodeFields, h]; rfl
theorem decodeFields_0x4A (w : BitVec 32) (h : fOp w = 0x4A#7) : decodeFields w = zeroX w (.sraGroup (readReg3 w)) := by rw [decodeFields, h]; rfl
theorem decodeFields_0x4B (w : BitVec 32) (h : fOp w = 0x4B#7) : decodeFields w = zeroX w (.minGroup (readReg3 w)) := by rw [decodeFields, h]; rfl
theorem decodeFields_0x4C (w : BitVec 32) (h : fOp w = 0x4C#7) : decodeFields w = zeroX w (.maxGroup (readReg3 w)) := by rw [decodeFields, h]; rfl
theorem decodeFields_0x4D (w : BitVec 32) (h : fOp w = 0x4D#7) : decodeFields w = zeroX w (.minnGroup (readReg3 w)) := by rw [decodeFields, h]; rfl
theorem decodeFields_0x4E (w : BitVec 32) (h : fOp w = 0x4E#7) : decodeFields w = zeroX w (.maxnGroup (readReg3 w)) := by rw [decodeFields, h]; rfl
theorem decodeFields_0x4F (w : BitVec 32) (h : fOp w = 0x4F#7) : decodeFields w = zeroX w (.selGroup (readReg3 w)) := by rw [decodeFields, h]; rfl
theorem decodeFields_0x50 (w : BitVec 32) (h : fOp w = 0x50#7) : decodeFields w = zeroX w (.ceqGroup (readReg3 w)) := by rw [decodeFields, h]; rfl
theorem decodeFields_0x51 (w : BitVec 32) (h : fOp w = 0x51#7) : decodeFields w = zeroX w (.cneGroup (readReg3 w)) := by rw [decodeFields, h]; rfl
theorem decodeFields_0x52 (w : BitVec 32) (h : fOp w = 0x52#7) : decodeFields w = zeroX w (.cltGroup (readReg3 w)) := by rw [decodeFields, h]; rfl
theorem decodeFields_0x53 (w : BitVec 32) (h : fOp w = 0x53#7) : decodeFields w = zeroX w (.cleGroup (readReg3 w)) := by rw [decodeFields, h]; rfl
theorem decodeFields_0x54 (w : BitVec 32) (h : fOp w = 0x54#7) : decodeFields w = zeroX w (.cltnGroup (readReg3 w)) := by rw [decodeFields, h]; rfl
theorem decodeFields_0x55 (w : BitVec 32) (h : fOp w = 0x55#7) : decodeFields w = zeroX w (.clenGroup (readReg3 w)) := by rw [decodeFields, h]; rfl
theorem decodeFields_0x56 (w : BitVec 32) (h : fOp w = 0x56#7) : decodeFields w = decodeIxtG w := by rw [decodeFields, h]; rfl
theorem decodeFields_0x57 (w : BitVec 32) (h : fOp w = 0x57#7) : decodeFields w = decodeIntfG w := by rw [decodeFields, h]; rfl
theorem decodeFields_0x58 (w : BitVec 32) (h : fOp w = 0x58#7) : decodeFields w = zeroPm w (.addiGroup (readImmG w)) := by rw [decodeFields, h]; rfl
theorem decodeFields_0x59 (w : BitVec 32) (h : fOp w = 0x59#7) : decodeFields w = zeroPm w (.andiGroup (readImmG w)) := by rw [decodeFields, h]; rfl
theorem decodeFields_0x5A (w : BitVec 32) (h : fOp w = 0x5A#7) : decodeFields w = zeroPm w (.oriGroup (readImmG w)) := by rw [decodeFields, h]; rfl
theorem decodeFields_0x5B (w : BitVec 32) (h : fOp w = 0x5B#7) : decodeFields w = zeroPm w (.xoriGroup (readImmG w)) := by rw [decodeFields, h]; rfl
theorem decodeFields_0x5C (w : BitVec 32) (h : fOp w = 0x5C#7) : decodeFields w = decodeShiG w := by rw [decodeFields, h]; rfl
theorem decodeFields_0x5D (w : BitVec 32) (h : fOp w = 0x5D#7) : decodeFields w = zeroPm w (.moviGroup (readMoviG w)) := by rw [decodeFields, h]; rfl
theorem decodeFields_0x5E (w : BitVec 32) (h : fOp w = 0x5E#7) : decodeFields w = decodeCmpiG w := by rw [decodeFields, h]; rfl
theorem decodeFields_0x5F (w : BitVec 32) (h : fOp w = 0x5F#7) : decodeFields w = zeroX w (.faddGroup (readReg3 w)) := by rw [decodeFields, h]; rfl
theorem decodeFields_0x60 (w : BitVec 32) (h : fOp w = 0x60#7) : decodeFields w = zeroX w (.fsubGroup (readReg3 w)) := by rw [decodeFields, h]; rfl
theorem decodeFields_0x61 (w : BitVec 32) (h : fOp w = 0x61#7) : decodeFields w = zeroX w (.fmulGroup (readReg3 w)) := by rw [decodeFields, h]; rfl
theorem decodeFields_0x62 (w : BitVec 32) (h : fOp w = 0x62#7) : decodeFields w = zeroX w (.ffmaGroup (readReg3 w)) := by rw [decodeFields, h]; rfl
theorem decodeFields_0x63 (w : BitVec 32) (h : fOp w = 0x63#7) : decodeFields w = zeroX w (.fminGroup (readReg3 w)) := by rw [decodeFields, h]; rfl
theorem decodeFields_0x64 (w : BitVec 32) (h : fOp w = 0x64#7) : decodeFields w = zeroX w (.fmaxGroup (readReg3 w)) := by rw [decodeFields, h]; rfl
theorem decodeFields_0x65 (w : BitVec 32) (h : fOp w = 0x65#7) : decodeFields w = decodeFcmpG w := by rw [decodeFields, h]; rfl
theorem decodeFields_0x66 (w : BitVec 32) (h : fOp w = 0x66#7) : decodeFields w = decodeFpfG w := by rw [decodeFields, h]; rfl
theorem decodeFields_0x67 (w : BitVec 32) (h : fOp w = 0x67#7) : decodeFields w = zeroX w (.fdivGroup (readReg3 w)) := by rw [decodeFields, h]; rfl
theorem decodeFields_0x68 (w : BitVec 32) (h : fOp w = 0x68#7) : decodeFields w = decodeCvtG w := by rw [decodeFields, h]; rfl
theorem decodeFields_0x69 (w : BitVec 32) (h : fOp w = 0x69#7) : decodeFields w = zeroC w (.bra (fO18 w)) := by rw [decodeFields, h]; rfl
theorem decodeFields_0x6A (w : BitVec 32) (h : fOp w = 0x6A#7) : decodeFields w = .ok (.brz (readBranch w)) := by rw [decodeFields, h]; rfl
theorem decodeFields_0x6B (w : BitVec 32) (h : fOp w = 0x6B#7) : decodeFields w = .ok (.brnz (readBranch w)) := by rw [decodeFields, h]; rfl
theorem decodeFields_0x6C (w : BitVec 32) (h : fOp w = 0x6C#7) : decodeFields w = .ok (.call (readBranch w)) := by rw [decodeFields, h]; rfl
theorem decodeFields_0x6D (w : BitVec 32) (h : fOp w = 0x6D#7) : decodeFields w = zeroO w (.jmpx (fD w)) := by rw [decodeFields, h]; rfl
theorem decodeFields_0x6E (w : BitVec 32) (h : fOp w = 0x6E#7) : decodeFields w = .ok (.split (readBranch w)) := by rw [decodeFields, h]; rfl
theorem decodeFields_0x6F (w : BitVec 32) (h : fOp w = 0x6F#7) : decodeFields w = zeroC w (.fuse) >>= fun i => zeroO w i := by rw [decodeFields, h]; rfl
theorem decodeFields_0x70 (w : BitVec 32) (h : fOp w = 0x70#7) : decodeFields w = decodeGsys w := by rw [decodeFields, h]; rfl
theorem decodeFields_0x71 (w : BitVec 32) (h : fOp w = 0x71#7) : decodeFields w = readMem w .sld := by rw [decodeFields, h]; rfl
theorem decodeFields_0x72 (w : BitVec 32) (h : fOp w = 0x72#7) : decodeFields w = readMem w .sst := by rw [decodeFields, h]; rfl
theorem decodeFields_0x73 (w : BitVec 32) (h : fOp w = 0x73#7) : decodeFields w = decodeSatom w := by rw [decodeFields, h]; rfl
theorem decodeFields_0x74 (w : BitVec 32) (h : fOp w = 0x74#7) : decodeFields w = decodeFence w := by rw [decodeFields, h]; rfl
theorem decodeFields_0x75 (w : BitVec 32) (h : fOp w = 0x75#7) : decodeFields w = decodeCmaint w := by rw [decodeFields, h]; rfl
theorem decodeFields_0x76 (w : BitVec 32) (h : fOp w = 0x76#7) : decodeFields w = decodeEng w := by rw [decodeFields, h]; rfl
theorem decodeFields_0x77 (w : BitVec 32) (h : fOp w = 0x77#7) : decodeFields w = decodeBar w := by rw [decodeFields, h]; rfl
theorem decodeFields_0x78 (w : BitVec 32) (h : fOp w = 0x78#7) : decodeFields w = decodeSect w := by rw [decodeFields, h]; rfl
theorem decodeFields_0x79 (w : BitVec 32) (h : fOp w = 0x79#7) : decodeFields w = decodeLaunch w := by rw [decodeFields, h]; rfl
theorem decodeFields_0x7B (w : BitVec 32) (h : fOp w = 0x7B#7) : decodeFields w = decodeSwaitv w := by rw [decodeFields, h]; rfl
theorem decodeFields_0x7F (w : BitVec 32) (h : fOp w = 0x7F#7) : decodeFields w = decodeHint w := by rw [decodeFields, h]; rfl

/-- An opcode that is not listed is refused (R86). -/
theorem decodeFields_reserved (w : BitVec 32) (h : (fOp w).toNat ∈ [0x3E, 0x3F, 0x7A, 0x7C, 0x7D, 0x7E]) : decodeFields w = .error .reservedOpcode := by
  simp only [List.mem_cons, List.not_mem_nil, or_false] at h
  rcases h with h | h | h | h | h | h <;> (rw [decodeFields, h]; rfl)

end Sys2Proof
end

