-- ==== Sys2Proof/Laws/State.lean ====
section
/-! SUPPORT. One lemma for each field under each update of the state, and what a keyed list holds after a change. -/

namespace Sys2Proof.Machine

/-! ## Keyed lists -/

/-- A keyed list after a change of one key. -/
@[simp] theorem kvGet_kvSet {α : Type} (m : KV α) (k j : Nat) (v : α) : kvGet (kvSet m k v) j = if j = k then some v else kvGet m j := by
  fun_induction kvSet <;> grind [kvGet]

/-! ## Fields -/

@[simp] theorem State.setCore_mem (s : State) (k : Nat) (x : Core) : (s.setCore k x).mem = s.mem := rfl
@[simp] theorem State.setCore_badSectors (s : State) (k : Nat) (x : Core) : (s.setCore k x).badSectors = s.badSectors := rfl
@[simp] theorem State.setCore_softSectors (s : State) (k : Nat) (x : Core) : (s.setCore k x).softSectors = s.softSectors := rfl
@[simp] theorem State.setCore_hostMem (s : State) (k : Nat) (x : Core) : (s.setCore k x).hostMem = s.hostMem := rfl
@[simp] theorem State.setCore_swells (s : State) (k : Nat) (x : Core) : (s.setCore k x).swells = s.swells := rfl
@[simp] theorem State.setCore_clusters (s : State) (k : Nat) (x : Core) : (s.setCore k x).clusters = s.clusters := rfl
@[simp] theorem State.setCore_dies (s : State) (k : Nat) (x : Core) : (s.setCore k x).dies = s.dies := rfl
@[simp] theorem State.setCore_ctxs (s : State) (k : Nat) (x : Core) : (s.setCore k x).ctxs = s.ctxs := rfl
@[simp] theorem State.setCore_launches (s : State) (k : Nat) (x : Core) : (s.setCore k x).launches = s.launches := rfl
@[simp] theorem State.setCore_meters (s : State) (k : Nat) (x : Core) : (s.setCore k x).meters = s.meters := rfl
@[simp] theorem State.setCore_msgs (s : State) (k : Nat) (x : Core) : (s.setCore k x).msgs = s.msgs := rfl
@[simp] theorem State.setCore_pkg (s : State) (k : Nat) (x : Core) : (s.setCore k x).pkg = s.pkg := rfl
@[simp] theorem State.setCore_now (s : State) (k : Nat) (x : Core) : (s.setCore k x).now = s.now := rfl
@[simp] theorem State.setCore_cur (s : State) (k : Nat) (x : Core) : (s.setCore k x).cur = s.cur := rfl
@[simp] theorem State.setCore_turn (s : State) (k : Nat) (x : Core) : (s.setCore k x).turn = s.turn := rfl
@[simp] theorem State.setCore_inbox (s : State) (k : Nat) (x : Core) : (s.setCore k x).inbox = s.inbox := rfl
@[simp] theorem State.setCore_due (s : State) (k : Nat) (x : Core) : (s.setCore k x).due = s.due := rfl
@[simp] theorem State.setCore_freeCtr (s : State) (k : Nat) (x : Core) : (s.setCore k x).freeCtr = s.freeCtr := rfl
@[simp] theorem State.setCore_nextUid (s : State) (k : Nat) (x : Core) : (s.setCore k x).nextUid = s.nextUid := rfl
@[simp] theorem State.setCore_nextMsg (s : State) (k : Nat) (x : Core) : (s.setCore k x).nextMsg = s.nextMsg := rfl

@[simp] theorem State.updCore_mem (s : State) (k : Nat) (g : Core → Core) : (s.updCore k g).mem = s.mem := rfl
@[simp] theorem State.updCore_badSectors (s : State) (k : Nat) (g : Core → Core) : (s.updCore k g).badSectors = s.badSectors := rfl
@[simp] theorem State.updCore_softSectors (s : State) (k : Nat) (g : Core → Core) : (s.updCore k g).softSectors = s.softSectors := rfl
@[simp] theorem State.updCore_hostMem (s : State) (k : Nat) (g : Core → Core) : (s.updCore k g).hostMem = s.hostMem := rfl
@[simp] theorem State.updCore_swells (s : State) (k : Nat) (g : Core → Core) : (s.updCore k g).swells = s.swells := rfl
@[simp] theorem State.updCore_clusters (s : State) (k : Nat) (g : Core → Core) : (s.updCore k g).clusters = s.clusters := rfl
@[simp] theorem State.updCore_dies (s : State) (k : Nat) (g : Core → Core) : (s.updCore k g).dies = s.dies := rfl
@[simp] theorem State.updCore_ctxs (s : State) (k : Nat) (g : Core → Core) : (s.updCore k g).ctxs = s.ctxs := rfl
@[simp] theorem State.updCore_launches (s : State) (k : Nat) (g : Core → Core) : (s.updCore k g).launches = s.launches := rfl
@[simp] theorem State.updCore_meters (s : State) (k : Nat) (g : Core → Core) : (s.updCore k g).meters = s.meters := rfl
@[simp] theorem State.updCore_msgs (s : State) (k : Nat) (g : Core → Core) : (s.updCore k g).msgs = s.msgs := rfl
@[simp] theorem State.updCore_pkg (s : State) (k : Nat) (g : Core → Core) : (s.updCore k g).pkg = s.pkg := rfl
@[simp] theorem State.updCore_now (s : State) (k : Nat) (g : Core → Core) : (s.updCore k g).now = s.now := rfl
@[simp] theorem State.updCore_cur (s : State) (k : Nat) (g : Core → Core) : (s.updCore k g).cur = s.cur := rfl
@[simp] theorem State.updCore_turn (s : State) (k : Nat) (g : Core → Core) : (s.updCore k g).turn = s.turn := rfl
@[simp] theorem State.updCore_inbox (s : State) (k : Nat) (g : Core → Core) : (s.updCore k g).inbox = s.inbox := rfl
@[simp] theorem State.updCore_due (s : State) (k : Nat) (g : Core → Core) : (s.updCore k g).due = s.due := rfl
@[simp] theorem State.updCore_freeCtr (s : State) (k : Nat) (g : Core → Core) : (s.updCore k g).freeCtr = s.freeCtr := rfl
@[simp] theorem State.updCore_nextUid (s : State) (k : Nat) (g : Core → Core) : (s.updCore k g).nextUid = s.nextUid := rfl
@[simp] theorem State.updCore_nextMsg (s : State) (k : Nat) (g : Core → Core) : (s.updCore k g).nextMsg = s.nextMsg := rfl

@[simp] theorem State.setCluster_mem (s : State) (k : Nat) (x : Cluster) : (s.setCluster k x).mem = s.mem := rfl
@[simp] theorem State.setCluster_badSectors (s : State) (k : Nat) (x : Cluster) : (s.setCluster k x).badSectors = s.badSectors := rfl
@[simp] theorem State.setCluster_softSectors (s : State) (k : Nat) (x : Cluster) : (s.setCluster k x).softSectors = s.softSectors := rfl
@[simp] theorem State.setCluster_hostMem (s : State) (k : Nat) (x : Cluster) : (s.setCluster k x).hostMem = s.hostMem := rfl
@[simp] theorem State.setCluster_swells (s : State) (k : Nat) (x : Cluster) : (s.setCluster k x).swells = s.swells := rfl
@[simp] theorem State.setCluster_cores (s : State) (k : Nat) (x : Cluster) : (s.setCluster k x).cores = s.cores := rfl
@[simp] theorem State.setCluster_dies (s : State) (k : Nat) (x : Cluster) : (s.setCluster k x).dies = s.dies := rfl
@[simp] theorem State.setCluster_ctxs (s : State) (k : Nat) (x : Cluster) : (s.setCluster k x).ctxs = s.ctxs := rfl
@[simp] theorem State.setCluster_launches (s : State) (k : Nat) (x : Cluster) : (s.setCluster k x).launches = s.launches := rfl
@[simp] theorem State.setCluster_meters (s : State) (k : Nat) (x : Cluster) : (s.setCluster k x).meters = s.meters := rfl
@[simp] theorem State.setCluster_msgs (s : State) (k : Nat) (x : Cluster) : (s.setCluster k x).msgs = s.msgs := rfl
@[simp] theorem State.setCluster_pkg (s : State) (k : Nat) (x : Cluster) : (s.setCluster k x).pkg = s.pkg := rfl
@[simp] theorem State.setCluster_now (s : State) (k : Nat) (x : Cluster) : (s.setCluster k x).now = s.now := rfl
@[simp] theorem State.setCluster_cur (s : State) (k : Nat) (x : Cluster) : (s.setCluster k x).cur = s.cur := rfl
@[simp] theorem State.setCluster_turn (s : State) (k : Nat) (x : Cluster) : (s.setCluster k x).turn = s.turn := rfl
@[simp] theorem State.setCluster_inbox (s : State) (k : Nat) (x : Cluster) : (s.setCluster k x).inbox = s.inbox := rfl
@[simp] theorem State.setCluster_due (s : State) (k : Nat) (x : Cluster) : (s.setCluster k x).due = s.due := rfl
@[simp] theorem State.setCluster_freeCtr (s : State) (k : Nat) (x : Cluster) : (s.setCluster k x).freeCtr = s.freeCtr := rfl
@[simp] theorem State.setCluster_nextUid (s : State) (k : Nat) (x : Cluster) : (s.setCluster k x).nextUid = s.nextUid := rfl
@[simp] theorem State.setCluster_nextMsg (s : State) (k : Nat) (x : Cluster) : (s.setCluster k x).nextMsg = s.nextMsg := rfl

@[simp] theorem State.updCluster_mem (s : State) (k : Nat) (g : Cluster → Cluster) : (s.updCluster k g).mem = s.mem := rfl
@[simp] theorem State.updCluster_badSectors (s : State) (k : Nat) (g : Cluster → Cluster) : (s.updCluster k g).badSectors = s.badSectors := rfl
@[simp] theorem State.updCluster_softSectors (s : State) (k : Nat) (g : Cluster → Cluster) : (s.updCluster k g).softSectors = s.softSectors := rfl
@[simp] theorem State.updCluster_hostMem (s : State) (k : Nat) (g : Cluster → Cluster) : (s.updCluster k g).hostMem = s.hostMem := rfl
@[simp] theorem State.updCluster_swells (s : State) (k : Nat) (g : Cluster → Cluster) : (s.updCluster k g).swells = s.swells := rfl
@[simp] theorem State.updCluster_cores (s : State) (k : Nat) (g : Cluster → Cluster) : (s.updCluster k g).cores = s.cores := rfl
@[simp] theorem State.updCluster_dies (s : State) (k : Nat) (g : Cluster → Cluster) : (s.updCluster k g).dies = s.dies := rfl
@[simp] theorem State.updCluster_ctxs (s : State) (k : Nat) (g : Cluster → Cluster) : (s.updCluster k g).ctxs = s.ctxs := rfl
@[simp] theorem State.updCluster_launches (s : State) (k : Nat) (g : Cluster → Cluster) : (s.updCluster k g).launches = s.launches := rfl
@[simp] theorem State.updCluster_meters (s : State) (k : Nat) (g : Cluster → Cluster) : (s.updCluster k g).meters = s.meters := rfl
@[simp] theorem State.updCluster_msgs (s : State) (k : Nat) (g : Cluster → Cluster) : (s.updCluster k g).msgs = s.msgs := rfl
@[simp] theorem State.updCluster_pkg (s : State) (k : Nat) (g : Cluster → Cluster) : (s.updCluster k g).pkg = s.pkg := rfl
@[simp] theorem State.updCluster_now (s : State) (k : Nat) (g : Cluster → Cluster) : (s.updCluster k g).now = s.now := rfl
@[simp] theorem State.updCluster_cur (s : State) (k : Nat) (g : Cluster → Cluster) : (s.updCluster k g).cur = s.cur := rfl
@[simp] theorem State.updCluster_turn (s : State) (k : Nat) (g : Cluster → Cluster) : (s.updCluster k g).turn = s.turn := rfl
@[simp] theorem State.updCluster_inbox (s : State) (k : Nat) (g : Cluster → Cluster) : (s.updCluster k g).inbox = s.inbox := rfl
@[simp] theorem State.updCluster_due (s : State) (k : Nat) (g : Cluster → Cluster) : (s.updCluster k g).due = s.due := rfl
@[simp] theorem State.updCluster_freeCtr (s : State) (k : Nat) (g : Cluster → Cluster) : (s.updCluster k g).freeCtr = s.freeCtr := rfl
@[simp] theorem State.updCluster_nextUid (s : State) (k : Nat) (g : Cluster → Cluster) : (s.updCluster k g).nextUid = s.nextUid := rfl
@[simp] theorem State.updCluster_nextMsg (s : State) (k : Nat) (g : Cluster → Cluster) : (s.updCluster k g).nextMsg = s.nextMsg := rfl

@[simp] theorem State.setDie_mem (s : State) (k : Nat) (x : Die) : (s.setDie k x).mem = s.mem := rfl
@[simp] theorem State.setDie_badSectors (s : State) (k : Nat) (x : Die) : (s.setDie k x).badSectors = s.badSectors := rfl
@[simp] theorem State.setDie_softSectors (s : State) (k : Nat) (x : Die) : (s.setDie k x).softSectors = s.softSectors := rfl
@[simp] theorem State.setDie_hostMem (s : State) (k : Nat) (x : Die) : (s.setDie k x).hostMem = s.hostMem := rfl
@[simp] theorem State.setDie_swells (s : State) (k : Nat) (x : Die) : (s.setDie k x).swells = s.swells := rfl
@[simp] theorem State.setDie_cores (s : State) (k : Nat) (x : Die) : (s.setDie k x).cores = s.cores := rfl
@[simp] theorem State.setDie_clusters (s : State) (k : Nat) (x : Die) : (s.setDie k x).clusters = s.clusters := rfl
@[simp] theorem State.setDie_ctxs (s : State) (k : Nat) (x : Die) : (s.setDie k x).ctxs = s.ctxs := rfl
@[simp] theorem State.setDie_launches (s : State) (k : Nat) (x : Die) : (s.setDie k x).launches = s.launches := rfl
@[simp] theorem State.setDie_meters (s : State) (k : Nat) (x : Die) : (s.setDie k x).meters = s.meters := rfl
@[simp] theorem State.setDie_msgs (s : State) (k : Nat) (x : Die) : (s.setDie k x).msgs = s.msgs := rfl
@[simp] theorem State.setDie_pkg (s : State) (k : Nat) (x : Die) : (s.setDie k x).pkg = s.pkg := rfl
@[simp] theorem State.setDie_now (s : State) (k : Nat) (x : Die) : (s.setDie k x).now = s.now := rfl
@[simp] theorem State.setDie_cur (s : State) (k : Nat) (x : Die) : (s.setDie k x).cur = s.cur := rfl
@[simp] theorem State.setDie_turn (s : State) (k : Nat) (x : Die) : (s.setDie k x).turn = s.turn := rfl
@[simp] theorem State.setDie_inbox (s : State) (k : Nat) (x : Die) : (s.setDie k x).inbox = s.inbox := rfl
@[simp] theorem State.setDie_due (s : State) (k : Nat) (x : Die) : (s.setDie k x).due = s.due := rfl
@[simp] theorem State.setDie_freeCtr (s : State) (k : Nat) (x : Die) : (s.setDie k x).freeCtr = s.freeCtr := rfl
@[simp] theorem State.setDie_nextUid (s : State) (k : Nat) (x : Die) : (s.setDie k x).nextUid = s.nextUid := rfl
@[simp] theorem State.setDie_nextMsg (s : State) (k : Nat) (x : Die) : (s.setDie k x).nextMsg = s.nextMsg := rfl

@[simp] theorem State.updDie_mem (s : State) (k : Nat) (g : Die → Die) : (s.updDie k g).mem = s.mem := rfl
@[simp] theorem State.updDie_badSectors (s : State) (k : Nat) (g : Die → Die) : (s.updDie k g).badSectors = s.badSectors := rfl
@[simp] theorem State.updDie_softSectors (s : State) (k : Nat) (g : Die → Die) : (s.updDie k g).softSectors = s.softSectors := rfl
@[simp] theorem State.updDie_hostMem (s : State) (k : Nat) (g : Die → Die) : (s.updDie k g).hostMem = s.hostMem := rfl
@[simp] theorem State.updDie_swells (s : State) (k : Nat) (g : Die → Die) : (s.updDie k g).swells = s.swells := rfl
@[simp] theorem State.updDie_cores (s : State) (k : Nat) (g : Die → Die) : (s.updDie k g).cores = s.cores := rfl
@[simp] theorem State.updDie_clusters (s : State) (k : Nat) (g : Die → Die) : (s.updDie k g).clusters = s.clusters := rfl
@[simp] theorem State.updDie_ctxs (s : State) (k : Nat) (g : Die → Die) : (s.updDie k g).ctxs = s.ctxs := rfl
@[simp] theorem State.updDie_launches (s : State) (k : Nat) (g : Die → Die) : (s.updDie k g).launches = s.launches := rfl
@[simp] theorem State.updDie_meters (s : State) (k : Nat) (g : Die → Die) : (s.updDie k g).meters = s.meters := rfl
@[simp] theorem State.updDie_msgs (s : State) (k : Nat) (g : Die → Die) : (s.updDie k g).msgs = s.msgs := rfl
@[simp] theorem State.updDie_pkg (s : State) (k : Nat) (g : Die → Die) : (s.updDie k g).pkg = s.pkg := rfl
@[simp] theorem State.updDie_now (s : State) (k : Nat) (g : Die → Die) : (s.updDie k g).now = s.now := rfl
@[simp] theorem State.updDie_cur (s : State) (k : Nat) (g : Die → Die) : (s.updDie k g).cur = s.cur := rfl
@[simp] theorem State.updDie_turn (s : State) (k : Nat) (g : Die → Die) : (s.updDie k g).turn = s.turn := rfl
@[simp] theorem State.updDie_inbox (s : State) (k : Nat) (g : Die → Die) : (s.updDie k g).inbox = s.inbox := rfl
@[simp] theorem State.updDie_due (s : State) (k : Nat) (g : Die → Die) : (s.updDie k g).due = s.due := rfl
@[simp] theorem State.updDie_freeCtr (s : State) (k : Nat) (g : Die → Die) : (s.updDie k g).freeCtr = s.freeCtr := rfl
@[simp] theorem State.updDie_nextUid (s : State) (k : Nat) (g : Die → Die) : (s.updDie k g).nextUid = s.nextUid := rfl
@[simp] theorem State.updDie_nextMsg (s : State) (k : Nat) (g : Die → Die) : (s.updDie k g).nextMsg = s.nextMsg := rfl

@[simp] theorem State.setCtx_mem (s : State) (k : Nat) (x : Ctx) : (s.setCtx k x).mem = s.mem := rfl
@[simp] theorem State.setCtx_badSectors (s : State) (k : Nat) (x : Ctx) : (s.setCtx k x).badSectors = s.badSectors := rfl
@[simp] theorem State.setCtx_softSectors (s : State) (k : Nat) (x : Ctx) : (s.setCtx k x).softSectors = s.softSectors := rfl
@[simp] theorem State.setCtx_hostMem (s : State) (k : Nat) (x : Ctx) : (s.setCtx k x).hostMem = s.hostMem := rfl
@[simp] theorem State.setCtx_swells (s : State) (k : Nat) (x : Ctx) : (s.setCtx k x).swells = s.swells := rfl
@[simp] theorem State.setCtx_cores (s : State) (k : Nat) (x : Ctx) : (s.setCtx k x).cores = s.cores := rfl
@[simp] theorem State.setCtx_clusters (s : State) (k : Nat) (x : Ctx) : (s.setCtx k x).clusters = s.clusters := rfl
@[simp] theorem State.setCtx_dies (s : State) (k : Nat) (x : Ctx) : (s.setCtx k x).dies = s.dies := rfl
@[simp] theorem State.setCtx_launches (s : State) (k : Nat) (x : Ctx) : (s.setCtx k x).launches = s.launches := rfl
@[simp] theorem State.setCtx_meters (s : State) (k : Nat) (x : Ctx) : (s.setCtx k x).meters = s.meters := rfl
@[simp] theorem State.setCtx_msgs (s : State) (k : Nat) (x : Ctx) : (s.setCtx k x).msgs = s.msgs := rfl
@[simp] theorem State.setCtx_pkg (s : State) (k : Nat) (x : Ctx) : (s.setCtx k x).pkg = s.pkg := rfl
@[simp] theorem State.setCtx_now (s : State) (k : Nat) (x : Ctx) : (s.setCtx k x).now = s.now := rfl
@[simp] theorem State.setCtx_cur (s : State) (k : Nat) (x : Ctx) : (s.setCtx k x).cur = s.cur := rfl
@[simp] theorem State.setCtx_turn (s : State) (k : Nat) (x : Ctx) : (s.setCtx k x).turn = s.turn := rfl
@[simp] theorem State.setCtx_inbox (s : State) (k : Nat) (x : Ctx) : (s.setCtx k x).inbox = s.inbox := rfl
@[simp] theorem State.setCtx_due (s : State) (k : Nat) (x : Ctx) : (s.setCtx k x).due = s.due := rfl
@[simp] theorem State.setCtx_freeCtr (s : State) (k : Nat) (x : Ctx) : (s.setCtx k x).freeCtr = s.freeCtr := rfl
@[simp] theorem State.setCtx_nextUid (s : State) (k : Nat) (x : Ctx) : (s.setCtx k x).nextUid = s.nextUid := rfl
@[simp] theorem State.setCtx_nextMsg (s : State) (k : Nat) (x : Ctx) : (s.setCtx k x).nextMsg = s.nextMsg := rfl

@[simp] theorem State.updCtx_mem (s : State) (k : Nat) (g : Ctx → Ctx) : (s.updCtx k g).mem = s.mem := rfl
@[simp] theorem State.updCtx_badSectors (s : State) (k : Nat) (g : Ctx → Ctx) : (s.updCtx k g).badSectors = s.badSectors := rfl
@[simp] theorem State.updCtx_softSectors (s : State) (k : Nat) (g : Ctx → Ctx) : (s.updCtx k g).softSectors = s.softSectors := rfl
@[simp] theorem State.updCtx_hostMem (s : State) (k : Nat) (g : Ctx → Ctx) : (s.updCtx k g).hostMem = s.hostMem := rfl
@[simp] theorem State.updCtx_swells (s : State) (k : Nat) (g : Ctx → Ctx) : (s.updCtx k g).swells = s.swells := rfl
@[simp] theorem State.updCtx_cores (s : State) (k : Nat) (g : Ctx → Ctx) : (s.updCtx k g).cores = s.cores := rfl
@[simp] theorem State.updCtx_clusters (s : State) (k : Nat) (g : Ctx → Ctx) : (s.updCtx k g).clusters = s.clusters := rfl
@[simp] theorem State.updCtx_dies (s : State) (k : Nat) (g : Ctx → Ctx) : (s.updCtx k g).dies = s.dies := rfl
@[simp] theorem State.updCtx_launches (s : State) (k : Nat) (g : Ctx → Ctx) : (s.updCtx k g).launches = s.launches := rfl
@[simp] theorem State.updCtx_meters (s : State) (k : Nat) (g : Ctx → Ctx) : (s.updCtx k g).meters = s.meters := rfl
@[simp] theorem State.updCtx_msgs (s : State) (k : Nat) (g : Ctx → Ctx) : (s.updCtx k g).msgs = s.msgs := rfl
@[simp] theorem State.updCtx_pkg (s : State) (k : Nat) (g : Ctx → Ctx) : (s.updCtx k g).pkg = s.pkg := rfl
@[simp] theorem State.updCtx_now (s : State) (k : Nat) (g : Ctx → Ctx) : (s.updCtx k g).now = s.now := rfl
@[simp] theorem State.updCtx_cur (s : State) (k : Nat) (g : Ctx → Ctx) : (s.updCtx k g).cur = s.cur := rfl
@[simp] theorem State.updCtx_turn (s : State) (k : Nat) (g : Ctx → Ctx) : (s.updCtx k g).turn = s.turn := rfl
@[simp] theorem State.updCtx_inbox (s : State) (k : Nat) (g : Ctx → Ctx) : (s.updCtx k g).inbox = s.inbox := rfl
@[simp] theorem State.updCtx_due (s : State) (k : Nat) (g : Ctx → Ctx) : (s.updCtx k g).due = s.due := rfl
@[simp] theorem State.updCtx_freeCtr (s : State) (k : Nat) (g : Ctx → Ctx) : (s.updCtx k g).freeCtr = s.freeCtr := rfl
@[simp] theorem State.updCtx_nextUid (s : State) (k : Nat) (g : Ctx → Ctx) : (s.updCtx k g).nextUid = s.nextUid := rfl
@[simp] theorem State.updCtx_nextMsg (s : State) (k : Nat) (g : Ctx → Ctx) : (s.updCtx k g).nextMsg = s.nextMsg := rfl

@[simp] theorem State.updMeter_mem (s : State) (d k : Nat) (g : Meter → Meter) : (s.updMeter d k g).mem = s.mem := rfl
@[simp] theorem State.updMeter_badSectors (s : State) (d k : Nat) (g : Meter → Meter) : (s.updMeter d k g).badSectors = s.badSectors := rfl
@[simp] theorem State.updMeter_softSectors (s : State) (d k : Nat) (g : Meter → Meter) : (s.updMeter d k g).softSectors = s.softSectors := rfl
@[simp] theorem State.updMeter_hostMem (s : State) (d k : Nat) (g : Meter → Meter) : (s.updMeter d k g).hostMem = s.hostMem := rfl
@[simp] theorem State.updMeter_swells (s : State) (d k : Nat) (g : Meter → Meter) : (s.updMeter d k g).swells = s.swells := rfl
@[simp] theorem State.updMeter_cores (s : State) (d k : Nat) (g : Meter → Meter) : (s.updMeter d k g).cores = s.cores := rfl
@[simp] theorem State.updMeter_clusters (s : State) (d k : Nat) (g : Meter → Meter) : (s.updMeter d k g).clusters = s.clusters := rfl
@[simp] theorem State.updMeter_dies (s : State) (d k : Nat) (g : Meter → Meter) : (s.updMeter d k g).dies = s.dies := rfl
@[simp] theorem State.updMeter_ctxs (s : State) (d k : Nat) (g : Meter → Meter) : (s.updMeter d k g).ctxs = s.ctxs := rfl
@[simp] theorem State.updMeter_launches (s : State) (d k : Nat) (g : Meter → Meter) : (s.updMeter d k g).launches = s.launches := rfl
@[simp] theorem State.updMeter_msgs (s : State) (d k : Nat) (g : Meter → Meter) : (s.updMeter d k g).msgs = s.msgs := rfl
@[simp] theorem State.updMeter_pkg (s : State) (d k : Nat) (g : Meter → Meter) : (s.updMeter d k g).pkg = s.pkg := rfl
@[simp] theorem State.updMeter_now (s : State) (d k : Nat) (g : Meter → Meter) : (s.updMeter d k g).now = s.now := rfl
@[simp] theorem State.updMeter_cur (s : State) (d k : Nat) (g : Meter → Meter) : (s.updMeter d k g).cur = s.cur := rfl
@[simp] theorem State.updMeter_turn (s : State) (d k : Nat) (g : Meter → Meter) : (s.updMeter d k g).turn = s.turn := rfl
@[simp] theorem State.updMeter_inbox (s : State) (d k : Nat) (g : Meter → Meter) : (s.updMeter d k g).inbox = s.inbox := rfl
@[simp] theorem State.updMeter_due (s : State) (d k : Nat) (g : Meter → Meter) : (s.updMeter d k g).due = s.due := rfl
@[simp] theorem State.updMeter_freeCtr (s : State) (d k : Nat) (g : Meter → Meter) : (s.updMeter d k g).freeCtr = s.freeCtr := rfl
@[simp] theorem State.updMeter_nextUid (s : State) (d k : Nat) (g : Meter → Meter) : (s.updMeter d k g).nextUid = s.nextUid := rfl
@[simp] theorem State.updMeter_nextMsg (s : State) (d k : Nat) (g : Meter → Meter) : (s.updMeter d k g).nextMsg = s.nextMsg := rfl

@[simp] theorem State.post_mem (s : State) (d : Nat) (e : Internal) : (s.post d e).mem = s.mem := rfl
@[simp] theorem State.post_badSectors (s : State) (d : Nat) (e : Internal) : (s.post d e).badSectors = s.badSectors := rfl
@[simp] theorem State.post_softSectors (s : State) (d : Nat) (e : Internal) : (s.post d e).softSectors = s.softSectors := rfl
@[simp] theorem State.post_hostMem (s : State) (d : Nat) (e : Internal) : (s.post d e).hostMem = s.hostMem := rfl
@[simp] theorem State.post_swells (s : State) (d : Nat) (e : Internal) : (s.post d e).swells = s.swells := rfl
@[simp] theorem State.post_cores (s : State) (d : Nat) (e : Internal) : (s.post d e).cores = s.cores := rfl
@[simp] theorem State.post_clusters (s : State) (d : Nat) (e : Internal) : (s.post d e).clusters = s.clusters := rfl
@[simp] theorem State.post_dies (s : State) (d : Nat) (e : Internal) : (s.post d e).dies = s.dies := rfl
@[simp] theorem State.post_ctxs (s : State) (d : Nat) (e : Internal) : (s.post d e).ctxs = s.ctxs := rfl
@[simp] theorem State.post_launches (s : State) (d : Nat) (e : Internal) : (s.post d e).launches = s.launches := rfl
@[simp] theorem State.post_meters (s : State) (d : Nat) (e : Internal) : (s.post d e).meters = s.meters := rfl
@[simp] theorem State.post_msgs (s : State) (d : Nat) (e : Internal) : (s.post d e).msgs = s.msgs := rfl
@[simp] theorem State.post_pkg (s : State) (d : Nat) (e : Internal) : (s.post d e).pkg = s.pkg := rfl
@[simp] theorem State.post_now (s : State) (d : Nat) (e : Internal) : (s.post d e).now = s.now := rfl
@[simp] theorem State.post_cur (s : State) (d : Nat) (e : Internal) : (s.post d e).cur = s.cur := rfl
@[simp] theorem State.post_turn (s : State) (d : Nat) (e : Internal) : (s.post d e).turn = s.turn := rfl
@[simp] theorem State.post_inbox (s : State) (d : Nat) (e : Internal) : (s.post d e).inbox = s.inbox := rfl
@[simp] theorem State.post_freeCtr (s : State) (d : Nat) (e : Internal) : (s.post d e).freeCtr = s.freeCtr := rfl
@[simp] theorem State.post_nextUid (s : State) (d : Nat) (e : Internal) : (s.post d e).nextUid = s.nextUid := rfl
@[simp] theorem State.post_nextMsg (s : State) (d : Nat) (e : Internal) : (s.post d e).nextMsg = s.nextMsg := rfl

@[simp] theorem State.postOnce_mem (s : State) (d : Nat) (e : Internal) : (s.postOnce d e).mem = s.mem := by unfold State.postOnce; split <;> rfl
@[simp] theorem State.postOnce_badSectors (s : State) (d : Nat) (e : Internal) : (s.postOnce d e).badSectors = s.badSectors := by unfold State.postOnce; split <;> rfl
@[simp] theorem State.postOnce_softSectors (s : State) (d : Nat) (e : Internal) : (s.postOnce d e).softSectors = s.softSectors := by unfold State.postOnce; split <;> rfl
@[simp] theorem State.postOnce_hostMem (s : State) (d : Nat) (e : Internal) : (s.postOnce d e).hostMem = s.hostMem := by unfold State.postOnce; split <;> rfl
@[simp] theorem State.postOnce_swells (s : State) (d : Nat) (e : Internal) : (s.postOnce d e).swells = s.swells := by unfold State.postOnce; split <;> rfl
@[simp] theorem State.postOnce_cores (s : State) (d : Nat) (e : Internal) : (s.postOnce d e).cores = s.cores := by unfold State.postOnce; split <;> rfl
@[simp] theorem State.postOnce_clusters (s : State) (d : Nat) (e : Internal) : (s.postOnce d e).clusters = s.clusters := by unfold State.postOnce; split <;> rfl
@[simp] theorem State.postOnce_dies (s : State) (d : Nat) (e : Internal) : (s.postOnce d e).dies = s.dies := by unfold State.postOnce; split <;> rfl
@[simp] theorem State.postOnce_ctxs (s : State) (d : Nat) (e : Internal) : (s.postOnce d e).ctxs = s.ctxs := by unfold State.postOnce; split <;> rfl
@[simp] theorem State.postOnce_launches (s : State) (d : Nat) (e : Internal) : (s.postOnce d e).launches = s.launches := by unfold State.postOnce; split <;> rfl
@[simp] theorem State.postOnce_meters (s : State) (d : Nat) (e : Internal) : (s.postOnce d e).meters = s.meters := by unfold State.postOnce; split <;> rfl
@[simp] theorem State.postOnce_msgs (s : State) (d : Nat) (e : Internal) : (s.postOnce d e).msgs = s.msgs := by unfold State.postOnce; split <;> rfl
@[simp] theorem State.postOnce_pkg (s : State) (d : Nat) (e : Internal) : (s.postOnce d e).pkg = s.pkg := by unfold State.postOnce; split <;> rfl
@[simp] theorem State.postOnce_now (s : State) (d : Nat) (e : Internal) : (s.postOnce d e).now = s.now := by unfold State.postOnce; split <;> rfl
@[simp] theorem State.postOnce_cur (s : State) (d : Nat) (e : Internal) : (s.postOnce d e).cur = s.cur := by unfold State.postOnce; split <;> rfl
@[simp] theorem State.postOnce_turn (s : State) (d : Nat) (e : Internal) : (s.postOnce d e).turn = s.turn := by unfold State.postOnce; split <;> rfl
@[simp] theorem State.postOnce_inbox (s : State) (d : Nat) (e : Internal) : (s.postOnce d e).inbox = s.inbox := by unfold State.postOnce; split <;> rfl
@[simp] theorem State.postOnce_freeCtr (s : State) (d : Nat) (e : Internal) : (s.postOnce d e).freeCtr = s.freeCtr := by unfold State.postOnce; split <;> rfl
@[simp] theorem State.postOnce_nextUid (s : State) (d : Nat) (e : Internal) : (s.postOnce d e).nextUid = s.nextUid := by unfold State.postOnce; split <;> rfl
@[simp] theorem State.postOnce_nextMsg (s : State) (d : Nat) (e : Internal) : (s.postOnce d e).nextMsg = s.nextMsg := by unfold State.postOnce; split <;> rfl

@[simp] theorem State.updLaunch_mem (s : State) (l : Nat) (g : Launch → Launch) : (s.updLaunch l g).mem = s.mem := by unfold State.updLaunch; split <;> rfl
@[simp] theorem State.updLaunch_badSectors (s : State) (l : Nat) (g : Launch → Launch) : (s.updLaunch l g).badSectors = s.badSectors := by unfold State.updLaunch; split <;> rfl
@[simp] theorem State.updLaunch_softSectors (s : State) (l : Nat) (g : Launch → Launch) : (s.updLaunch l g).softSectors = s.softSectors := by unfold State.updLaunch; split <;> rfl
@[simp] theorem State.updLaunch_hostMem (s : State) (l : Nat) (g : Launch → Launch) : (s.updLaunch l g).hostMem = s.hostMem := by unfold State.updLaunch; split <;> rfl
@[simp] theorem State.updLaunch_swells (s : State) (l : Nat) (g : Launch → Launch) : (s.updLaunch l g).swells = s.swells := by unfold State.updLaunch; split <;> rfl
@[simp] theorem State.updLaunch_cores (s : State) (l : Nat) (g : Launch → Launch) : (s.updLaunch l g).cores = s.cores := by unfold State.updLaunch; split <;> rfl
@[simp] theorem State.updLaunch_clusters (s : State) (l : Nat) (g : Launch → Launch) : (s.updLaunch l g).clusters = s.clusters := by unfold State.updLaunch; split <;> rfl
@[simp] theorem State.updLaunch_dies (s : State) (l : Nat) (g : Launch → Launch) : (s.updLaunch l g).dies = s.dies := by unfold State.updLaunch; split <;> rfl
@[simp] theorem State.updLaunch_ctxs (s : State) (l : Nat) (g : Launch → Launch) : (s.updLaunch l g).ctxs = s.ctxs := by unfold State.updLaunch; split <;> rfl
@[simp] theorem State.updLaunch_meters (s : State) (l : Nat) (g : Launch → Launch) : (s.updLaunch l g).meters = s.meters := by unfold State.updLaunch; split <;> rfl
@[simp] theorem State.updLaunch_msgs (s : State) (l : Nat) (g : Launch → Launch) : (s.updLaunch l g).msgs = s.msgs := by unfold State.updLaunch; split <;> rfl
@[simp] theorem State.updLaunch_pkg (s : State) (l : Nat) (g : Launch → Launch) : (s.updLaunch l g).pkg = s.pkg := by unfold State.updLaunch; split <;> rfl
@[simp] theorem State.updLaunch_now (s : State) (l : Nat) (g : Launch → Launch) : (s.updLaunch l g).now = s.now := by unfold State.updLaunch; split <;> rfl
@[simp] theorem State.updLaunch_cur (s : State) (l : Nat) (g : Launch → Launch) : (s.updLaunch l g).cur = s.cur := by unfold State.updLaunch; split <;> rfl
@[simp] theorem State.updLaunch_turn (s : State) (l : Nat) (g : Launch → Launch) : (s.updLaunch l g).turn = s.turn := by unfold State.updLaunch; split <;> rfl
@[simp] theorem State.updLaunch_inbox (s : State) (l : Nat) (g : Launch → Launch) : (s.updLaunch l g).inbox = s.inbox := by unfold State.updLaunch; split <;> rfl
@[simp] theorem State.updLaunch_due (s : State) (l : Nat) (g : Launch → Launch) : (s.updLaunch l g).due = s.due := by unfold State.updLaunch; split <;> rfl
@[simp] theorem State.updLaunch_freeCtr (s : State) (l : Nat) (g : Launch → Launch) : (s.updLaunch l g).freeCtr = s.freeCtr := by unfold State.updLaunch; split <;> rfl
@[simp] theorem State.updLaunch_nextUid (s : State) (l : Nat) (g : Launch → Launch) : (s.updLaunch l g).nextUid = s.nextUid := by unfold State.updLaunch; split <;> rfl
@[simp] theorem State.updLaunch_nextMsg (s : State) (l : Nat) (g : Launch → Launch) : (s.updLaunch l g).nextMsg = s.nextMsg := by unfold State.updLaunch; split <;> rfl

@[simp] theorem State.updSwell_mem (s : State) (sw : SwellId) (g : Swell → Swell) : (s.updSwell sw g).mem = s.mem := by unfold State.updSwell; split <;> rfl
@[simp] theorem State.updSwell_badSectors (s : State) (sw : SwellId) (g : Swell → Swell) : (s.updSwell sw g).badSectors = s.badSectors := by unfold State.updSwell; split <;> rfl
@[simp] theorem State.updSwell_softSectors (s : State) (sw : SwellId) (g : Swell → Swell) : (s.updSwell sw g).softSectors = s.softSectors := by unfold State.updSwell; split <;> rfl
@[simp] theorem State.updSwell_hostMem (s : State) (sw : SwellId) (g : Swell → Swell) : (s.updSwell sw g).hostMem = s.hostMem := by unfold State.updSwell; split <;> rfl
@[simp] theorem State.updSwell_cores (s : State) (sw : SwellId) (g : Swell → Swell) : (s.updSwell sw g).cores = s.cores := by unfold State.updSwell; split <;> rfl
@[simp] theorem State.updSwell_clusters (s : State) (sw : SwellId) (g : Swell → Swell) : (s.updSwell sw g).clusters = s.clusters := by unfold State.updSwell; split <;> rfl
@[simp] theorem State.updSwell_dies (s : State) (sw : SwellId) (g : Swell → Swell) : (s.updSwell sw g).dies = s.dies := by unfold State.updSwell; split <;> rfl
@[simp] theorem State.updSwell_ctxs (s : State) (sw : SwellId) (g : Swell → Swell) : (s.updSwell sw g).ctxs = s.ctxs := by unfold State.updSwell; split <;> rfl
@[simp] theorem State.updSwell_launches (s : State) (sw : SwellId) (g : Swell → Swell) : (s.updSwell sw g).launches = s.launches := by unfold State.updSwell; split <;> rfl
@[simp] theorem State.updSwell_meters (s : State) (sw : SwellId) (g : Swell → Swell) : (s.updSwell sw g).meters = s.meters := by unfold State.updSwell; split <;> rfl
@[simp] theorem State.updSwell_msgs (s : State) (sw : SwellId) (g : Swell → Swell) : (s.updSwell sw g).msgs = s.msgs := by unfold State.updSwell; split <;> rfl
@[simp] theorem State.updSwell_pkg (s : State) (sw : SwellId) (g : Swell → Swell) : (s.updSwell sw g).pkg = s.pkg := by unfold State.updSwell; split <;> rfl
@[simp] theorem State.updSwell_now (s : State) (sw : SwellId) (g : Swell → Swell) : (s.updSwell sw g).now = s.now := by unfold State.updSwell; split <;> rfl
@[simp] theorem State.updSwell_cur (s : State) (sw : SwellId) (g : Swell → Swell) : (s.updSwell sw g).cur = s.cur := by unfold State.updSwell; split <;> rfl
@[simp] theorem State.updSwell_turn (s : State) (sw : SwellId) (g : Swell → Swell) : (s.updSwell sw g).turn = s.turn := by unfold State.updSwell; split <;> rfl
@[simp] theorem State.updSwell_inbox (s : State) (sw : SwellId) (g : Swell → Swell) : (s.updSwell sw g).inbox = s.inbox := by unfold State.updSwell; split <;> rfl
@[simp] theorem State.updSwell_due (s : State) (sw : SwellId) (g : Swell → Swell) : (s.updSwell sw g).due = s.due := by unfold State.updSwell; split <;> rfl
@[simp] theorem State.updSwell_freeCtr (s : State) (sw : SwellId) (g : Swell → Swell) : (s.updSwell sw g).freeCtr = s.freeCtr := by unfold State.updSwell; split <;> rfl
@[simp] theorem State.updSwell_nextUid (s : State) (sw : SwellId) (g : Swell → Swell) : (s.updSwell sw g).nextUid = s.nextUid := by unfold State.updSwell; split <;> rfl
@[simp] theorem State.updSwell_nextMsg (s : State) (sw : SwellId) (g : Swell → Swell) : (s.updSwell sw g).nextMsg = s.nextMsg := by unfold State.updSwell; split <;> rfl

@[simp] theorem State.updFrag_mem (s : State) (id : FragId) (g : Frag → Frag) : (s.updFrag id g).mem = s.mem := by simp [State.updFrag]
@[simp] theorem State.updFrag_badSectors (s : State) (id : FragId) (g : Frag → Frag) : (s.updFrag id g).badSectors = s.badSectors := by simp [State.updFrag]
@[simp] theorem State.updFrag_softSectors (s : State) (id : FragId) (g : Frag → Frag) : (s.updFrag id g).softSectors = s.softSectors := by simp [State.updFrag]
@[simp] theorem State.updFrag_hostMem (s : State) (id : FragId) (g : Frag → Frag) : (s.updFrag id g).hostMem = s.hostMem := by simp [State.updFrag]
@[simp] theorem State.updFrag_cores (s : State) (id : FragId) (g : Frag → Frag) : (s.updFrag id g).cores = s.cores := by simp [State.updFrag]
@[simp] theorem State.updFrag_clusters (s : State) (id : FragId) (g : Frag → Frag) : (s.updFrag id g).clusters = s.clusters := by simp [State.updFrag]
@[simp] theorem State.updFrag_dies (s : State) (id : FragId) (g : Frag → Frag) : (s.updFrag id g).dies = s.dies := by simp [State.updFrag]
@[simp] theorem State.updFrag_ctxs (s : State) (id : FragId) (g : Frag → Frag) : (s.updFrag id g).ctxs = s.ctxs := by simp [State.updFrag]
@[simp] theorem State.updFrag_launches (s : State) (id : FragId) (g : Frag → Frag) : (s.updFrag id g).launches = s.launches := by simp [State.updFrag]
@[simp] theorem State.updFrag_meters (s : State) (id : FragId) (g : Frag → Frag) : (s.updFrag id g).meters = s.meters := by simp [State.updFrag]
@[simp] theorem State.updFrag_msgs (s : State) (id : FragId) (g : Frag → Frag) : (s.updFrag id g).msgs = s.msgs := by simp [State.updFrag]
@[simp] theorem State.updFrag_pkg (s : State) (id : FragId) (g : Frag → Frag) : (s.updFrag id g).pkg = s.pkg := by simp [State.updFrag]
@[simp] theorem State.updFrag_now (s : State) (id : FragId) (g : Frag → Frag) : (s.updFrag id g).now = s.now := by simp [State.updFrag]
@[simp] theorem State.updFrag_cur (s : State) (id : FragId) (g : Frag → Frag) : (s.updFrag id g).cur = s.cur := by simp [State.updFrag]
@[simp] theorem State.updFrag_turn (s : State) (id : FragId) (g : Frag → Frag) : (s.updFrag id g).turn = s.turn := by simp [State.updFrag]
@[simp] theorem State.updFrag_inbox (s : State) (id : FragId) (g : Frag → Frag) : (s.updFrag id g).inbox = s.inbox := by simp [State.updFrag]
@[simp] theorem State.updFrag_due (s : State) (id : FragId) (g : Frag → Frag) : (s.updFrag id g).due = s.due := by simp [State.updFrag]
@[simp] theorem State.updFrag_freeCtr (s : State) (id : FragId) (g : Frag → Frag) : (s.updFrag id g).freeCtr = s.freeCtr := by simp [State.updFrag]
@[simp] theorem State.updFrag_nextUid (s : State) (id : FragId) (g : Frag → Frag) : (s.updFrag id g).nextUid = s.nextUid := by simp [State.updFrag]
@[simp] theorem State.updFrag_nextMsg (s : State) (id : FragId) (g : Frag → Frag) : (s.updFrag id g).nextMsg = s.nextMsg := by simp [State.updFrag]

/-! ## Records after an update -/

@[simp] theorem State.core_setCore (s : State) (k j : Nat) (x : Core) : (s.setCore k x).core j = if j = k then x else s.core j := by
  simp only [State.core, State.setCore, kvGet_kvSet]; split <;> simp_all
@[simp] theorem State.core_updCore (s : State) (k j : Nat) (g : Core → Core) : (s.updCore k g).core j = if j = k then g (s.core j) else s.core j := by
  rw [State.updCore, State.core_setCore]; split <;> simp_all

@[simp] theorem State.core_updCluster (s : State) (k j : Nat) (g : Cluster → Cluster) : (s.updCluster k g).core j = s.core j := rfl
@[simp] theorem State.core_updDie (s : State) (k j : Nat) (g : Die → Die) : (s.updDie k g).core j = s.core j := rfl
@[simp] theorem State.core_updCtx (s : State) (k j : Nat) (g : Ctx → Ctx) : (s.updCtx k g).core j = s.core j := rfl
@[simp] theorem State.core_post (s : State) (j : Nat) (d : Nat) (e : Internal) : (s.post d e).core j = s.core j := by simp [State.core]
@[simp] theorem State.core_postOnce (s : State) (j : Nat) (d : Nat) (e : Internal) : (s.postOnce d e).core j = s.core j := by simp [State.core]
@[simp] theorem State.core_updSwell (s : State) (j : Nat) (sw : SwellId) (g : Swell → Swell) : (s.updSwell sw g).core j = s.core j := by simp [State.core]
@[simp] theorem State.core_updFrag (s : State) (j : Nat) (id : FragId) (g : Frag → Frag) : (s.updFrag id g).core j = s.core j := by simp [State.core]
@[simp] theorem State.core_updLaunch (s : State) (j : Nat) (l : Nat) (g : Launch → Launch) : (s.updLaunch l g).core j = s.core j := by simp [State.core]
@[simp] theorem State.core_updMeter (s : State) (j : Nat) (d k : Nat) (g : Meter → Meter) : (s.updMeter d k g).core j = s.core j := by simp [State.core]

@[simp] theorem State.cluster_setCluster (s : State) (k j : Nat) (x : Cluster) : (s.setCluster k x).cluster j = if j = k then x else s.cluster j := by
  simp only [State.cluster, State.setCluster, kvGet_kvSet]; split <;> simp_all
@[simp] theorem State.cluster_updCluster (s : State) (k j : Nat) (g : Cluster → Cluster) : (s.updCluster k g).cluster j = if j = k then g (s.cluster j) else s.cluster j := by
  rw [State.updCluster, State.cluster_setCluster]; split <;> simp_all

@[simp] theorem State.cluster_updCore (s : State) (k j : Nat) (g : Core → Core) : (s.updCore k g).cluster j = s.cluster j := rfl
@[simp] theorem State.cluster_updDie (s : State) (k j : Nat) (g : Die → Die) : (s.updDie k g).cluster j = s.cluster j := rfl
@[simp] theorem State.cluster_updCtx (s : State) (k j : Nat) (g : Ctx → Ctx) : (s.updCtx k g).cluster j = s.cluster j := rfl
@[simp] theorem State.cluster_post (s : State) (j : Nat) (d : Nat) (e : Internal) : (s.post d e).cluster j = s.cluster j := by simp [State.cluster]
@[simp] theorem State.cluster_postOnce (s : State) (j : Nat) (d : Nat) (e : Internal) : (s.postOnce d e).cluster j = s.cluster j := by simp [State.cluster]
@[simp] theorem State.cluster_updSwell (s : State) (j : Nat) (sw : SwellId) (g : Swell → Swell) : (s.updSwell sw g).cluster j = s.cluster j := by simp [State.cluster]
@[simp] theorem State.cluster_updFrag (s : State) (j : Nat) (id : FragId) (g : Frag → Frag) : (s.updFrag id g).cluster j = s.cluster j := by simp [State.cluster]
@[simp] theorem State.cluster_updLaunch (s : State) (j : Nat) (l : Nat) (g : Launch → Launch) : (s.updLaunch l g).cluster j = s.cluster j := by simp [State.cluster]
@[simp] theorem State.cluster_updMeter (s : State) (j : Nat) (d k : Nat) (g : Meter → Meter) : (s.updMeter d k g).cluster j = s.cluster j := by simp [State.cluster]

@[simp] theorem State.die_setDie (s : State) (k j : Nat) (x : Die) : (s.setDie k x).die j = if j = k then x else s.die j := by
  simp only [State.die, State.setDie, kvGet_kvSet]; split <;> simp_all
@[simp] theorem State.die_updDie (s : State) (k j : Nat) (g : Die → Die) : (s.updDie k g).die j = if j = k then g (s.die j) else s.die j := by
  rw [State.updDie, State.die_setDie]; split <;> simp_all

@[simp] theorem State.die_updCore (s : State) (k j : Nat) (g : Core → Core) : (s.updCore k g).die j = s.die j := rfl
@[simp] theorem State.die_updCluster (s : State) (k j : Nat) (g : Cluster → Cluster) : (s.updCluster k g).die j = s.die j := rfl
@[simp] theorem State.die_updCtx (s : State) (k j : Nat) (g : Ctx → Ctx) : (s.updCtx k g).die j = s.die j := rfl
@[simp] theorem State.die_post (s : State) (j : Nat) (d : Nat) (e : Internal) : (s.post d e).die j = s.die j := by simp [State.die]
@[simp] theorem State.die_postOnce (s : State) (j : Nat) (d : Nat) (e : Internal) : (s.postOnce d e).die j = s.die j := by simp [State.die]
@[simp] theorem State.die_updSwell (s : State) (j : Nat) (sw : SwellId) (g : Swell → Swell) : (s.updSwell sw g).die j = s.die j := by simp [State.die]
@[simp] theorem State.die_updFrag (s : State) (j : Nat) (id : FragId) (g : Frag → Frag) : (s.updFrag id g).die j = s.die j := by simp [State.die]
@[simp] theorem State.die_updLaunch (s : State) (j : Nat) (l : Nat) (g : Launch → Launch) : (s.updLaunch l g).die j = s.die j := by simp [State.die]
@[simp] theorem State.die_updMeter (s : State) (j : Nat) (d k : Nat) (g : Meter → Meter) : (s.updMeter d k g).die j = s.die j := by simp [State.die]

@[simp] theorem State.ctx_setCtx (s : State) (k j : Nat) (x : Ctx) : (s.setCtx k x).ctx j = if j = k then x else s.ctx j := by
  simp only [State.ctx, State.setCtx, kvGet_kvSet]; split <;> simp_all
@[simp] theorem State.ctx_updCtx (s : State) (k j : Nat) (g : Ctx → Ctx) : (s.updCtx k g).ctx j = if j = k then g (s.ctx j) else s.ctx j := by
  rw [State.updCtx, State.ctx_setCtx]; split <;> simp_all

@[simp] theorem State.ctx_updCore (s : State) (k j : Nat) (g : Core → Core) : (s.updCore k g).ctx j = s.ctx j := rfl
@[simp] theorem State.ctx_updCluster (s : State) (k j : Nat) (g : Cluster → Cluster) : (s.updCluster k g).ctx j = s.ctx j := rfl
@[simp] theorem State.ctx_updDie (s : State) (k j : Nat) (g : Die → Die) : (s.updDie k g).ctx j = s.ctx j := rfl
@[simp] theorem State.ctx_post (s : State) (j : Nat) (d : Nat) (e : Internal) : (s.post d e).ctx j = s.ctx j := by simp [State.ctx]
@[simp] theorem State.ctx_postOnce (s : State) (j : Nat) (d : Nat) (e : Internal) : (s.postOnce d e).ctx j = s.ctx j := by simp [State.ctx]
@[simp] theorem State.ctx_updSwell (s : State) (j : Nat) (sw : SwellId) (g : Swell → Swell) : (s.updSwell sw g).ctx j = s.ctx j := by simp [State.ctx]
@[simp] theorem State.ctx_updFrag (s : State) (j : Nat) (id : FragId) (g : Frag → Frag) : (s.updFrag id g).ctx j = s.ctx j := by simp [State.ctx]
@[simp] theorem State.ctx_updLaunch (s : State) (j : Nat) (l : Nat) (g : Launch → Launch) : (s.updLaunch l g).ctx j = s.ctx j := by simp [State.ctx]
@[simp] theorem State.ctx_updMeter (s : State) (j : Nat) (d k : Nat) (g : Meter → Meter) : (s.updMeter d k g).ctx j = s.ctx j := by simp [State.ctx]

/-! ## Swells and fragments after an update -/

theorem State.swellAt_updSwell (s : State) (sw : SwellId) (g : Swell → Swell) (w : Swell) (h : s.swellAt sw = some w) (hu : (g w).uid = sw.uid) :
    (s.updSwell sw g).swellAt sw = some (g w) := by
  rw [State.updSwell, h]
  simp only [State.swellAt, kvGet_kvSet, if_true, hu]

theorem State.kvGet_updSwell_other (s : State) (sw : SwellId) (g : Swell → Swell) (k : Nat) (h : k ≠ sw.key) :
    kvGet (s.updSwell sw g).swells k = kvGet s.swells k := by
  unfold State.updSwell; split
  · simp [h]
  · rfl

theorem State.swellAt_of_fragAt (s : State) (id : FragId) (w : Swell) (f : Frag) (h : s.fragAt id = some (w, f)) :
    s.swellAt id.swell = some w ∧ w.ent id.ent = f ∧ f.live = true := by
  unfold State.fragAt at h
  split at h
  · split at h
    · simp only [Option.some.injEq, Prod.mk.injEq] at h
      obtain ⟨rfl, rfl⟩ := h
      exact ⟨by assumption, rfl, by assumption⟩
    · exact absurd h (by simp)
  · exact absurd h (by simp)

theorem State.uid_of_swellAt (s : State) (sw : SwellId) (w : Swell) (h : s.swellAt sw = some w) : w.uid = sw.uid ∧ kvGet s.swells sw.key = some w := by
  unfold State.swellAt at h
  split at h
  · split at h
    · simp only [Option.some.injEq] at h; subst h; exact ⟨by assumption, by assumption⟩
    · exact absurd h (by simp)
  · exact absurd h (by simp)

@[simp] theorem Swell.setEnt_v (w : Swell) (e : Nat) (f : Frag) : (w.setEnt e f).v = w.v := rfl
@[simp] theorem Swell.setEnt_s (w : Swell) (e : Nat) (f : Frag) : (w.setEnt e f).s = w.s := rfl
@[simp] theorem Swell.setEnt_uid (w : Swell) (e : Nat) (f : Frag) : (w.setEnt e f).uid = w.uid := rfl
@[simp] theorem Swell.setEnt_vreg (w : Swell) (e : Nat) (f : Frag) (r : Reg) : (w.setEnt e f).vreg r = w.vreg r := rfl
@[simp] theorem Swell.setEnt_sreg (w : Swell) (e : Nat) (f : Frag) (r : Reg) : (w.setEnt e f).sreg r = w.sreg r := rfl

theorem Swell.ent_setEnt (w : Swell) (e i : Nat) (f : Frag) : (w.setEnt e f).ent i = if i = e ∧ i < 8 then f else w.ent i := by
  unfold Swell.ent Swell.setEnt
  simp only
  by_cases hi : i < 8
  · simp only [Vector.getElem?_setIfInBounds]
    by_cases h : e = i
    · subst h; simp [hi]
    · simp [h, Ne.symm h]
  · simp [hi]

/-! ## Registers after a write -/

theorem Swell.setS_zero (w : Swell) (x : Word) : w.setS 0 x = w := rfl

theorem Swell.setS_s (w : Swell) (r : Reg) (x : Word) (h : r ≠ 0) : (w.setS r x).s = w.s.set r.toNat x r.isLt := by
  unfold Swell.setS; split
  · contradiction
  · rfl

theorem Swell.sreg_zero (w : Swell) : w.sreg 0 = 0 := rfl

theorem Swell.sreg_ne (w : Swell) (r : Reg) (h : r ≠ 0) : w.sreg r = w.s[r.toNat]'r.isLt := by
  unfold Swell.sreg; split
  · contradiction
  · rfl

theorem Swell.sreg_setS_same (w : Swell) (r : Reg) (x : Word) (h : r ≠ 0) : (w.setS r x).sreg r = x := by
  rw [Swell.sreg_ne _ _ h]; simp only [Swell.setS_s _ _ _ h, Vector.getElem_set_self]

theorem Swell.sreg_setS_other (w : Swell) (r q : Reg) (x : Word) (h : q ≠ r) : (w.setS r x).sreg q = w.sreg q := by
  by_cases hr : r = 0
  · subst hr; rfl
  · by_cases hq : q = 0
    · subst hq; rfl
    · have : r.toNat ≠ q.toNat := fun e => h (BitVec.eq_of_toNat_eq e).symm
      rw [Swell.sreg_ne _ _ hq, Swell.sreg_ne _ _ hq]
      simp only [Swell.setS_s _ _ _ hr, Vector.getElem_set_ne _ _ this]

theorem Swell.sreg_setS (w : Swell) (r q : Reg) (x : Word) : (w.setS r x).sreg q = if q = r ∧ q ≠ 0 then x else w.sreg q := by
  by_cases h : q = r
  · subst h
    by_cases hq : q = 0
    · subst hq; rw [if_neg (fun h => h.2 rfl)]; rfl
    · rw [if_pos (And.intro rfl hq), Swell.sreg_setS_same _ _ _ hq]
  · rw [if_neg (fun y => h y.1), Swell.sreg_setS_other _ _ _ _ h]

theorem Swell.vreg_setS (w : Swell) (r q : Reg) (x : Word) : (w.setS r x).vreg q = w.vreg q := by
  unfold Swell.setS; split <;> rfl

theorem Swell.vreg_setV (w : Swell) (m : Word) (r q : Reg) (x : Row) (l : Fin 32) :
    ((w.setV m r x).vreg q)[l] = if q = r ∧ m.getLsbD l.val = true then x[l] else (w.vreg q)[l] := by
  unfold Swell.setV Swell.vreg
  by_cases h : q = r
  · subst h
    simp only [Vector.getElem_set_self, mergeRow, true_and, Fin.getElem_fin, Vector.getElem_ofFn]
  · have : r.toNat ≠ q.toNat := fun e => h (BitVec.eq_of_toNat_eq e).symm
    simp only [Vector.getElem_set_ne _ _ this, h, false_and, if_false]

@[simp] theorem Swell.sreg_setV (w : Swell) (m : Word) (r q : Reg) (x : Row) : (w.setV m r x).sreg q = w.sreg q := rfl
@[simp] theorem Swell.sreg_orFlags (w : Swell) (fl : Word) (q : Reg) : (w.orFlags fl).sreg q = w.sreg q := rfl
@[simp] theorem Swell.vreg_orFlags (w : Swell) (fl : Word) (q : Reg) : (w.orFlags fl).vreg q = w.vreg q := rfl

end Sys2Proof.Machine
end

