-- ==== Sys2Proof/Laws/Issue.lean ====
section
/-! SUPPORT. What issuing a word comes to, said once: a ready word is performed, its unit ends, and everything outside the fragment's swell and its core's operand latch is left alone. -/

namespace Sys2Proof.Machine

theorem Ready.refused_eq_none {s : State} {w : Swell} {f : Frag} {fm : Form} {regs : List Nat} (h : Ready s w f fm regs) : fm.refused f.hints = none := by
  simp only [Form.refused, List.find?_eq_none]
  intro x hx
  simp [h.hints x hx]

theorem Ready.regRange_eq_none {s : State} {w : Swell} {f : Frag} {fm : Form} {regs : List Nat} (h : Ready s w f fm regs) : regRange w.n regs = none := by
  simp only [regRange, List.find?_eq_none]
  intro x hx
  have := h.range x hx
  simp; omega

/-- A ready word is performed by its body. -/
theorem issue_ready {s : State} {w : Swell} {f : Frag} {fm : Form} {regs : List Nat} (h : Ready s w f fm regs) (body : Swell → Frag → Done) :
    issue fm regs s body = .next ((body w f).settle s.cur fm f.pc) := by
  have hst : ¬ (f.st ≠ 0 ∧ f.st ≠ 5) := by rcases h.running with h | h <;> simp [h]
  simp only [issue, h.frag, h.refused_eq_none, h.regRange_eq_none, if_neg hst]

/-- A running word is checked and then performed by its body. -/
theorem issue_runs {s : State} {w : Swell} {f : Frag} (h : Runs s w f) (fm : Form) (regs : List Nat) (body : Swell → Frag → Done) :
    issue fm regs s body = match fm.refused f.hints with
      | some x => .next ((Done.fault s (plainFault .illegal (x.word.setWidth 64))).settle s.cur fm f.pc)
      | none => match regRange w.n regs with
        | some r => .next ((Done.fault s (plainFault .regrange (BitVec.ofNat 64 r))).settle s.cur fm f.pc)
        | none => .next ((body w f).settle s.cur fm f.pc) := by
  have hst : ¬ (f.st ≠ 0 ∧ f.st ≠ 5) := by rcases h.running with h | h <;> simp [h]
  simp only [issue, h.frag, if_neg hst]
  all_goals rfl

theorem Runs.swellAt {s : State} {w : Swell} {f : Frag} (h : Runs s w f) : s.swellAt s.cur.swell = some w ∧ w.ent s.cur.ent = f := by
  have := State.swellAt_of_fragAt s s.cur w f h.frag
  exact ⟨this.1, this.2.1⟩

theorem Runs.uid {s : State} {w : Swell} {f : Frag} (h : Runs s w f) : w.uid = s.cur.uid := (State.uid_of_swellAt s s.cur.swell w h.swellAt.1).1

theorem ent_lt_of_live {w : Swell} {e : Nat} (h : (w.ent e).live = true) : e < 8 := by
  rcases Nat.lt_or_ge e 8 with hc | hc
  · exact hc
  · have : w.ents[e]? = none := by simp [hc]
    simp [Swell.ent, this, Frag.free, Frag.live] at h

theorem Runs.ent_lt {s : State} {w : Swell} {f : Frag} (h : Runs s w f) : s.cur.ent < 8 := by
  have := State.swellAt_of_fragAt s s.cur w f h.frag
  exact ent_lt_of_live (by rw [this.2.1]; exact this.2.2)

/-- The frame of a swell update followed by a latch update. -/
theorem sameOutside_upd (s : State) (id : FragId) (g : Swell → Swell) (l : List LatchEnt → List LatchEnt) :
    SameOutside s ((s.updSwell id.swell g).updCore (coreOfKey id.key) fun c => { c with latch := l c.latch }) id where
  mem _ := by simp
  scratch c _ := by
    simp only [State.core_updCore, State.core_updSwell]
    split <;> rfl
  cores c := by
    simp only [State.core_updCore, State.core_updSwell]
    split <;> rfl
  swells k hk := by
    simp only [State.updCore_swells]
    exact State.kvGet_updSwell_other s id.swell g k hk
  rest := by
    unfold State.updCore State.setCore State.updSwell
    split <;> rfl

theorem SameOutside.trans {s t u : State} {id : FragId} (h : SameOutside s t id) (k : SameOutside t u id) : SameOutside s u id where
  mem a := (k.mem a).trans (h.mem a)
  scratch c a := (k.scratch c a).trans (h.scratch c a)
  cores c := by rw [k.cores c, h.cores c]
  swells n hn := (k.swells n hn).trans (h.swells n hn)
  rest := by rw [k.rest, h.rest]

theorem sameOutside_updSwell (s : State) (id : FragId) (g : Swell → Swell) : SameOutside s (s.updSwell id.swell g) id where
  mem _ := by simp
  scratch _ _ := by simp
  cores _ := by simp
  swells k hk := State.kvGet_updSwell_other s id.swell g k hk
  rest := by
    unfold State.updSwell
    split <;> rfl

theorem endUnit_sameOutside (s : State) (id : FragId) (fm : Form) (pc : Pc) : SameOutside s (s.endUnit id fm pc) id :=
  sameOutside_upd s id _ fun l => holdLatch l (slotOfKey id.key) id.ent fm

/-- Ending a unit that begins no region leaves the entry as `afterUnit` says. -/
theorem endUnit_swell {s : State} {id : FragId} {fm : Form} {pc : Pc} {w : Swell} (h : s.swellAt id.swell = some w) (hb : fm.brk = false) :
    (s.endUnit id fm pc).swellAt id.swell = some (w.setEnt id.ent ((w.ent id.ent).afterUnit s.now pc)) := by
  have hu := (State.uid_of_swellAt s id.swell w h).1
  have : ((s.updSwell id.swell fun w => w.setEnt id.ent ((w.ent id.ent).afterUnit s.now pc))).swellAt id.swell = some (w.setEnt id.ent ((w.ent id.ent).afterUnit s.now pc)) :=
    State.swellAt_updSwell s id.swell _ w h (by simpa using hu)
  simpa [State.endUnit, State.latchWord, hb, State.swellAt] using this

/-- A body that replaces the swell and nothing else, settled. -/
theorem performed_settle {s : State} {w : Swell} {f : Frag} {fm : Form} (h : Runs s w f) (hb : fm.brk = false) (w' : Swell) (hu : w'.uid = w.uid) (pc : Pc) :
    Performed s ((s.updSwell s.cur.swell fun _ => w').endUnit s.cur fm pc) w' ((w'.ent s.cur.ent).afterUnit s.now pc) where
  outside := (sameOutside_updSwell s s.cur _).trans (endUnit_sameOutside _ s.cur fm pc)
  swell := by
    have := endUnit_swell (fm := fm) (pc := pc) (State.swellAt_updSwell s s.cur.swell (fun _ => w') w h.swellAt.1 (hu.trans h.uid)) hb
    simpa using this

/-- A ready word of `issueSwell` is performed: the swell is the body's, the fragment goes on. -/
theorem performed_issueSwell {s : State} {w : Swell} {f : Frag} {fm : Form} {regs : List Nat} (h : Ready s w f fm regs) (hb : fm.brk = false)
    (body : Swell → Frag → Swell) (hu : (body w f).uid = w.uid) (hpc : ((body w f).ent s.cur.ent).pc = f.pc) :
    ∃ t, issueSwell fm regs s body = .next t ∧ Performed s t (body w f) (((body w f).ent s.cur.ent).onward s.now) := by
  refine ⟨_, issue_ready h _, ?_⟩
  simp only [Done.settle, Frag.onward, hpc]
  exact performed_settle h.toRuns hb _ hu _

/-- A fault of a fragment with nothing outstanding is taken. -/
theorem settle_fault {s : State} {w : Swell} {f : Frag} (h : Runs s w f) (ho : f.outst = []) (fm : Form) (r : FaultRec) :
    (Done.fault s r).settle s.cur fm f.pc = s.takeFault s.cur r := by
  simp [Done.settle, h.frag, ho]

end Sys2Proof.Machine
end

