-- ==== Sys2Proof/Laws/Memory.lean ====
section
/-! SUPPORT. Byte memories: what a byte reads as after a write, and that every memory operation keeps the canonical form. -/

namespace Sys2Proof.Machine

/-! ## Reads after writes -/

theorem byteAt_filter (m : Bytes) (p : Nat → Bool) (a : Nat) :
    byteAt (m.filter fun c => p c.1) a = if p a then byteAt m a else 0 := by
  induction m <;> grind [byteAt]

theorem byteAt_insertByte (m : Bytes) (a c : Nat) (b : Byte) : byteAt (insertByte m a b) c = if c = a then b else byteAt m c := by
  fun_induction insertByte <;> grind [byteAt]

/-- A byte after a write of one byte. -/
theorem byteAt_putByte (m : Bytes) (a c : Nat) (b : Byte) : byteAt (putByte m a b) c = if c = a then b else byteAt m c := by
  grind [putByte, byteAt_filter m (fun k => k != a) c, byteAt_insertByte]

/-- A byte after a write of several. -/
theorem byteAt_writeBytes (bs : List Byte) (m : Bytes) (a c : Nat) :
    byteAt (writeBytes m a bs) c = if h : a ≤ c ∧ c < a + bs.length then bs[c - a]'(by omega) else byteAt m c := by
  fun_induction writeBytes <;> grind [byteAt_putByte]

/-- Bytes outside a write are unchanged. -/
theorem byteAt_writeBytes_outside (bs : List Byte) (m : Bytes) (a c : Nat) (h : c < a ∨ a + bs.length ≤ c) :
    byteAt (writeBytes m a bs) c = byteAt m c := by
  rw [byteAt_writeBytes, dif_neg (by omega)]

theorem readBytes_length (m : Bytes) (n a : Nat) : (readBytes m a n).length = n := by
  fun_induction readBytes <;> grind

theorem readBytes_get (m : Bytes) (n a i : Nat) (h : i < (readBytes m a n).length) : (readBytes m a n)[i] = byteAt m (a + i) := by
  fun_induction readBytes generalizing i <;> grind

/-- What was written is read back. -/
theorem readBytes_writeBytes (m : Bytes) (a : Nat) (bs : List Byte) : readBytes (writeBytes m a bs) a bs.length = bs := by
  apply List.ext_getElem (by simp [readBytes_length])
  intro i h1 h2
  rw [readBytes_get, byteAt_writeBytes, dif_pos (by omega)]
  simp

/-! ## The canonical form -/

theorem Memory.wfFrom_mono (m : Bytes) (lo hi : Nat) (h : Memory.wfFrom hi m = true) (hl : lo ≤ hi) : Memory.wfFrom lo m = true := by
  cases m <;> grind [Memory.wfFrom]

theorem Memory.wfFrom_filter (m : Bytes) (p : Host.Cell → Bool) (lo : Nat) (h : Memory.wfFrom lo m = true) : Memory.wfFrom lo (m.filter p) = true := by
  fun_induction Memory.wfFrom <;> grind [Memory.wfFrom, Memory.wfFrom_mono]

theorem Memory.wfFrom_insertByte (m : Bytes) (a lo : Nat) (b : Byte) (h : Memory.wfFrom lo m = true) (hb : b ≠ 0) (ha : lo ≤ a) :
    Memory.wfFrom lo (insertByte m a b) = true := by
  fun_induction insertByte generalizing lo <;> grind [Memory.wfFrom]

/-- A write of one byte keeps the canonical form. -/
theorem Memory.wf_putByte (m : Bytes) (a : Nat) (b : Byte) (h : Memory.wf m = true) : Memory.wf (putByte m a b) = true := by
  unfold putByte
  split
  · exact Memory.wfFrom_filter _ _ _ h
  · exact Memory.wfFrom_insertByte _ _ _ _ h (by assumption) (by omega)

/-- A write of several bytes keeps the canonical form. -/
theorem Memory.wf_writeBytes (bs : List Byte) (m : Bytes) (a : Nat) (h : Memory.wf m = true) : Memory.wf (writeBytes m a bs) = true := by
  induction bs generalizing m a with
  | nil => exact h
  | cons b bs ih => exact ih _ _ (Memory.wf_putByte _ _ _ h)

/-- Dropping a range keeps the canonical form. -/
theorem Memory.wf_dropRange (m : Bytes) (lo hi : Nat) (h : Memory.wf m = true) : Memory.wf (dropRange m lo hi) = true :=
  Memory.wfFrom_filter _ _ _ h

/-- Putting the bytes of a list of cells keeps the canonical form. -/
theorem Memory.wf_foldl_putByte (l : List Host.Cell) (m : Bytes) (g : Host.Cell → Nat) (v : Host.Cell → Byte) (h : Memory.wf m = true) :
    Memory.wf (l.foldl (fun (m : Bytes) c => putByte m (g c) (v c)) m) = true := by
  induction l generalizing m with
  | nil => exact h
  | cons c l ih => exact ih _ (Memory.wf_putByte _ _ _ h)

/-- Memory right after reset is canonical. -/
theorem Memory.wf_reset : Memory.wf State.reset.mem = true := rfl

/-! ## Memory of the package -/

theorem clearBad_mem (s : State) (pa : Nat) : (clearBad s pa).mem = s.mem := by
  unfold clearBad; split <;> rfl

theorem foldl_clearBad_mem (l : List Nat) (s : State) (pa : Nat) : (l.foldl (fun s i => clearBad s (pa + i)) s).mem = s.mem := by
  induction l generalizing s with
  | nil => rfl
  | cons i l ih => rw [List.foldl_cons, ih, clearBad_mem]

@[simp] theorem memWrite_mem (s : State) (pa : Nat) (bs : List Byte) : (memWrite s pa bs).mem = writeBytes s.mem pa bs := by
  simp only [memWrite, foldl_clearBad_mem]

/-- A write to memory keeps its canonical form. -/
theorem memWrite_wf (s : State) (pa : Nat) (bs : List Byte) (h : Memory.wf s.mem = true) : Memory.wf (memWrite s pa bs).mem = true := by
  rw [memWrite_mem]; exact Memory.wf_writeBytes _ _ _ h

/-! ## Every operation over memory keeps the canonical form

`MemWf` is kept by each of the operations that write memory: at the home, by a recall, an eviction, a replica, and what the caches do. -/

/-- The memory of the package and of the host are canonical. -/
def MemWf (s : State) : Prop := Memory.wf s.mem = true ∧ Memory.wf s.hostMem = true

theorem MemWf.of_eq {s t : State} (h : MemWf s) (hm : t.mem = s.mem) (hh : t.hostMem = s.hostMem) : MemWf t := by
  unfold MemWf at *; rw [hm, hh]; exact h

theorem MemWf.updDie {s : State} (h : MemWf s) (d : Nat) (g : Die → Die) : MemWf (s.updDie d g) := h.of_eq rfl rfl
theorem MemWf.updCore {s : State} (h : MemWf s) (c : Nat) (g : Core → Core) : MemWf (s.updCore c g) := h.of_eq rfl rfl
theorem MemWf.updCluster {s : State} (h : MemWf s) (c : Nat) (g : Cluster → Cluster) : MemWf (s.updCluster c g) := h.of_eq rfl rfl
theorem MemWf.updCtx {s : State} (h : MemWf s) (c : Nat) (g : Ctx → Ctx) : MemWf (s.updCtx c g) := h.of_eq rfl rfl
theorem MemWf.updMeter {s : State} (h : MemWf s) (d k : Nat) (g : Meter → Meter) : MemWf (s.updMeter d k g) := h.of_eq rfl rfl
theorem MemWf.post {s : State} (h : MemWf s) (d : Nat) (e : Internal) : MemWf (s.post d e) := h.of_eq rfl rfl
theorem MemWf.postOnce {s : State} (h : MemWf s) (d : Nat) (e : Internal) : MemWf (s.postOnce d e) := h.of_eq (by simp) (by simp)
theorem MemWf.updSwell {s : State} (h : MemWf s) (sw : SwellId) (g : Swell → Swell) : MemWf (s.updSwell sw g) := h.of_eq (by simp) (by simp)
theorem MemWf.choose {s : State} (h : MemWf s) (n : Nat) : MemWf (s.choose n).2 := h.of_eq rfl rfl
theorem MemWf.logError {s : State} (h : MemWf s) (k : Nat) (r : LogRec) : MemWf (s.logError k r) := h.updCtx _ _

theorem MemWf.foldl {α : Type} {g : State → α → State} (hg : ∀ s x, MemWf s → MemWf (g s x)) (l : List α) {s : State} (h : MemWf s) :
    MemWf (l.foldl g s) := by
  fun_induction List.foldl <;> grind

theorem MemWf.memWrite {s : State} (h : MemWf s) (pa : Nat) (bs : List Byte) : MemWf (memWrite s pa bs) := by
  have key (l : List Nat) (s : State) : (l.foldl (fun s i => clearBad s (pa + i)) s).hostMem = s.hostMem := by
    induction l generalizing s <;> grind [clearBad]
  exact ⟨memWrite_wf _ _ _ h.1, by simp only [Machine.memWrite, key]; exact h.2⟩

theorem MemWf.updUid {s : State} (h : MemWf s) (uid : Nat) (g : Swell → Swell) : MemWf (s.updUid uid g) := by
  unfold State.updUid; split <;> exact h.of_eq rfl rfl

/-! ### Traffic -/

theorem MemWf.countMesh {s : State} (h : MemWf s) (ctx n fuel a b : Nat) : MemWf (countMesh s ctx n fuel a b) := by
  fun_induction Machine.countMesh <;> grind [MemWf.updMeter]

theorem MemWf.countPackets {s : State} (h : MemWf s) (ctx d k n : Nat) (w : Bool) : MemWf (countPackets s ctx d k n w) := by
  grind [Machine.countPackets, MemWf.countMesh]

theorem MemWf.countRecall {s : State} (h : MemWf s) (ctx k d n : Nat) : MemWf (countRecall s ctx k d n) := by
  grind [Machine.countRecall, MemWf.countMesh]

theorem MemWf.countHbm {s : State} (h : MemWf s) (d ctx n : Nat) (w : Bool) : MemWf (countHbm s d ctx n w) := by
  grind [Machine.countHbm, MemWf.updMeter]

/-! ### Writes at the home -/

theorem MemWf.fireWatch {s : State} (h : MemWf s) (y : Watch) (v : Word) : MemWf (fireWatch s y v) := ((h.countMesh _ _ _ _ _).updUid _ _).postOnce _ _

theorem MemWf.fireWatches {s : State} (h : MemWf s) (pa : Nat) (v : Word) : MemWf (fireWatches s pa v) :=
  MemWf.foldl (fun _ _ h => h.fireWatch _ _) _ (h.updDie _ _)

theorem MemWf.notRos {s : State} (h : MemWf s) (line : Nat) : MemWf (notRos s line) := by
  grind [Machine.notRos, MemWf.updDie]

/-- Bytes of a line written one by one. -/
theorem MemWf.writeCells {s : State} (h : MemWf s) (line : Nat) (l : List (Nat × Byte)) :
    MemWf (l.foldl (fun s b => Machine.memWrite s (line * 256 + b.1) [b.2]) s) := MemWf.foldl (fun _ _ h => h.memWrite _ _) _ h

theorem MemWf.homeMerge {s : State} (h : MemWf s) (line : Nat) (m : BitVec 256) (data : Bytes) : MemWf (homeMerge s line m data) :=
  MemWf.foldl (fun _ _ h => h.fireWatches _ _) _ (MemWf.writeCells (iteInduction (motive := MemWf) (fun _ => h) fun _ => h.notRos _) _ _)

/-! ### The local partition -/

theorem MemWf.sliceDrop {s : State} (h : MemWf s) (d : Nat) (x : SliceLine) : MemWf (sliceDrop s d x) := (h.updDie _ _).countHbm _ _ _ _
theorem MemWf.slicePut {s : State} (h : MemWf s) (d : Nat) (x : SliceLine) : MemWf (slicePut s d x) := h.updDie _ _

/-- A choice of a way keeps the canonical form. -/
def PickWf (pick : WayPick) : Prop := ∀ s d line, MemWf s → MemWf (pick s d line).2

theorem MemWf.sliceWayLocal : PickWf sliceWayLocal := by
  intro s d line h
  grind [Machine.sliceWayLocal, MemWf.choose, MemWf.sliceDrop]

theorem MemWf.sliceAccess {s : State} (h : MemWf s) {pick : WayPick} (hp : PickWf pick) (d ctx line : Nat) (m : BitVec 256) (w : Bool) :
    MemWf (sliceAccess pick s d ctx line m w) := by
  grind [Machine.sliceAccess, PickWf, MemWf.slicePut, MemWf.countHbm]

theorem MemWf.correctErrors {s : State} (h : MemWf s) (line : Nat) (m : BitVec 256) : MemWf (correctErrors s line m) := by
  unfold Machine.correctErrors; simp only; split
  · exact h.of_eq rfl rfl
  · exact h

theorem MemWf.countHome {s : State} (h : MemWf s) {pick : WayPick} (hp : PickWf pick) (ctx line : Nat) (m : BitVec 256) (n : Nat) (w ms : Bool) :
    MemWf (countHome pick s ctx line m n w ms) := by
  grind [Machine.countHome, MemWf.updMeter, MemWf.countHbm, MemWf.correctErrors, MemWf.sliceAccess]

/-! ### Copies of dies -/

theorem MemWf.dirSet {s : State} (h : MemWf s) (line : Nat) (r : Option DirRec) : MemWf (dirSet s line r) := h.updDie _ _
theorem MemWf.partPut {s : State} (h : MemWf s) (d : Nat) (x : CacheLine) : MemWf (partPut s d x) := h.updDie _ _
theorem MemWf.partDrop {s : State} (h : MemWf s) (d line : Nat) : MemWf (partDrop s d line) := h.updDie _ _

theorem MemWf.carryHome {s : State} (h : MemWf s) (x : CacheLine) : MemWf (carryHome s x) := by
  grind [Machine.carryHome, MemWf.countHome, MemWf.sliceWayLocal]

theorem MemWf.giveUp {s : State} (h : MemWf s) (d line : Nat) (drop : Bool) : MemWf (giveUp s d line drop) := by
  have key (x : CacheLine) := ((h.notRos line).carryHome x).writeCells line (maskedBytes x.dirty x.data)
  grind [Machine.giveUp, MemWf.notRos, MemWf.partDrop, MemWf.partPut, MemWf.dirSet]

theorem MemWf.recallOne {s : State} (h : MemWf s) (d line : Nat) (drop : Bool) : MemWf (recallOne s d line drop) := by
  grind [Machine.recallOne, MemWf.countRecall, MemWf.giveUp]

theorem MemWf.recallOthers {s : State} (h : MemWf s) (line keep : Nat) : MemWf (recallOthers s line keep) := by
  unfold Machine.recallOthers; split
  · exact h
  · exact MemWf.foldl (fun _ _ h => h.recallOne _ _ _) _ h

theorem MemWf.recallShared {s : State} (h : MemWf s) (line d : Nat) : MemWf (recallShared s line d) := by
  grind [Machine.recallShared, MemWf.recallOne]

theorem MemWf.writeHome {s : State} (h : MemWf s) (d : Nat) (x : CacheLine) : MemWf (writeHome s d x) := by
  grind [Machine.writeHome, MemWf.countPackets]

theorem MemWf.partEvict {s : State} (h : MemWf s) (d : Nat) (x : CacheLine) : MemWf (partEvict s d x) := by
  grind [Machine.partEvict, MemWf.writeHome, MemWf.giveUp, MemWf.carryHome, MemWf.homeMerge, MemWf.partDrop]

theorem MemWf.sliceWay : PickWf sliceWay := by
  intro s d line h
  grind [Machine.sliceWay, MemWf.choose, MemWf.sliceDrop, MemWf.partEvict]

theorem MemWf.countTraffic {s : State} (h : MemWf s) (ctx d pa n : Nat) (w ms : Bool) : MemWf (countTraffic s ctx d pa n w ms) :=
  (h.countPackets _ _ _ _ _).countHome MemWf.sliceWay _ _ _ _ _ _

theorem MemWf.partRoom {s : State} (h : MemWf s) (d line : Nat) : MemWf (partRoom s d line).2 := by
  grind [Machine.partRoom, MemWf.choose, MemWf.partEvict, MemWf.sliceDrop]

theorem MemWf.partFor {s : State} (h : MemWf s) (d line : Nat) (cls : PageClass) : MemWf (partFor s d line cls).2.2 := by
  grind [Machine.partFor, MemWf.partRoom, MemWf.partEvict]

theorem MemWf.dirAdd {s : State} (h : MemWf s) (r : DirRec) : MemWf (dirAdd s r) := by
  grind [Machine.dirAdd, MemWf.dirSet, MemWf.choose, MemWf.recallOthers]

theorem MemWf.cohShare {s : State} (h : MemWf s) (d line : Nat) : MemWf (cohShare s d line) := by
  grind [Machine.cohShare, MemWf.recallShared, MemWf.dirSet, MemWf.dirAdd]

theorem MemWf.homeLineGone {s : State} (h : MemWf s) (line : Nat) : MemWf (homeLineGone s line) := by
  grind [Machine.homeLineGone, MemWf.sliceDrop]

theorem MemWf.cohOwn {s : State} (h : MemWf s) (d line : Nat) : MemWf (cohOwn s d line) := ((h.recallOthers _ _).homeLineGone _).dirAdd _

theorem MemWf.countClaim {s : State} (h : MemWf s) (ctx d line : Nat) : MemWf (countClaim s ctx d line) := by
  grind [Machine.countClaim, MemWf.countPackets]

theorem MemWf.copyBad {s : State} (h : MemWf s) (a b : Nat) : MemWf (copyBad s a b) := h.of_eq rfl rfl

theorem MemWf.makeReplica {s : State} (h : MemWf s) (ctx pa d : Nat) : MemWf (makeReplica s ctx pa d) := by
  unfold Machine.makeReplica
  simp only
  split
  · exact h
  · apply MemWf.updDie
    have h' := (MemWf.foldl (g := fun s _ => Machine.countPackets s ctx d (paDie pa) 256 false) (fun _ _ h => h.countPackets _ _ _ _ _) (List.range 256)
      ((h.countHbm (paDie pa) ctx 65536 false).countHbm d ctx 65536 true)).copyBad (pa / 65536 * 65536)
    exact ⟨Memory.wf_foldl_putByte _ _ _ _ (Memory.wf_dropRange _ _ _ (h' _).1), (h' 0).2⟩

theorem MemWf.ite {s t : State} {p : Prop} [Decidable p] (hs : MemWf s) (ht : MemWf t) : MemWf (if p then s else t) := by
  split <;> assumption

theorem MemWf.homeRead {s : State} (h : MemWf s) (ctx d : Nat) (l : Loc) (n : Nat) : MemWf (homeRead s ctx d l n).2 := by
  grind [Machine.homeRead, MemWf.recallShared, MemWf.countTraffic]

theorem MemWf.partClean {s : State} (h : MemWf s) (d : Nat) (x : CacheLine) : MemWf (partClean s d x) :=
  (((h.partPut _ _).writeHome _ _).carryHome _).homeMerge _ _ _

theorem MemWf.partHome {s : State} (h : MemWf s) (d line : Nat) : MemWf (partHome s d line) := by
  grind [Machine.partHome, MemWf.recallOne, MemWf.partClean]

theorem MemWf.partRefresh {s : State} (h : MemWf s) (d : Nat) (l : Loc) (n : Nat) : MemWf (partRefresh s d l n) := by
  grind [Machine.partRefresh, MemWf.partPut]

theorem MemWf.dieRead {s : State} (h : MemWf s) (ctx d : Nat) (l : Loc) (n : Nat) : MemWf (dieRead s ctx d l n).2 := by
  grind [Machine.dieRead, MemWf.notRos, MemWf.partHome, MemWf.homeRead, MemWf.makeReplica, MemWf.countTraffic, MemWf.partFor, MemWf.cohShare, MemWf.recallShared, MemWf.partPut]

theorem MemWf.lineHome {s : State} (h : MemWf s) (ctx d : Nat) (cls : PageClass) (ms : Bool) (line : Nat) (m : BitVec 256) (data : Bytes) :
    MemWf (lineHome s ctx d cls ms line m data) := by
  grind [Machine.lineHome, MemWf.recallOthers, MemWf.homeMerge, MemWf.countPackets, MemWf.countHome, MemWf.sliceWay]

theorem MemWf.fireAll {s : State} (h : MemWf s) (l : List Nat) : MemWf (l.foldl (fun s pa => Machine.fireWatches s pa (wordNow s pa)) s) :=
  MemWf.foldl (fun _ _ h => h.fireWatches _ _) _ h

theorem MemWf.dieWrite {s : State} (h : MemWf s) (ctx d : Nat) (cls : PageClass) (ms : Bool) (line : Nat) (m : BitVec 256) (data : Bytes) :
    MemWf (dieWrite s ctx d cls ms line m data) := by
  cases cls <;> grind [Machine.dieWrite, MemWf.lineHome, MemWf.partFor, MemWf.notRos, MemWf.countClaim, MemWf.cohOwn, MemWf.partPut, MemWf.fireAll]

/-! ### The L1 -/

theorem MemWf.l1Put {s : State} (h : MemWf s) (c : Nat) (x : CacheLine) : MemWf (l1Put s c x) := h.updCore _ _
theorem MemWf.l1Drop {s : State} (h : MemWf s) (c line : Nat) : MemWf (l1Drop s c line) := h.updCore _ _

theorem MemWf.homeError {s : State} (h : MemWf s) (ctx : Nat) (l : Loc) (va : Addr) : MemWf (homeError s ctx l va) := h.logError _ _

theorem MemWf.writeBeyond {s : State} (h : MemWf s) (ctx d : Nat) (l : Loc) (m : BitVec 256) (data : Bytes) : MemWf (writeBeyond s ctx d l m data) := by
  grind [Machine.writeBeyond, MemWf.homeError, MemWf.dieWrite]

theorem MemWf.numberMsg {s : State} (h : MemWf s) (m : Msg) : MemWf (s.numberMsg m) := h.of_eq rfl rfl

theorem MemWf.awaitHome {s : State} (h : MemWf s) (k : Nat) (m : Msg) : MemWf (s.awaitHome k m) := by
  grind [Machine.State.awaitHome, MemWf.postOnce, MemWf.updDie]

theorem MemWf.writeBack {s : State} (h : MemWf s) (c : Nat) (x : CacheLine) : MemWf (writeBack s c x) := by
  unfold Machine.writeBack; simp only; split
  · exact (h.numberMsg _).awaitHome _ _
  · exact h.writeBeyond _ _ _ _ _

theorem MemWf.l1Clean {s : State} (h : MemWf s) (c line : Nat) : MemWf (l1Clean s c line) := by
  grind [Machine.l1Clean, MemWf.l1Put, MemWf.writeBack]

theorem MemWf.l1Flush {s : State} (h : MemWf s) (c line : Nat) : MemWf (l1Flush s c line) := (h.l1Clean _ _).l1Drop _ _

theorem MemWf.l1FlushAll {s : State} (h : MemWf s) (c : Nat) : MemWf (l1FlushAll s c) := MemWf.foldl (fun _ _ h => h.l1Flush _ _) _ h

theorem MemWf.l1Room {s : State} (h : MemWf s) (c line : Nat) : MemWf (l1Room s c line) := by
  grind [Machine.l1Room, MemWf.l1Flush, MemWf.choose]

theorem MemWf.l1Match {s : State} (h : MemWf s) (c : Nat) (l : Loc) : MemWf (l1Match s c l) := by
  grind [Machine.l1Match, MemWf.l1Flush]

theorem MemWf.bypassL1 {s : State} (h : MemWf s) (c : Nat) (l : Loc) : MemWf (bypassL1 s c l) := by
  grind [Machine.bypassL1, MemWf.l1Flush, MemWf.partHome]

theorem MemWf.partsClean {s : State} (h : MemWf s) (d : Nat) : MemWf (partsClean s d) := MemWf.foldl (fun _ _ h => h.partClean _ _) _ h

theorem MemWf.coreRead {s : State} (h : MemWf s) (ctx c : Nat) (l : Loc) (n : Nat) (cp : CachePol) : MemWf (coreRead s ctx c l n cp).2 := by
  grind [Machine.coreRead, MemWf.bypassL1, MemWf.homeRead, MemWf.partRefresh, MemWf.l1Match, MemWf.dieRead, MemWf.l1Put, MemWf.l1Room]

theorem MemWf.coreWrite {s : State} (h : MemWf s) (ctx c : Nat) (l : Loc) (bs : List Byte) (cp : CachePol) : MemWf (coreWrite s ctx c l bs cp) := by
  by_cases hh : l.host = true
  · unfold Machine.coreWrite; simp only [hh, if_true]; exact ⟨h.1, Memory.wf_writeBytes _ _ _ h.2⟩
  · grind [Machine.coreWrite, MemWf.bypassL1, MemWf.partRefresh, MemWf.lineHome, MemWf.l1Match, MemWf.post, MemWf.dieWrite, MemWf.l1Put, MemWf.l1Room]

/-! ### Accesses at the home -/

theorem MemWf.atHome {s : State} (h : MemWf s) (c : Nat) (l : Loc) : MemWf (atHome s c l) := MemWf.ite ((h.bypassL1 _ _).recallOthers _ _) (h.bypassL1 _ _)

theorem MemWf.homeWrite {s : State} (h : MemWf s) (ctx d : Nat) (l : Loc) (bs : List Byte) : MemWf (homeWrite s ctx d l bs) := by
  unfold Machine.homeWrite; split
  · exact ⟨h.1, Memory.wf_writeBytes _ _ _ h.2⟩
  · exact h.lineHome _ _ _ _ _ _ _

theorem MemWf.deviceWrite {s : State} (h : MemWf s) (ctx d : Nat) (l : Loc) (bs : List Byte) : MemWf (deviceWrite s ctx d l bs) := by
  grind [Machine.deviceWrite, MemWf.homeWrite, MemWf.dieWrite]

theorem MemWf.l1Release {s : State} (h : MemWf s) (c : Nat) (p : PageClass → Bool) : MemWf (l1Release s c p) := MemWf.foldl (fun _ _ h => h.l1Clean _ _) _ h
theorem MemWf.l1Acquire {s : State} (h : MemWf s) (c : Nat) (p : PageClass → Bool) : MemWf (l1Acquire s c p) := MemWf.foldl (fun _ _ h => h.l1Flush _ _) _ h

end Sys2Proof.Machine
end

