-- ==== Sys2Proof/Laws/Packets.lean ====
section
/-! SUPPORT. What requests do at their homes, and an engine's acceptance, keep the canonical form of memory. -/

namespace Sys2Proof.Machine

theorem MemWf.dropMsg {s : State} (h : MemWf s) (k : Nat) : MemWf (s.dropMsg k) := h.of_eq rfl rfl

/-- A posted store, performed or lost. -/
theorem MemWf.performStore {s : State} (h : MemWf s) (m : Msg) (bs : List Byte) : MemWf (performStore s m bs) :=
  MemWf.ite (h.logError _ _) ((h.homeWrite _ _ _ _).partRefresh _ _ _)

/-- An atomic lane at its home: the old value is read from memory in which every other copy has given way. -/
theorem MemWf.atomAct {s : State} (h : MemWf s) (fr : FragId) (ctx : Nat) (l : Loc) (code : AtomCode) (a b : Word) : MemWf (atomAct s fr ctx l code a b).2 := by
  grind [Machine.atomAct, MemWf.atHome, MemWf.countHome, MemWf.sliceWay, MemWf.homeWrite, MemWf.partRefresh]

theorem MemWf.claimLines {s : State} (h : MemWf s) (m : EngCmd) : MemWf (claimLines s m) :=
  MemWf.foldl (fun _ x h => MemWf.foldl (fun _ y h => MemWf.ite (h.partEvict x.1 y) (MemWf.ite (h.partHome _ _) h)) _ h) _
    (MemWf.foldl (fun _ x h => MemWf.foldl (fun _ y h => h.l1Flush x.1 y.line) _ h) _ h)

/-- An engine's write to a global page. -/
theorem MemWf.engGlobal {s : State} (h : MemWf s) (cl e : Nat) (m : EngCmd) (va : Nat) (l : Loc) (bs : List Byte) : MemWf (engGlobal s cl e m va l bs) :=
  ((MemWf.ite h (h.claimLines _)).homeWrite _ _ _ _).updCluster _ _

end Sys2Proof.Machine
end

