-- ==== Sys2Proof/Laws/PerInstr.lean ====
section
/-! SUPPORT. One statement per instruction: the opcode field of a legal instruction's word is the opcode that the map of R79 gives it. -/

open Sys2Proof

/-- Bits 31:25 of the word of an instruction (R79 to R85); an event has no word. -/
def Sys2Proof.Laws.Opcode.opcode : Instr → BitVec 7
  | .add _ => 0x00
  | .sub _ => 0x01
  | .mul _ => 0x02
  | .mac _ => 0x03
  | .and _ => 0x04
  | .or _ => 0x05
  | .xor _ => 0x06
  | .andn _ => 0x07
  | .shl _ => 0x08
  | .shr _ => 0x09
  | .sra _ => 0x0A
  | .min _ => 0x0B
  | .max _ => 0x0C
  | .minn _ => 0x0D
  | .maxn _ => 0x0E
  | .sel _ => 0x0F
  | .ceq _ => 0x10
  | .cne _ => 0x11
  | .clt _ => 0x12
  | .cle _ => 0x13
  | .cltn _ => 0x14
  | .clen _ => 0x15
  | .mulh _ | .mulhn _ | .adds _ | .subs _ | .rol _ | .bfx _ | .bfxn _ | .bfi _ | .divs _ | .divn _ | .orn _ | .xnor _ => 0x16
  | .mov _ | .not _ | .neg _ | .abs _ | .clz _ | .ctz _ | .popc _ | .brev _ | .bswap _ | .sextb _ | .sexth _ | .zextb _ | .zexth _ => 0x17
  | .addi _ => 0x18
  | .andi _ => 0x19
  | .ori _ => 0x1A
  | .xori _ => 0x1B
  | .shli _ | .shri _ | .srai _ | .roli _ => 0x1C
  | .movi _ => 0x1D
  | .cmpiEq _ | .cmpiNe _ | .cmpiLt _ | .cmpiLe _ | .cmpiLtn _ | .cmpiLen _ => 0x1E
  | .fadd _ => 0x1F
  | .fsub _ => 0x20
  | .fmul _ => 0x21
  | .ffma _ => 0x22
  | .fmin _ => 0x23
  | .fmax _ => 0x24
  | .fcmpEq _ | .fcmpNe _ | .fcmpLt _ | .fcmpLe _ | .fcmpGt _ | .fcmpGe _ | .fcmpUo _ | .fcmpOr _ => 0x25
  | .fabs _ | .fneg _ | .fcps _ | .frcp _ | .frsq _ | .fsqrt _ | .fexp2 _ | .flog2 _ | .frndn _ | .frndz _ | .frndp _ | .frndm _ | .fclass _ => 0x26
  | .fdiv _ => 0x27
  | .cvt _ | .cvtBs8 _ | .cvtBs4 _ => 0x28
  | .h2add _ | .h2sub _ | .h2mul _ | .h2fma _ | .h2min _ | .h2max _ => 0x29
  | .shflIdx _ | .shflUp _ | .shflDn _ | .shflXor _ => 0x2A
  | .bcast _ | .vext _ | .vins _ | .msk _ | .unmsk _ | .vmovx _ | .vmovxw _ => 0x2B
  | .prmt _ => 0x2C
  | .ddx _ | .ddy _ | .ddxc _ | .ddyc _ | .nbrget _ | .nbrset _ => 0x2D
  | .ld _ => 0x2E
  | .st _ => 0x2F
  | .lds _ => 0x30
  | .sts _ => 0x31
  | .ldf _ | .ldc _ | .stp _ | .stf _ | .sete _ | .tagq _ => 0x32
  | .atomAdd _ | .atomAnd _ | .atomOr _ | .atomXor _ | .atomMin _ | .atomMax _ | .atomMinn _ | .atomMaxn _ | .atomXchg _ | .atomCas _ | .atomFadd _ | .atomFmin _
    | .atomFmax _ | .atomInc _ => 0x33
  | .redAdd _ | .redAnd _ | .redOr _ | .redXor _ | .redMin _ | .redMax _ | .redMinn _ | .redMaxn _ | .redFadd _ | .redFmin _ | .redFmax _ | .redInc _ => 0x34
  | .ldt _ => 0x35
  | .stt _ => 0x36
  | .mma _ => 0x37
  | .mmaz _ => 0x38
  | .reorder _ => 0x39
  | .tex _ => 0x3A
  | .emitp _ | .texq _ | .rshade _ => 0x3B
  | .waitvEq _ | .waitvNe _ | .waitvGen _ | .waitvGtn _ => 0x3C
  | .pf _ => 0x3D
  | .addGroup _ => 0x40
  | .subGroup _ => 0x41
  | .mulGroup _ => 0x42
  | .macGroup _ => 0x43
  | .andGroup _ => 0x44
  | .orGroup _ => 0x45
  | .xorGroup _ => 0x46
  | .andnGroup _ => 0x47
  | .shlGroup _ => 0x48
  | .shrGroup _ => 0x49
  | .sraGroup _ => 0x4A
  | .minGroup _ => 0x4B
  | .maxGroup _ => 0x4C
  | .minnGroup _ => 0x4D
  | .maxnGroup _ => 0x4E
  | .selGroup _ => 0x4F
  | .ceqGroup _ => 0x50
  | .cneGroup _ => 0x51
  | .cltGroup _ => 0x52
  | .cleGroup _ => 0x53
  | .cltnGroup _ => 0x54
  | .clenGroup _ => 0x55
  | .mulhGroup _ | .mulhnGroup _ | .addsGroup _ | .subsGroup _ | .rolGroup _ | .bfxGroup _ | .bfxnGroup _ | .bfiGroup _ | .divsGroup _ | .divnGroup _ | .ornGroup _
    | .xnorGroup _ => 0x56
  | .movGroup _ | .notGroup _ | .negGroup _ | .absGroup _ | .clzGroup _ | .ctzGroup _ | .popcGroup _ | .brevGroup _ | .bswapGroup _ | .sextbGroup _ | .sexthGroup _
    | .zextbGroup _ | .zexthGroup _ => 0x57
  | .addiGroup _ => 0x58
  | .andiGroup _ => 0x59
  | .oriGroup _ => 0x5A
  | .xoriGroup _ => 0x5B
  | .shliGroup _ | .shriGroup _ | .sraiGroup _ | .roliGroup _ => 0x5C
  | .moviGroup _ => 0x5D
  | .cmpiEqGroup _ | .cmpiNeGroup _ | .cmpiLtGroup _ | .cmpiLeGroup _ | .cmpiLtnGroup _ | .cmpiLenGroup _ => 0x5E
  | .faddGroup _ => 0x5F
  | .fsubGroup _ => 0x60
  | .fmulGroup _ => 0x61
  | .ffmaGroup _ => 0x62
  | .fminGroup _ => 0x63
  | .fmaxGroup _ => 0x64
  | .fcmpEqGroup _ | .fcmpNeGroup _ | .fcmpLtGroup _ | .fcmpLeGroup _ | .fcmpGtGroup _ | .fcmpGeGroup _ | .fcmpUoGroup _ | .fcmpOrGroup _ => 0x65
  | .fabsGroup _ | .fnegGroup _ | .fcpsGroup _ | .frcpGroup _ | .frsqGroup _ | .fsqrtGroup _ | .fexp2Group _ | .flog2Group _ | .frndnGroup _ | .frndzGroup _ | .frndpGroup _
    | .frndmGroup _ | .fclassGroup _ => 0x66
  | .fdivGroup _ => 0x67
  | .cvtGroup _ => 0x68
  | .bra _ => 0x69
  | .brz _ => 0x6A
  | .brnz _ => 0x6B
  | .call _ => 0x6C
  | .jmpx _ => 0x6D
  | .split _ => 0x6E
  | .fuse => 0x6F
  | .setf _ | .getf _ | .setc _ | .getc _ | .setpri _ | .yield | .exit | .region | .cont _ | .resume _ | .srd _ | .swr _ | .trap _ | .eret | .bkpt | .nop | .tlbiPage _
    | .tlbiCtx | .time _ | .twait _ => 0x70
  | .sld _ => 0x71
  | .sst _ => 0x72
  | .satomAdd _ | .satomAnd _ | .satomOr _ | .satomXor _ | .satomMin _ | .satomMax _ | .satomMinn _ | .satomMaxn _ | .satomXchg _ | .satomCas _ | .satomFadd _ | .satomFmin _
    | .satomFmax _ | .satomInc _ => 0x73
  | .fenceAcq _ | .fenceRel _ | .fenceAr _ => 0x74
  | .clean _ | .inv _ | .clinv _ => 0x75
  | .copy _ | .gather _ | .scatter _ | .eqry _ | .rarith _ | .coll _ | .cstat _ | .wsend _ | .wsig _ => 0x76
  | .binit _ | .arrive _ | .arrivex _ | .bwait _ => 0x77
  | .seqtake _ | .enter _ | .leave _ | .leaveEnd _ | .abandon _ | .sectq _ => 0x78
  | .launch _ | .lqry _ => 0x79
  | .swaitvEq _ | .swaitvNe _ | .swaitvGen _ | .swaitvGtn _ => 0x7B
  | .hintWideImmediate _ | .hintModifiers _ | .hintScheduling _ => 0x7F
  | _ => 0

/-- The opcode field of the word of a legal instruction. -/
def Sys2Proof.Laws.Opcode.Statement (i : Instr) : Prop := i.isWord = true → i.wf = true → fOp (encode i) = Sys2Proof.Laws.Opcode.opcode i

theorem Sys2Proof.Laws.Opcode.add (o : RegHP) : Sys2Proof.Laws.Opcode.Statement (.add o) := fun _ _ => packReg_of_op ..
theorem Sys2Proof.Laws.Opcode.addGroup (o : Reg3) : Sys2Proof.Laws.Opcode.Statement (.addGroup o) := fun _ _ => packReg_of_op ..
theorem Sys2Proof.Laws.Opcode.sub (o : RegHP) : Sys2Proof.Laws.Opcode.Statement (.sub o) := fun _ _ => packReg_of_op ..
theorem Sys2Proof.Laws.Opcode.subGroup (o : Reg3) : Sys2Proof.Laws.Opcode.Statement (.subGroup o) := fun _ _ => packReg_of_op ..
theorem Sys2Proof.Laws.Opcode.mul (o : RegHP) : Sys2Proof.Laws.Opcode.Statement (.mul o) := fun _ _ => packReg_of_op ..
theorem Sys2Proof.Laws.Opcode.mulGroup (o : Reg3) : Sys2Proof.Laws.Opcode.Statement (.mulGroup o) := fun _ _ => packReg_of_op ..
theorem Sys2Proof.Laws.Opcode.mac (o : RegHP) : Sys2Proof.Laws.Opcode.Statement (.mac o) := fun _ _ => packReg_of_op ..
theorem Sys2Proof.Laws.Opcode.macGroup (o : Reg3) : Sys2Proof.Laws.Opcode.Statement (.macGroup o) := fun _ _ => packReg_of_op ..
theorem Sys2Proof.Laws.Opcode.and (o : RegHP) : Sys2Proof.Laws.Opcode.Statement (.and o) := fun _ _ => packReg_of_op ..
theorem Sys2Proof.Laws.Opcode.andGroup (o : Reg3) : Sys2Proof.Laws.Opcode.Statement (.andGroup o) := fun _ _ => packReg_of_op ..
theorem Sys2Proof.Laws.Opcode.or (o : RegHP) : Sys2Proof.Laws.Opcode.Statement (.or o) := fun _ _ => packReg_of_op ..
theorem Sys2Proof.Laws.Opcode.orGroup (o : Reg3) : Sys2Proof.Laws.Opcode.Statement (.orGroup o) := fun _ _ => packReg_of_op ..
theorem Sys2Proof.Laws.Opcode.xor (o : RegHP) : Sys2Proof.Laws.Opcode.Statement (.xor o) := fun _ _ => packReg_of_op ..
theorem Sys2Proof.Laws.Opcode.xorGroup (o : Reg3) : Sys2Proof.Laws.Opcode.Statement (.xorGroup o) := fun _ _ => packReg_of_op ..
theorem Sys2Proof.Laws.Opcode.andn (o : RegHP) : Sys2Proof.Laws.Opcode.Statement (.andn o) := fun _ _ => packReg_of_op ..
theorem Sys2Proof.Laws.Opcode.andnGroup (o : Reg3) : Sys2Proof.Laws.Opcode.Statement (.andnGroup o) := fun _ _ => packReg_of_op ..
theorem Sys2Proof.Laws.Opcode.shl (o : RegHP) : Sys2Proof.Laws.Opcode.Statement (.shl o) := fun _ _ => packReg_of_op ..
theorem Sys2Proof.Laws.Opcode.shlGroup (o : Reg3) : Sys2Proof.Laws.Opcode.Statement (.shlGroup o) := fun _ _ => packReg_of_op ..
theorem Sys2Proof.Laws.Opcode.shr (o : RegHP) : Sys2Proof.Laws.Opcode.Statement (.shr o) := fun _ _ => packReg_of_op ..
theorem Sys2Proof.Laws.Opcode.shrGroup (o : Reg3) : Sys2Proof.Laws.Opcode.Statement (.shrGroup o) := fun _ _ => packReg_of_op ..
theorem Sys2Proof.Laws.Opcode.sra (o : RegHP) : Sys2Proof.Laws.Opcode.Statement (.sra o) := fun _ _ => packReg_of_op ..
theorem Sys2Proof.Laws.Opcode.sraGroup (o : Reg3) : Sys2Proof.Laws.Opcode.Statement (.sraGroup o) := fun _ _ => packReg_of_op ..
theorem Sys2Proof.Laws.Opcode.min (o : RegHP) : Sys2Proof.Laws.Opcode.Statement (.min o) := fun _ _ => packReg_of_op ..
theorem Sys2Proof.Laws.Opcode.minGroup (o : Reg3) : Sys2Proof.Laws.Opcode.Statement (.minGroup o) := fun _ _ => packReg_of_op ..
theorem Sys2Proof.Laws.Opcode.max (o : RegHP) : Sys2Proof.Laws.Opcode.Statement (.max o) := fun _ _ => packReg_of_op ..
theorem Sys2Proof.Laws.Opcode.maxGroup (o : Reg3) : Sys2Proof.Laws.Opcode.Statement (.maxGroup o) := fun _ _ => packReg_of_op ..
theorem Sys2Proof.Laws.Opcode.minn (o : RegHP) : Sys2Proof.Laws.Opcode.Statement (.minn o) := fun _ _ => packReg_of_op ..
theorem Sys2Proof.Laws.Opcode.minnGroup (o : Reg3) : Sys2Proof.Laws.Opcode.Statement (.minnGroup o) := fun _ _ => packReg_of_op ..
theorem Sys2Proof.Laws.Opcode.maxn (o : RegHP) : Sys2Proof.Laws.Opcode.Statement (.maxn o) := fun _ _ => packReg_of_op ..
theorem Sys2Proof.Laws.Opcode.maxnGroup (o : Reg3) : Sys2Proof.Laws.Opcode.Statement (.maxnGroup o) := fun _ _ => packReg_of_op ..
theorem Sys2Proof.Laws.Opcode.sel (o : RegHP) : Sys2Proof.Laws.Opcode.Statement (.sel o) := fun _ _ => packReg_of_op ..
theorem Sys2Proof.Laws.Opcode.selGroup (o : Reg3) : Sys2Proof.Laws.Opcode.Statement (.selGroup o) := fun _ _ => packReg_of_op ..
theorem Sys2Proof.Laws.Opcode.ceq (o : RegHP) : Sys2Proof.Laws.Opcode.Statement (.ceq o) := fun _ _ => packReg_of_op ..
theorem Sys2Proof.Laws.Opcode.ceqGroup (o : Reg3) : Sys2Proof.Laws.Opcode.Statement (.ceqGroup o) := fun _ _ => packReg_of_op ..
theorem Sys2Proof.Laws.Opcode.cne (o : RegHP) : Sys2Proof.Laws.Opcode.Statement (.cne o) := fun _ _ => packReg_of_op ..
theorem Sys2Proof.Laws.Opcode.cneGroup (o : Reg3) : Sys2Proof.Laws.Opcode.Statement (.cneGroup o) := fun _ _ => packReg_of_op ..
theorem Sys2Proof.Laws.Opcode.clt (o : RegHP) : Sys2Proof.Laws.Opcode.Statement (.clt o) := fun _ _ => packReg_of_op ..
theorem Sys2Proof.Laws.Opcode.cltGroup (o : Reg3) : Sys2Proof.Laws.Opcode.Statement (.cltGroup o) := fun _ _ => packReg_of_op ..
theorem Sys2Proof.Laws.Opcode.cle (o : RegHP) : Sys2Proof.Laws.Opcode.Statement (.cle o) := fun _ _ => packReg_of_op ..
theorem Sys2Proof.Laws.Opcode.cleGroup (o : Reg3) : Sys2Proof.Laws.Opcode.Statement (.cleGroup o) := fun _ _ => packReg_of_op ..
theorem Sys2Proof.Laws.Opcode.cltn (o : RegHP) : Sys2Proof.Laws.Opcode.Statement (.cltn o) := fun _ _ => packReg_of_op ..
theorem Sys2Proof.Laws.Opcode.cltnGroup (o : Reg3) : Sys2Proof.Laws.Opcode.Statement (.cltnGroup o) := fun _ _ => packReg_of_op ..
theorem Sys2Proof.Laws.Opcode.clen (o : RegHP) : Sys2Proof.Laws.Opcode.Statement (.clen o) := fun _ _ => packReg_of_op ..
theorem Sys2Proof.Laws.Opcode.clenGroup (o : Reg3) : Sys2Proof.Laws.Opcode.Statement (.clenGroup o) := fun _ _ => packReg_of_op ..
theorem Sys2Proof.Laws.Opcode.mulh (o : Reg3) : Sys2Proof.Laws.Opcode.Statement (.mulh o) := fun _ _ => packReg_of_op ..
theorem Sys2Proof.Laws.Opcode.mulhGroup (o : Reg3) : Sys2Proof.Laws.Opcode.Statement (.mulhGroup o) := fun _ _ => packReg_of_op ..
theorem Sys2Proof.Laws.Opcode.mulhn (o : Reg3) : Sys2Proof.Laws.Opcode.Statement (.mulhn o) := fun _ _ => packReg_of_op ..
theorem Sys2Proof.Laws.Opcode.mulhnGroup (o : Reg3) : Sys2Proof.Laws.Opcode.Statement (.mulhnGroup o) := fun _ _ => packReg_of_op ..
theorem Sys2Proof.Laws.Opcode.adds (o : Reg3) : Sys2Proof.Laws.Opcode.Statement (.adds o) := fun _ _ => packReg_of_op ..
theorem Sys2Proof.Laws.Opcode.addsGroup (o : Reg3) : Sys2Proof.Laws.Opcode.Statement (.addsGroup o) := fun _ _ => packReg_of_op ..
theorem Sys2Proof.Laws.Opcode.subs (o : Reg3) : Sys2Proof.Laws.Opcode.Statement (.subs o) := fun _ _ => packReg_of_op ..
theorem Sys2Proof.Laws.Opcode.subsGroup (o : Reg3) : Sys2Proof.Laws.Opcode.Statement (.subsGroup o) := fun _ _ => packReg_of_op ..
theorem Sys2Proof.Laws.Opcode.rol (o : Reg3) : Sys2Proof.Laws.Opcode.Statement (.rol o) := fun _ _ => packReg_of_op ..
theorem Sys2Proof.Laws.Opcode.rolGroup (o : Reg3) : Sys2Proof.Laws.Opcode.Statement (.rolGroup o) := fun _ _ => packReg_of_op ..
theorem Sys2Proof.Laws.Opcode.bfx (o : Reg3) : Sys2Proof.Laws.Opcode.Statement (.bfx o) := fun _ _ => packReg_of_op ..
theorem Sys2Proof.Laws.Opcode.bfxGroup (o : Reg3) : Sys2Proof.Laws.Opcode.Statement (.bfxGroup o) := fun _ _ => packReg_of_op ..
theorem Sys2Proof.Laws.Opcode.bfxn (o : Reg3) : Sys2Proof.Laws.Opcode.Statement (.bfxn o) := fun _ _ => packReg_of_op ..
theorem Sys2Proof.Laws.Opcode.bfxnGroup (o : Reg3) : Sys2Proof.Laws.Opcode.Statement (.bfxnGroup o) := fun _ _ => packReg_of_op ..
theorem Sys2Proof.Laws.Opcode.bfi (o : Reg3) : Sys2Proof.Laws.Opcode.Statement (.bfi o) := fun _ _ => packReg_of_op ..
theorem Sys2Proof.Laws.Opcode.bfiGroup (o : Reg3) : Sys2Proof.Laws.Opcode.Statement (.bfiGroup o) := fun _ _ => packReg_of_op ..
theorem Sys2Proof.Laws.Opcode.divs (o : Reg3) : Sys2Proof.Laws.Opcode.Statement (.divs o) := fun _ _ => packReg_of_op ..
theorem Sys2Proof.Laws.Opcode.divsGroup (o : Reg3) : Sys2Proof.Laws.Opcode.Statement (.divsGroup o) := fun _ _ => packReg_of_op ..
theorem Sys2Proof.Laws.Opcode.divn (o : Reg3) : Sys2Proof.Laws.Opcode.Statement (.divn o) := fun _ _ => packReg_of_op ..
theorem Sys2Proof.Laws.Opcode.divnGroup (o : Reg3) : Sys2Proof.Laws.Opcode.Statement (.divnGroup o) := fun _ _ => packReg_of_op ..
theorem Sys2Proof.Laws.Opcode.orn (o : Reg3) : Sys2Proof.Laws.Opcode.Statement (.orn o) := fun _ _ => packReg_of_op ..
theorem Sys2Proof.Laws.Opcode.ornGroup (o : Reg3) : Sys2Proof.Laws.Opcode.Statement (.ornGroup o) := fun _ _ => packReg_of_op ..
theorem Sys2Proof.Laws.Opcode.xnor (o : Reg3) : Sys2Proof.Laws.Opcode.Statement (.xnor o) := fun _ _ => packReg_of_op ..
theorem Sys2Proof.Laws.Opcode.xnorGroup (o : Reg3) : Sys2Proof.Laws.Opcode.Statement (.xnorGroup o) := fun _ _ => packReg_of_op ..
theorem Sys2Proof.Laws.Opcode.mov (o : FunHP) : Sys2Proof.Laws.Opcode.Statement (.mov o) := fun _ _ => packReg_of_op ..
theorem Sys2Proof.Laws.Opcode.movGroup (o : Reg2) : Sys2Proof.Laws.Opcode.Statement (.movGroup o) := fun _ _ => packReg_of_op ..
theorem Sys2Proof.Laws.Opcode.not (o : FunHP) : Sys2Proof.Laws.Opcode.Statement (.not o) := fun _ _ => packReg_of_op ..
theorem Sys2Proof.Laws.Opcode.notGroup (o : Reg2) : Sys2Proof.Laws.Opcode.Statement (.notGroup o) := fun _ _ => packReg_of_op ..
theorem Sys2Proof.Laws.Opcode.neg (o : FunHP) : Sys2Proof.Laws.Opcode.Statement (.neg o) := fun _ _ => packReg_of_op ..
theorem Sys2Proof.Laws.Opcode.negGroup (o : Reg2) : Sys2Proof.Laws.Opcode.Statement (.negGroup o) := fun _ _ => packReg_of_op ..
theorem Sys2Proof.Laws.Opcode.abs (o : FunHP) : Sys2Proof.Laws.Opcode.Statement (.abs o) := fun _ _ => packReg_of_op ..
theorem Sys2Proof.Laws.Opcode.absGroup (o : Reg2) : Sys2Proof.Laws.Opcode.Statement (.absGroup o) := fun _ _ => packReg_of_op ..
theorem Sys2Proof.Laws.Opcode.clz (o : FunHP) : Sys2Proof.Laws.Opcode.Statement (.clz o) := fun _ _ => packReg_of_op ..
theorem Sys2Proof.Laws.Opcode.clzGroup (o : Reg2) : Sys2Proof.Laws.Opcode.Statement (.clzGroup o) := fun _ _ => packReg_of_op ..
theorem Sys2Proof.Laws.Opcode.ctz (o : FunHP) : Sys2Proof.Laws.Opcode.Statement (.ctz o) := fun _ _ => packReg_of_op ..
theorem Sys2Proof.Laws.Opcode.ctzGroup (o : Reg2) : Sys2Proof.Laws.Opcode.Statement (.ctzGroup o) := fun _ _ => packReg_of_op ..
theorem Sys2Proof.Laws.Opcode.popc (o : FunHP) : Sys2Proof.Laws.Opcode.Statement (.popc o) := fun _ _ => packReg_of_op ..
theorem Sys2Proof.Laws.Opcode.popcGroup (o : Reg2) : Sys2Proof.Laws.Opcode.Statement (.popcGroup o) := fun _ _ => packReg_of_op ..
theorem Sys2Proof.Laws.Opcode.brev (o : FunHP) : Sys2Proof.Laws.Opcode.Statement (.brev o) := fun _ _ => packReg_of_op ..
theorem Sys2Proof.Laws.Opcode.brevGroup (o : Reg2) : Sys2Proof.Laws.Opcode.Statement (.brevGroup o) := fun _ _ => packReg_of_op ..
theorem Sys2Proof.Laws.Opcode.bswap (o : FunHP) : Sys2Proof.Laws.Opcode.Statement (.bswap o) := fun _ _ => packReg_of_op ..
theorem Sys2Proof.Laws.Opcode.bswapGroup (o : Reg2) : Sys2Proof.Laws.Opcode.Statement (.bswapGroup o) := fun _ _ => packReg_of_op ..
theorem Sys2Proof.Laws.Opcode.sextb (o : FunHP) : Sys2Proof.Laws.Opcode.Statement (.sextb o) := fun _ _ => packReg_of_op ..
theorem Sys2Proof.Laws.Opcode.sextbGroup (o : Reg2) : Sys2Proof.Laws.Opcode.Statement (.sextbGroup o) := fun _ _ => packReg_of_op ..
theorem Sys2Proof.Laws.Opcode.sexth (o : FunHP) : Sys2Proof.Laws.Opcode.Statement (.sexth o) := fun _ _ => packReg_of_op ..
theorem Sys2Proof.Laws.Opcode.sexthGroup (o : Reg2) : Sys2Proof.Laws.Opcode.Statement (.sexthGroup o) := fun _ _ => packReg_of_op ..
theorem Sys2Proof.Laws.Opcode.zextb (o : FunHP) : Sys2Proof.Laws.Opcode.Statement (.zextb o) := fun _ _ => packReg_of_op ..
theorem Sys2Proof.Laws.Opcode.zextbGroup (o : Reg2) : Sys2Proof.Laws.Opcode.Statement (.zextbGroup o) := fun _ _ => packReg_of_op ..
theorem Sys2Proof.Laws.Opcode.zexth (o : FunHP) : Sys2Proof.Laws.Opcode.Statement (.zexth o) := fun _ _ => packReg_of_op ..
theorem Sys2Proof.Laws.Opcode.zexthGroup (o : Reg2) : Sys2Proof.Laws.Opcode.Statement (.zexthGroup o) := fun _ _ => packReg_of_op ..
theorem Sys2Proof.Laws.Opcode.addi (o : ImmPM) : Sys2Proof.Laws.Opcode.Statement (.addi o) := fun _ _ => packImm_of_op ..
theorem Sys2Proof.Laws.Opcode.addiGroup (o : ImmG) : Sys2Proof.Laws.Opcode.Statement (.addiGroup o) := fun _ _ => packImm_of_op ..
theorem Sys2Proof.Laws.Opcode.andi (o : ImmPM) : Sys2Proof.Laws.Opcode.Statement (.andi o) := fun _ _ => packImm_of_op ..
theorem Sys2Proof.Laws.Opcode.andiGroup (o : ImmG) : Sys2Proof.Laws.Opcode.Statement (.andiGroup o) := fun _ _ => packImm_of_op ..
theorem Sys2Proof.Laws.Opcode.ori (o : ImmPM) : Sys2Proof.Laws.Opcode.Statement (.ori o) := fun _ _ => packImm_of_op ..
theorem Sys2Proof.Laws.Opcode.oriGroup (o : ImmG) : Sys2Proof.Laws.Opcode.Statement (.oriGroup o) := fun _ _ => packImm_of_op ..
theorem Sys2Proof.Laws.Opcode.xori (o : ImmPM) : Sys2Proof.Laws.Opcode.Statement (.xori o) := fun _ _ => packImm_of_op ..
theorem Sys2Proof.Laws.Opcode.xoriGroup (o : ImmG) : Sys2Proof.Laws.Opcode.Statement (.xoriGroup o) := fun _ _ => packImm_of_op ..
theorem Sys2Proof.Laws.Opcode.shli (o : ShiftPM) : Sys2Proof.Laws.Opcode.Statement (.shli o) := fun _ _ => packImm_of_op ..
theorem Sys2Proof.Laws.Opcode.shliGroup (o : ShiftG) : Sys2Proof.Laws.Opcode.Statement (.shliGroup o) := fun _ _ => packImm_of_op ..
theorem Sys2Proof.Laws.Opcode.shri (o : ShiftPM) : Sys2Proof.Laws.Opcode.Statement (.shri o) := fun _ _ => packImm_of_op ..
theorem Sys2Proof.Laws.Opcode.shriGroup (o : ShiftG) : Sys2Proof.Laws.Opcode.Statement (.shriGroup o) := fun _ _ => packImm_of_op ..
theorem Sys2Proof.Laws.Opcode.srai (o : ShiftPM) : Sys2Proof.Laws.Opcode.Statement (.srai o) := fun _ _ => packImm_of_op ..
theorem Sys2Proof.Laws.Opcode.sraiGroup (o : ShiftG) : Sys2Proof.Laws.Opcode.Statement (.sraiGroup o) := fun _ _ => packImm_of_op ..
theorem Sys2Proof.Laws.Opcode.roli (o : ShiftPM) : Sys2Proof.Laws.Opcode.Statement (.roli o) := fun _ _ => packImm_of_op ..
theorem Sys2Proof.Laws.Opcode.roliGroup (o : ShiftG) : Sys2Proof.Laws.Opcode.Statement (.roliGroup o) := fun _ _ => packImm_of_op ..
theorem Sys2Proof.Laws.Opcode.movi (o : MoviPM) : Sys2Proof.Laws.Opcode.Statement (.movi o) := fun _ _ => packImm16_of_op ..
theorem Sys2Proof.Laws.Opcode.moviGroup (o : MoviG) : Sys2Proof.Laws.Opcode.Statement (.moviGroup o) := fun _ _ => packImm16_of_op ..
theorem Sys2Proof.Laws.Opcode.cmpiEq (o : CmpPM) : Sys2Proof.Laws.Opcode.Statement (.cmpiEq o) := fun _ _ => packImm_of_op ..
theorem Sys2Proof.Laws.Opcode.cmpiEqGroup (o : CmpG) : Sys2Proof.Laws.Opcode.Statement (.cmpiEqGroup o) := fun _ _ => packImm_of_op ..
theorem Sys2Proof.Laws.Opcode.cmpiNe (o : CmpPM) : Sys2Proof.Laws.Opcode.Statement (.cmpiNe o) := fun _ _ => packImm_of_op ..
theorem Sys2Proof.Laws.Opcode.cmpiNeGroup (o : CmpG) : Sys2Proof.Laws.Opcode.Statement (.cmpiNeGroup o) := fun _ _ => packImm_of_op ..
theorem Sys2Proof.Laws.Opcode.cmpiLt (o : CmpPM) : Sys2Proof.Laws.Opcode.Statement (.cmpiLt o) := fun _ _ => packImm_of_op ..
theorem Sys2Proof.Laws.Opcode.cmpiLtGroup (o : CmpG) : Sys2Proof.Laws.Opcode.Statement (.cmpiLtGroup o) := fun _ _ => packImm_of_op ..
theorem Sys2Proof.Laws.Opcode.cmpiLe (o : CmpPM) : Sys2Proof.Laws.Opcode.Statement (.cmpiLe o) := fun _ _ => packImm_of_op ..
theorem Sys2Proof.Laws.Opcode.cmpiLeGroup (o : CmpG) : Sys2Proof.Laws.Opcode.Statement (.cmpiLeGroup o) := fun _ _ => packImm_of_op ..
theorem Sys2Proof.Laws.Opcode.cmpiLtn (o : CmpPM) : Sys2Proof.Laws.Opcode.Statement (.cmpiLtn o) := fun _ _ => packImm_of_op ..
theorem Sys2Proof.Laws.Opcode.cmpiLtnGroup (o : CmpG) : Sys2Proof.Laws.Opcode.Statement (.cmpiLtnGroup o) := fun _ _ => packImm_of_op ..
theorem Sys2Proof.Laws.Opcode.cmpiLen (o : CmpPM) : Sys2Proof.Laws.Opcode.Statement (.cmpiLen o) := fun _ _ => packImm_of_op ..
theorem Sys2Proof.Laws.Opcode.cmpiLenGroup (o : CmpG) : Sys2Proof.Laws.Opcode.Statement (.cmpiLenGroup o) := fun _ _ => packImm_of_op ..
theorem Sys2Proof.Laws.Opcode.fadd (o : RegHP) : Sys2Proof.Laws.Opcode.Statement (.fadd o) := fun _ _ => packReg_of_op ..
theorem Sys2Proof.Laws.Opcode.faddGroup (o : Reg3) : Sys2Proof.Laws.Opcode.Statement (.faddGroup o) := fun _ _ => packReg_of_op ..
theorem Sys2Proof.Laws.Opcode.fsub (o : RegHP) : Sys2Proof.Laws.Opcode.Statement (.fsub o) := fun _ _ => packReg_of_op ..
theorem Sys2Proof.Laws.Opcode.fsubGroup (o : Reg3) : Sys2Proof.Laws.Opcode.Statement (.fsubGroup o) := fun _ _ => packReg_of_op ..
theorem Sys2Proof.Laws.Opcode.fmul (o : RegHP) : Sys2Proof.Laws.Opcode.Statement (.fmul o) := fun _ _ => packReg_of_op ..
theorem Sys2Proof.Laws.Opcode.fmulGroup (o : Reg3) : Sys2Proof.Laws.Opcode.Statement (.fmulGroup o) := fun _ _ => packReg_of_op ..
theorem Sys2Proof.Laws.Opcode.ffma (o : RegHP) : Sys2Proof.Laws.Opcode.Statement (.ffma o) := fun _ _ => packReg_of_op ..
theorem Sys2Proof.Laws.Opcode.ffmaGroup (o : Reg3) : Sys2Proof.Laws.Opcode.Statement (.ffmaGroup o) := fun _ _ => packReg_of_op ..
theorem Sys2Proof.Laws.Opcode.fmin (o : RegHP) : Sys2Proof.Laws.Opcode.Statement (.fmin o) := fun _ _ => packReg_of_op ..
theorem Sys2Proof.Laws.Opcode.fminGroup (o : Reg3) : Sys2Proof.Laws.Opcode.Statement (.fminGroup o) := fun _ _ => packReg_of_op ..
theorem Sys2Proof.Laws.Opcode.fmax (o : RegHP) : Sys2Proof.Laws.Opcode.Statement (.fmax o) := fun _ _ => packReg_of_op ..
theorem Sys2Proof.Laws.Opcode.fmaxGroup (o : Reg3) : Sys2Proof.Laws.Opcode.Statement (.fmaxGroup o) := fun _ _ => packReg_of_op ..
theorem Sys2Proof.Laws.Opcode.fdiv (o : RegHP) : Sys2Proof.Laws.Opcode.Statement (.fdiv o) := fun _ _ => packReg_of_op ..
theorem Sys2Proof.Laws.Opcode.fdivGroup (o : Reg3) : Sys2Proof.Laws.Opcode.Statement (.fdivGroup o) := fun _ _ => packReg_of_op ..
theorem Sys2Proof.Laws.Opcode.fcmpEq (o : Reg3) : Sys2Proof.Laws.Opcode.Statement (.fcmpEq o) := fun _ _ => packReg_of_op ..
theorem Sys2Proof.Laws.Opcode.fcmpEqGroup (o : Reg3) : Sys2Proof.Laws.Opcode.Statement (.fcmpEqGroup o) := fun _ _ => packReg_of_op ..
theorem Sys2Proof.Laws.Opcode.fcmpNe (o : Reg3) : Sys2Proof.Laws.Opcode.Statement (.fcmpNe o) := fun _ _ => packReg_of_op ..
theorem Sys2Proof.Laws.Opcode.fcmpNeGroup (o : Reg3) : Sys2Proof.Laws.Opcode.Statement (.fcmpNeGroup o) := fun _ _ => packReg_of_op ..
theorem Sys2Proof.Laws.Opcode.fcmpLt (o : Reg3) : Sys2Proof.Laws.Opcode.Statement (.fcmpLt o) := fun _ _ => packReg_of_op ..
theorem Sys2Proof.Laws.Opcode.fcmpLtGroup (o : Reg3) : Sys2Proof.Laws.Opcode.Statement (.fcmpLtGroup o) := fun _ _ => packReg_of_op ..
theorem Sys2Proof.Laws.Opcode.fcmpLe (o : Reg3) : Sys2Proof.Laws.Opcode.Statement (.fcmpLe o) := fun _ _ => packReg_of_op ..
theorem Sys2Proof.Laws.Opcode.fcmpLeGroup (o : Reg3) : Sys2Proof.Laws.Opcode.Statement (.fcmpLeGroup o) := fun _ _ => packReg_of_op ..
theorem Sys2Proof.Laws.Opcode.fcmpGt (o : Reg3) : Sys2Proof.Laws.Opcode.Statement (.fcmpGt o) := fun _ _ => packReg_of_op ..
theorem Sys2Proof.Laws.Opcode.fcmpGtGroup (o : Reg3) : Sys2Proof.Laws.Opcode.Statement (.fcmpGtGroup o) := fun _ _ => packReg_of_op ..
theorem Sys2Proof.Laws.Opcode.fcmpGe (o : Reg3) : Sys2Proof.Laws.Opcode.Statement (.fcmpGe o) := fun _ _ => packReg_of_op ..
theorem Sys2Proof.Laws.Opcode.fcmpGeGroup (o : Reg3) : Sys2Proof.Laws.Opcode.Statement (.fcmpGeGroup o) := fun _ _ => packReg_of_op ..
theorem Sys2Proof.Laws.Opcode.fcmpUo (o : Reg3) : Sys2Proof.Laws.Opcode.Statement (.fcmpUo o) := fun _ _ => packReg_of_op ..
theorem Sys2Proof.Laws.Opcode.fcmpUoGroup (o : Reg3) : Sys2Proof.Laws.Opcode.Statement (.fcmpUoGroup o) := fun _ _ => packReg_of_op ..
theorem Sys2Proof.Laws.Opcode.fcmpOr (o : Reg3) : Sys2Proof.Laws.Opcode.Statement (.fcmpOr o) := fun _ _ => packReg_of_op ..
theorem Sys2Proof.Laws.Opcode.fcmpOrGroup (o : Reg3) : Sys2Proof.Laws.Opcode.Statement (.fcmpOrGroup o) := fun _ _ => packReg_of_op ..
theorem Sys2Proof.Laws.Opcode.fabs (o : FunHP) : Sys2Proof.Laws.Opcode.Statement (.fabs o) := fun _ _ => packReg_of_op ..
theorem Sys2Proof.Laws.Opcode.fabsGroup (o : Reg2) : Sys2Proof.Laws.Opcode.Statement (.fabsGroup o) := fun _ _ => packReg_of_op ..
theorem Sys2Proof.Laws.Opcode.fneg (o : FunHP) : Sys2Proof.Laws.Opcode.Statement (.fneg o) := fun _ _ => packReg_of_op ..
theorem Sys2Proof.Laws.Opcode.fnegGroup (o : Reg2) : Sys2Proof.Laws.Opcode.Statement (.fnegGroup o) := fun _ _ => packReg_of_op ..
theorem Sys2Proof.Laws.Opcode.fcps (o : FunHP) : Sys2Proof.Laws.Opcode.Statement (.fcps o) := fun _ _ => packReg_of_op ..
theorem Sys2Proof.Laws.Opcode.fcpsGroup (o : Reg2) : Sys2Proof.Laws.Opcode.Statement (.fcpsGroup o) := fun _ _ => packReg_of_op ..
theorem Sys2Proof.Laws.Opcode.frcp (o : FunHP) : Sys2Proof.Laws.Opcode.Statement (.frcp o) := fun _ _ => packReg_of_op ..
theorem Sys2Proof.Laws.Opcode.frcpGroup (o : Reg2) : Sys2Proof.Laws.Opcode.Statement (.frcpGroup o) := fun _ _ => packReg_of_op ..
theorem Sys2Proof.Laws.Opcode.frsq (o : FunHP) : Sys2Proof.Laws.Opcode.Statement (.frsq o) := fun _ _ => packReg_of_op ..
theorem Sys2Proof.Laws.Opcode.frsqGroup (o : Reg2) : Sys2Proof.Laws.Opcode.Statement (.frsqGroup o) := fun _ _ => packReg_of_op ..
theorem Sys2Proof.Laws.Opcode.fsqrt (o : FunHP) : Sys2Proof.Laws.Opcode.Statement (.fsqrt o) := fun _ _ => packReg_of_op ..
theorem Sys2Proof.Laws.Opcode.fsqrtGroup (o : Reg2) : Sys2Proof.Laws.Opcode.Statement (.fsqrtGroup o) := fun _ _ => packReg_of_op ..
theorem Sys2Proof.Laws.Opcode.fexp2 (o : FunHP) : Sys2Proof.Laws.Opcode.Statement (.fexp2 o) := fun _ _ => packReg_of_op ..
theorem Sys2Proof.Laws.Opcode.fexp2Group (o : Reg2) : Sys2Proof.Laws.Opcode.Statement (.fexp2Group o) := fun _ _ => packReg_of_op ..
theorem Sys2Proof.Laws.Opcode.flog2 (o : FunHP) : Sys2Proof.Laws.Opcode.Statement (.flog2 o) := fun _ _ => packReg_of_op ..
theorem Sys2Proof.Laws.Opcode.flog2Group (o : Reg2) : Sys2Proof.Laws.Opcode.Statement (.flog2Group o) := fun _ _ => packReg_of_op ..
theorem Sys2Proof.Laws.Opcode.frndn (o : FunHP) : Sys2Proof.Laws.Opcode.Statement (.frndn o) := fun _ _ => packReg_of_op ..
theorem Sys2Proof.Laws.Opcode.frndnGroup (o : Reg2) : Sys2Proof.Laws.Opcode.Statement (.frndnGroup o) := fun _ _ => packReg_of_op ..
theorem Sys2Proof.Laws.Opcode.frndz (o : FunHP) : Sys2Proof.Laws.Opcode.Statement (.frndz o) := fun _ _ => packReg_of_op ..
theorem Sys2Proof.Laws.Opcode.frndzGroup (o : Reg2) : Sys2Proof.Laws.Opcode.Statement (.frndzGroup o) := fun _ _ => packReg_of_op ..
theorem Sys2Proof.Laws.Opcode.frndp (o : FunHP) : Sys2Proof.Laws.Opcode.Statement (.frndp o) := fun _ _ => packReg_of_op ..
theorem Sys2Proof.Laws.Opcode.frndpGroup (o : Reg2) : Sys2Proof.Laws.Opcode.Statement (.frndpGroup o) := fun _ _ => packReg_of_op ..
theorem Sys2Proof.Laws.Opcode.frndm (o : FunHP) : Sys2Proof.Laws.Opcode.Statement (.frndm o) := fun _ _ => packReg_of_op ..
theorem Sys2Proof.Laws.Opcode.frndmGroup (o : Reg2) : Sys2Proof.Laws.Opcode.Statement (.frndmGroup o) := fun _ _ => packReg_of_op ..
theorem Sys2Proof.Laws.Opcode.fclass (o : FunHP) : Sys2Proof.Laws.Opcode.Statement (.fclass o) := fun _ _ => packReg_of_op ..
theorem Sys2Proof.Laws.Opcode.fclassGroup (o : Reg2) : Sys2Proof.Laws.Opcode.Statement (.fclassGroup o) := fun _ _ => packReg_of_op ..
theorem Sys2Proof.Laws.Opcode.cvt (o : CvtPM) : Sys2Proof.Laws.Opcode.Statement (.cvt o) := fun _ _ => packReg_of_op ..
theorem Sys2Proof.Laws.Opcode.cvtBs8 (o : CvtBlkPM) : Sys2Proof.Laws.Opcode.Statement (.cvtBs8 o) := fun _ _ => packReg_of_op ..
theorem Sys2Proof.Laws.Opcode.cvtBs4 (o : CvtBlkPM) : Sys2Proof.Laws.Opcode.Statement (.cvtBs4 o) := fun _ _ => packReg_of_op ..
theorem Sys2Proof.Laws.Opcode.cvtGroup (o : CvtG) : Sys2Proof.Laws.Opcode.Statement (.cvtGroup o) := fun _ _ => packReg_of_op ..
theorem Sys2Proof.Laws.Opcode.h2add (o : Reg3) : Sys2Proof.Laws.Opcode.Statement (.h2add o) := fun _ _ => packReg_of_op ..
theorem Sys2Proof.Laws.Opcode.h2sub (o : Reg3) : Sys2Proof.Laws.Opcode.Statement (.h2sub o) := fun _ _ => packReg_of_op ..
theorem Sys2Proof.Laws.Opcode.h2mul (o : Reg3) : Sys2Proof.Laws.Opcode.Statement (.h2mul o) := fun _ _ => packReg_of_op ..
theorem Sys2Proof.Laws.Opcode.h2fma (o : Reg3) : Sys2Proof.Laws.Opcode.Statement (.h2fma o) := fun _ _ => packReg_of_op ..
theorem Sys2Proof.Laws.Opcode.h2min (o : Reg3) : Sys2Proof.Laws.Opcode.Statement (.h2min o) := fun _ _ => packReg_of_op ..
theorem Sys2Proof.Laws.Opcode.h2max (o : Reg3) : Sys2Proof.Laws.Opcode.Statement (.h2max o) := fun _ _ => packReg_of_op ..
theorem Sys2Proof.Laws.Opcode.shflIdx (o : Reg3) : Sys2Proof.Laws.Opcode.Statement (.shflIdx o) := fun _ _ => packReg_of_op ..
theorem Sys2Proof.Laws.Opcode.shflUp (o : ShflKeep) : Sys2Proof.Laws.Opcode.Statement (.shflUp o) := fun _ _ => packReg_of_op ..
theorem Sys2Proof.Laws.Opcode.shflDn (o : ShflKeep) : Sys2Proof.Laws.Opcode.Statement (.shflDn o) := fun _ _ => packReg_of_op ..
theorem Sys2Proof.Laws.Opcode.shflXor (o : ShflXor) : Sys2Proof.Laws.Opcode.Statement (.shflXor o) := fun _ _ => packReg_of_op ..
theorem Sys2Proof.Laws.Opcode.bcast (o : Reg3) : Sys2Proof.Laws.Opcode.Statement (.bcast o) := fun _ _ => packReg_of_op ..
theorem Sys2Proof.Laws.Opcode.vext (o : Reg3) : Sys2Proof.Laws.Opcode.Statement (.vext o) := fun _ _ => packReg_of_op ..
theorem Sys2Proof.Laws.Opcode.vins (o : Reg3) : Sys2Proof.Laws.Opcode.Statement (.vins o) := fun _ _ => packReg_of_op ..
theorem Sys2Proof.Laws.Opcode.msk (o : Reg2) : Sys2Proof.Laws.Opcode.Statement (.msk o) := fun _ _ => packReg_of_op ..
theorem Sys2Proof.Laws.Opcode.unmsk (o : Reg2) : Sys2Proof.Laws.Opcode.Statement (.unmsk o) := fun _ _ => packReg_of_op ..
theorem Sys2Proof.Laws.Opcode.vmovx (o : Reg3) : Sys2Proof.Laws.Opcode.Statement (.vmovx o) := fun _ _ => packReg_of_op ..
theorem Sys2Proof.Laws.Opcode.vmovxw (o : Reg3) : Sys2Proof.Laws.Opcode.Statement (.vmovxw o) := fun _ _ => packReg_of_op ..
theorem Sys2Proof.Laws.Opcode.prmt (o : RegHP) : Sys2Proof.Laws.Opcode.Statement (.prmt o) := fun _ _ => packReg_of_op ..
theorem Sys2Proof.Laws.Opcode.ddx (o : FunHP) : Sys2Proof.Laws.Opcode.Statement (.ddx o) := fun _ _ => packReg_of_op ..
theorem Sys2Proof.Laws.Opcode.ddy (o : FunHP) : Sys2Proof.Laws.Opcode.Statement (.ddy o) := fun _ _ => packReg_of_op ..
theorem Sys2Proof.Laws.Opcode.ddxc (o : FunHP) : Sys2Proof.Laws.Opcode.Statement (.ddxc o) := fun _ _ => packReg_of_op ..
theorem Sys2Proof.Laws.Opcode.ddyc (o : FunHP) : Sys2Proof.Laws.Opcode.Statement (.ddyc o) := fun _ _ => packReg_of_op ..
theorem Sys2Proof.Laws.Opcode.nbrget (o : NbrGetOp) : Sys2Proof.Laws.Opcode.Statement (.nbrget o) := fun _ _ => packReg_of_op ..
theorem Sys2Proof.Laws.Opcode.nbrset (o : NbrSetOp) : Sys2Proof.Laws.Opcode.Statement (.nbrset o) := fun _ _ => packReg_of_op ..
theorem Sys2Proof.Laws.Opcode.ld (o : MemOp) : Sys2Proof.Laws.Opcode.Statement (.ld o) := fun _ _ => packMem_of_op ..
theorem Sys2Proof.Laws.Opcode.st (o : MemOp) : Sys2Proof.Laws.Opcode.Statement (.st o) := fun _ _ => packMem_of_op ..
theorem Sys2Proof.Laws.Opcode.lds (o : MemOp) : Sys2Proof.Laws.Opcode.Statement (.lds o) := fun _ _ => packMem_of_op ..
theorem Sys2Proof.Laws.Opcode.sts (o : MemOp) : Sys2Proof.Laws.Opcode.Statement (.sts o) := fun _ _ => packMem_of_op ..
theorem Sys2Proof.Laws.Opcode.ldf (o : TagOp) : Sys2Proof.Laws.Opcode.Statement (.ldf o) := fun _ _ => packReg_of_op ..
theorem Sys2Proof.Laws.Opcode.ldc (o : TagOp) : Sys2Proof.Laws.Opcode.Statement (.ldc o) := fun _ _ => packReg_of_op ..
theorem Sys2Proof.Laws.Opcode.stp (o : TagOp) : Sys2Proof.Laws.Opcode.Statement (.stp o) := fun _ _ => packReg_of_op ..
theorem Sys2Proof.Laws.Opcode.stf (o : TagOp) : Sys2Proof.Laws.Opcode.Statement (.stf o) := fun _ _ => packReg_of_op ..
theorem Sys2Proof.Laws.Opcode.sete (o : TagAddrOp) : Sys2Proof.Laws.Opcode.Statement (.sete o) := fun _ _ => packReg_of_op ..
theorem Sys2Proof.Laws.Opcode.tagq (o : TagOp) : Sys2Proof.Laws.Opcode.Statement (.tagq o) := fun _ _ => packReg_of_op ..
theorem Sys2Proof.Laws.Opcode.atomAdd (o : Reg3) : Sys2Proof.Laws.Opcode.Statement (.atomAdd o) := fun _ _ => packReg_of_op ..
theorem Sys2Proof.Laws.Opcode.atomAnd (o : Reg3) : Sys2Proof.Laws.Opcode.Statement (.atomAnd o) := fun _ _ => packReg_of_op ..
theorem Sys2Proof.Laws.Opcode.atomOr (o : Reg3) : Sys2Proof.Laws.Opcode.Statement (.atomOr o) := fun _ _ => packReg_of_op ..
theorem Sys2Proof.Laws.Opcode.atomXor (o : Reg3) : Sys2Proof.Laws.Opcode.Statement (.atomXor o) := fun _ _ => packReg_of_op ..
theorem Sys2Proof.Laws.Opcode.atomMin (o : Reg3) : Sys2Proof.Laws.Opcode.Statement (.atomMin o) := fun _ _ => packReg_of_op ..
theorem Sys2Proof.Laws.Opcode.atomMax (o : Reg3) : Sys2Proof.Laws.Opcode.Statement (.atomMax o) := fun _ _ => packReg_of_op ..
theorem Sys2Proof.Laws.Opcode.atomMinn (o : Reg3) : Sys2Proof.Laws.Opcode.Statement (.atomMinn o) := fun _ _ => packReg_of_op ..
theorem Sys2Proof.Laws.Opcode.atomMaxn (o : Reg3) : Sys2Proof.Laws.Opcode.Statement (.atomMaxn o) := fun _ _ => packReg_of_op ..
theorem Sys2Proof.Laws.Opcode.atomXchg (o : Reg3) : Sys2Proof.Laws.Opcode.Statement (.atomXchg o) := fun _ _ => packReg_of_op ..
theorem Sys2Proof.Laws.Opcode.atomCas (o : Reg3) : Sys2Proof.Laws.Opcode.Statement (.atomCas o) := fun _ _ => packReg_of_op ..
theorem Sys2Proof.Laws.Opcode.atomFadd (o : Reg3) : Sys2Proof.Laws.Opcode.Statement (.atomFadd o) := fun _ _ => packReg_of_op ..
theorem Sys2Proof.Laws.Opcode.atomFmin (o : Reg3) : Sys2Proof.Laws.Opcode.Statement (.atomFmin o) := fun _ _ => packReg_of_op ..
theorem Sys2Proof.Laws.Opcode.atomFmax (o : Reg3) : Sys2Proof.Laws.Opcode.Statement (.atomFmax o) := fun _ _ => packReg_of_op ..
theorem Sys2Proof.Laws.Opcode.atomInc (o : Reg3) : Sys2Proof.Laws.Opcode.Statement (.atomInc o) := fun _ _ => packReg_of_op ..
theorem Sys2Proof.Laws.Opcode.redAdd (o : RedOp) : Sys2Proof.Laws.Opcode.Statement (.redAdd o) := fun _ _ => packReg_of_op ..
theorem Sys2Proof.Laws.Opcode.redAnd (o : RedOp) : Sys2Proof.Laws.Opcode.Statement (.redAnd o) := fun _ _ => packReg_of_op ..
theorem Sys2Proof.Laws.Opcode.redOr (o : RedOp) : Sys2Proof.Laws.Opcode.Statement (.redOr o) := fun _ _ => packReg_of_op ..
theorem Sys2Proof.Laws.Opcode.redXor (o : RedOp) : Sys2Proof.Laws.Opcode.Statement (.redXor o) := fun _ _ => packReg_of_op ..
theorem Sys2Proof.Laws.Opcode.redMin (o : RedOp) : Sys2Proof.Laws.Opcode.Statement (.redMin o) := fun _ _ => packReg_of_op ..
theorem Sys2Proof.Laws.Opcode.redMax (o : RedOp) : Sys2Proof.Laws.Opcode.Statement (.redMax o) := fun _ _ => packReg_of_op ..
theorem Sys2Proof.Laws.Opcode.redMinn (o : RedOp) : Sys2Proof.Laws.Opcode.Statement (.redMinn o) := fun _ _ => packReg_of_op ..
theorem Sys2Proof.Laws.Opcode.redMaxn (o : RedOp) : Sys2Proof.Laws.Opcode.Statement (.redMaxn o) := fun _ _ => packReg_of_op ..
theorem Sys2Proof.Laws.Opcode.redFadd (o : RedOp) : Sys2Proof.Laws.Opcode.Statement (.redFadd o) := fun _ _ => packReg_of_op ..
theorem Sys2Proof.Laws.Opcode.redFmin (o : RedOp) : Sys2Proof.Laws.Opcode.Statement (.redFmin o) := fun _ _ => packReg_of_op ..
theorem Sys2Proof.Laws.Opcode.redFmax (o : RedOp) : Sys2Proof.Laws.Opcode.Statement (.redFmax o) := fun _ _ => packReg_of_op ..
theorem Sys2Proof.Laws.Opcode.redInc (o : RedOp) : Sys2Proof.Laws.Opcode.Statement (.redInc o) := fun _ _ => packReg_of_op ..
theorem Sys2Proof.Laws.Opcode.ldt (o : MemOp) : Sys2Proof.Laws.Opcode.Statement (.ldt o) := fun _ _ => packMem_of_op ..
theorem Sys2Proof.Laws.Opcode.stt (o : MemOp) : Sys2Proof.Laws.Opcode.Statement (.stt o) := fun _ _ => packMem_of_op ..
theorem Sys2Proof.Laws.Opcode.mma (o : Reg3LA) : Sys2Proof.Laws.Opcode.Statement (.mma o) := fun _ _ => packReg_of_op ..
theorem Sys2Proof.Laws.Opcode.mmaz (o : Reg3LA) : Sys2Proof.Laws.Opcode.Statement (.mmaz o) := fun _ _ => packReg_of_op ..
theorem Sys2Proof.Laws.Opcode.reorder (o : ReorderOp) : Sys2Proof.Laws.Opcode.Statement (.reorder o) := fun _ _ => packReg_of_op ..
theorem Sys2Proof.Laws.Opcode.tex (o : Reg3LA) : Sys2Proof.Laws.Opcode.Statement (.tex o) := fun _ _ => packReg_of_op ..
theorem Sys2Proof.Laws.Opcode.emitp (o : Reg2LA) : Sys2Proof.Laws.Opcode.Statement (.emitp o) := fun _ _ => packReg_of_op ..
theorem Sys2Proof.Laws.Opcode.texq (o : Reg2LA) : Sys2Proof.Laws.Opcode.Statement (.texq o) := fun _ _ => packReg_of_op ..
theorem Sys2Proof.Laws.Opcode.rshade (o : Reg2LA) : Sys2Proof.Laws.Opcode.Statement (.rshade o) := fun _ _ => packReg_of_op ..
theorem Sys2Proof.Laws.Opcode.waitvEq (o : Reg3) : Sys2Proof.Laws.Opcode.Statement (.waitvEq o) := fun _ _ => packReg_of_op ..
theorem Sys2Proof.Laws.Opcode.waitvNe (o : Reg3) : Sys2Proof.Laws.Opcode.Statement (.waitvNe o) := fun _ _ => packReg_of_op ..
theorem Sys2Proof.Laws.Opcode.waitvGen (o : Reg3) : Sys2Proof.Laws.Opcode.Statement (.waitvGen o) := fun _ _ => packReg_of_op ..
theorem Sys2Proof.Laws.Opcode.waitvGtn (o : Reg3) : Sys2Proof.Laws.Opcode.Statement (.waitvGtn o) := fun _ _ => packReg_of_op ..
theorem Sys2Proof.Laws.Opcode.pf (o : PrefetchOp) : Sys2Proof.Laws.Opcode.Statement (.pf o) := fun _ _ => packMem_of_op ..
theorem Sys2Proof.Laws.Opcode.bra (off : BitVec 18) : Sys2Proof.Laws.Opcode.Statement (.bra off) := fun _ _ => packBra_of_op ..
theorem Sys2Proof.Laws.Opcode.brz (o : BranchOp) : Sys2Proof.Laws.Opcode.Statement (.brz o) := fun _ _ => packBra_of_op ..
theorem Sys2Proof.Laws.Opcode.brnz (o : BranchOp) : Sys2Proof.Laws.Opcode.Statement (.brnz o) := fun _ _ => packBra_of_op ..
theorem Sys2Proof.Laws.Opcode.call (o : BranchOp) : Sys2Proof.Laws.Opcode.Statement (.call o) := fun _ _ => packBra_of_op ..
theorem Sys2Proof.Laws.Opcode.jmpx (r : Reg) : Sys2Proof.Laws.Opcode.Statement (.jmpx r) := fun _ _ => packBra_of_op ..
theorem Sys2Proof.Laws.Opcode.split (o : BranchOp) : Sys2Proof.Laws.Opcode.Statement (.split o) := fun _ _ => packBra_of_op ..
theorem Sys2Proof.Laws.Opcode.fuse : Sys2Proof.Laws.Opcode.Statement (.fuse) := fun _ _ => packBra_of_op ..
theorem Sys2Proof.Laws.Opcode.setf (r : Reg) : Sys2Proof.Laws.Opcode.Statement (.setf r) := fun _ _ => packReg_of_op ..
theorem Sys2Proof.Laws.Opcode.getf (r : Reg) : Sys2Proof.Laws.Opcode.Statement (.getf r) := fun _ _ => packReg_of_op ..
theorem Sys2Proof.Laws.Opcode.setc (r : Reg) : Sys2Proof.Laws.Opcode.Statement (.setc r) := fun _ _ => packReg_of_op ..
theorem Sys2Proof.Laws.Opcode.getc (r : Reg) : Sys2Proof.Laws.Opcode.Statement (.getc r) := fun _ _ => packReg_of_op ..
theorem Sys2Proof.Laws.Opcode.setpri (r : Reg) : Sys2Proof.Laws.Opcode.Statement (.setpri r) := fun _ _ => packReg_of_op ..
theorem Sys2Proof.Laws.Opcode.yield : Sys2Proof.Laws.Opcode.Statement (.yield) := fun _ _ => packReg_of_op ..
theorem Sys2Proof.Laws.Opcode.exit : Sys2Proof.Laws.Opcode.Statement (.exit) := fun _ _ => packReg_of_op ..
theorem Sys2Proof.Laws.Opcode.region : Sys2Proof.Laws.Opcode.Statement (.region) := fun _ _ => packReg_of_op ..
theorem Sys2Proof.Laws.Opcode.cont (r : Reg) : Sys2Proof.Laws.Opcode.Statement (.cont r) := fun _ _ => packReg_of_op ..
theorem Sys2Proof.Laws.Opcode.resume (r : Reg) : Sys2Proof.Laws.Opcode.Statement (.resume r) := fun _ _ => packReg_of_op ..
theorem Sys2Proof.Laws.Opcode.srd (o : SrdOp) : Sys2Proof.Laws.Opcode.Statement (.srd o) := fun _ _ => packReg_of_op ..
theorem Sys2Proof.Laws.Opcode.swr (o : SwrOp) : Sys2Proof.Laws.Opcode.Statement (.swr o) := fun _ _ => packReg_of_op ..
theorem Sys2Proof.Laws.Opcode.trap (imm : BitVec 14) : Sys2Proof.Laws.Opcode.Statement (.trap imm) := fun _ _ => packTrap_of_op ..
theorem Sys2Proof.Laws.Opcode.eret : Sys2Proof.Laws.Opcode.Statement (.eret) := fun _ _ => packReg_of_op ..
theorem Sys2Proof.Laws.Opcode.bkpt : Sys2Proof.Laws.Opcode.Statement (.bkpt) := fun _ _ => packReg_of_op ..
theorem Sys2Proof.Laws.Opcode.nop : Sys2Proof.Laws.Opcode.Statement (.nop) := fun _ _ => packReg_of_op ..
theorem Sys2Proof.Laws.Opcode.tlbiPage (r : Reg) : Sys2Proof.Laws.Opcode.Statement (.tlbiPage r) := fun _ _ => packReg_of_op ..
theorem Sys2Proof.Laws.Opcode.tlbiCtx : Sys2Proof.Laws.Opcode.Statement (.tlbiCtx) := fun _ _ => packReg_of_op ..
theorem Sys2Proof.Laws.Opcode.time (r : Reg) : Sys2Proof.Laws.Opcode.Statement (.time r) := fun _ _ => packReg_of_op ..
theorem Sys2Proof.Laws.Opcode.twait (r : Reg) : Sys2Proof.Laws.Opcode.Statement (.twait r) := fun _ _ => packReg_of_op ..
theorem Sys2Proof.Laws.Opcode.sld (o : MemOp) : Sys2Proof.Laws.Opcode.Statement (.sld o) := fun _ _ => packMem_of_op ..
theorem Sys2Proof.Laws.Opcode.sst (o : MemOp) : Sys2Proof.Laws.Opcode.Statement (.sst o) := fun _ _ => packMem_of_op ..
theorem Sys2Proof.Laws.Opcode.satomAdd (o : Reg3) : Sys2Proof.Laws.Opcode.Statement (.satomAdd o) := fun _ _ => packReg_of_op ..
theorem Sys2Proof.Laws.Opcode.satomAnd (o : Reg3) : Sys2Proof.Laws.Opcode.Statement (.satomAnd o) := fun _ _ => packReg_of_op ..
theorem Sys2Proof.Laws.Opcode.satomOr (o : Reg3) : Sys2Proof.Laws.Opcode.Statement (.satomOr o) := fun _ _ => packReg_of_op ..
theorem Sys2Proof.Laws.Opcode.satomXor (o : Reg3) : Sys2Proof.Laws.Opcode.Statement (.satomXor o) := fun _ _ => packReg_of_op ..
theorem Sys2Proof.Laws.Opcode.satomMin (o : Reg3) : Sys2Proof.Laws.Opcode.Statement (.satomMin o) := fun _ _ => packReg_of_op ..
theorem Sys2Proof.Laws.Opcode.satomMax (o : Reg3) : Sys2Proof.Laws.Opcode.Statement (.satomMax o) := fun _ _ => packReg_of_op ..
theorem Sys2Proof.Laws.Opcode.satomMinn (o : Reg3) : Sys2Proof.Laws.Opcode.Statement (.satomMinn o) := fun _ _ => packReg_of_op ..
theorem Sys2Proof.Laws.Opcode.satomMaxn (o : Reg3) : Sys2Proof.Laws.Opcode.Statement (.satomMaxn o) := fun _ _ => packReg_of_op ..
theorem Sys2Proof.Laws.Opcode.satomXchg (o : Reg3) : Sys2Proof.Laws.Opcode.Statement (.satomXchg o) := fun _ _ => packReg_of_op ..
theorem Sys2Proof.Laws.Opcode.satomCas (o : Reg3) : Sys2Proof.Laws.Opcode.Statement (.satomCas o) := fun _ _ => packReg_of_op ..
theorem Sys2Proof.Laws.Opcode.satomFadd (o : Reg3) : Sys2Proof.Laws.Opcode.Statement (.satomFadd o) := fun _ _ => packReg_of_op ..
theorem Sys2Proof.Laws.Opcode.satomFmin (o : Reg3) : Sys2Proof.Laws.Opcode.Statement (.satomFmin o) := fun _ _ => packReg_of_op ..
theorem Sys2Proof.Laws.Opcode.satomFmax (o : Reg3) : Sys2Proof.Laws.Opcode.Statement (.satomFmax o) := fun _ _ => packReg_of_op ..
theorem Sys2Proof.Laws.Opcode.satomInc (o : Reg3) : Sys2Proof.Laws.Opcode.Statement (.satomInc o) := fun _ _ => packReg_of_op ..
theorem Sys2Proof.Laws.Opcode.fenceAcq (scope : FenceScope) : Sys2Proof.Laws.Opcode.Statement (.fenceAcq scope) := fun _ _ => packReg_of_op ..
theorem Sys2Proof.Laws.Opcode.fenceRel (scope : FenceScope) : Sys2Proof.Laws.Opcode.Statement (.fenceRel scope) := fun _ _ => packReg_of_op ..
theorem Sys2Proof.Laws.Opcode.fenceAr (scope : FenceScope) : Sys2Proof.Laws.Opcode.Statement (.fenceAr scope) := fun _ _ => packReg_of_op ..
theorem Sys2Proof.Laws.Opcode.clean (o : Reg2LA) : Sys2Proof.Laws.Opcode.Statement (.clean o) := fun _ _ => packReg_of_op ..
theorem Sys2Proof.Laws.Opcode.inv (o : Reg2LA) : Sys2Proof.Laws.Opcode.Statement (.inv o) := fun _ _ => packReg_of_op ..
theorem Sys2Proof.Laws.Opcode.clinv (o : Reg2LA) : Sys2Proof.Laws.Opcode.Statement (.clinv o) := fun _ _ => packReg_of_op ..
theorem Sys2Proof.Laws.Opcode.copy (o : Reg2LA) : Sys2Proof.Laws.Opcode.Statement (.copy o) := fun _ _ => packReg_of_op ..
theorem Sys2Proof.Laws.Opcode.gather (o : Reg2LA) : Sys2Proof.Laws.Opcode.Statement (.gather o) := fun _ _ => packReg_of_op ..
theorem Sys2Proof.Laws.Opcode.scatter (o : Reg2LA) : Sys2Proof.Laws.Opcode.Statement (.scatter o) := fun _ _ => packReg_of_op ..
theorem Sys2Proof.Laws.Opcode.eqry (o : Reg2LA) : Sys2Proof.Laws.Opcode.Statement (.eqry o) := fun _ _ => packReg_of_op ..
theorem Sys2Proof.Laws.Opcode.rarith (o : Reg2LA) : Sys2Proof.Laws.Opcode.Statement (.rarith o) := fun _ _ => packReg_of_op ..
theorem Sys2Proof.Laws.Opcode.coll (o : Reg2LA) : Sys2Proof.Laws.Opcode.Statement (.coll o) := fun _ _ => packReg_of_op ..
theorem Sys2Proof.Laws.Opcode.cstat (o : Reg2LA) : Sys2Proof.Laws.Opcode.Statement (.cstat o) := fun _ _ => packReg_of_op ..
theorem Sys2Proof.Laws.Opcode.wsend (o : Reg2LA) : Sys2Proof.Laws.Opcode.Statement (.wsend o) := fun _ _ => packReg_of_op ..
theorem Sys2Proof.Laws.Opcode.wsig (o : Reg2LA) : Sys2Proof.Laws.Opcode.Statement (.wsig o) := fun _ _ => packReg_of_op ..
theorem Sys2Proof.Laws.Opcode.binit (o : Reg2LA) : Sys2Proof.Laws.Opcode.Statement (.binit o) := fun _ _ => packReg_of_op ..
theorem Sys2Proof.Laws.Opcode.arrive (o : Reg2LA) : Sys2Proof.Laws.Opcode.Statement (.arrive o) := fun _ _ => packReg_of_op ..
theorem Sys2Proof.Laws.Opcode.arrivex (o : Reg2LA) : Sys2Proof.Laws.Opcode.Statement (.arrivex o) := fun _ _ => packReg_of_op ..
theorem Sys2Proof.Laws.Opcode.bwait (o : Reg2LA) : Sys2Proof.Laws.Opcode.Statement (.bwait o) := fun _ _ => packReg_of_op ..
theorem Sys2Proof.Laws.Opcode.seqtake (o : Reg2LA) : Sys2Proof.Laws.Opcode.Statement (.seqtake o) := fun _ _ => packReg_of_op ..
theorem Sys2Proof.Laws.Opcode.enter (o : Reg2LA) : Sys2Proof.Laws.Opcode.Statement (.enter o) := fun _ _ => packReg_of_op ..
theorem Sys2Proof.Laws.Opcode.leave (o : SectOp) : Sys2Proof.Laws.Opcode.Statement (.leave o) := fun _ _ => packReg_of_op ..
theorem Sys2Proof.Laws.Opcode.leaveEnd (o : SectOp) : Sys2Proof.Laws.Opcode.Statement (.leaveEnd o) := fun _ _ => packReg_of_op ..
theorem Sys2Proof.Laws.Opcode.abandon (o : SectOp) : Sys2Proof.Laws.Opcode.Statement (.abandon o) := fun _ _ => packReg_of_op ..
theorem Sys2Proof.Laws.Opcode.sectq (o : Reg2LA) : Sys2Proof.Laws.Opcode.Statement (.sectq o) := fun _ _ => packReg_of_op ..
theorem Sys2Proof.Laws.Opcode.launch (o : Reg2LA) : Sys2Proof.Laws.Opcode.Statement (.launch o) := fun _ _ => packReg_of_op ..
theorem Sys2Proof.Laws.Opcode.lqry (o : Reg2LA) : Sys2Proof.Laws.Opcode.Statement (.lqry o) := fun _ _ => packReg_of_op ..
theorem Sys2Proof.Laws.Opcode.swaitvEq (o : Reg3) : Sys2Proof.Laws.Opcode.Statement (.swaitvEq o) := fun _ _ => packReg_of_op ..
theorem Sys2Proof.Laws.Opcode.swaitvNe (o : Reg3) : Sys2Proof.Laws.Opcode.Statement (.swaitvNe o) := fun _ _ => packReg_of_op ..
theorem Sys2Proof.Laws.Opcode.swaitvGen (o : Reg3) : Sys2Proof.Laws.Opcode.Statement (.swaitvGen o) := fun _ _ => packReg_of_op ..
theorem Sys2Proof.Laws.Opcode.swaitvGtn (o : Reg3) : Sys2Proof.Laws.Opcode.Statement (.swaitvGtn o) := fun _ _ => packReg_of_op ..
theorem Sys2Proof.Laws.Opcode.hintWideImmediate (payload : BitVec 23) : Sys2Proof.Laws.Opcode.Statement (.hintWideImmediate payload) := fun _ _ => packHint_of_op ..
theorem Sys2Proof.Laws.Opcode.hintModifiers (o : ModHint) : Sys2Proof.Laws.Opcode.Statement (.hintModifiers o) := fun _ _ => packHint_of_op ..
theorem Sys2Proof.Laws.Opcode.hintScheduling (o : SchedHint) : Sys2Proof.Laws.Opcode.Statement (.hintScheduling o) := fun _ _ => packHint_of_op ..
theorem Sys2Proof.Laws.Opcode.asyncFaultDelivery (sw : SwellId) : Sys2Proof.Laws.Opcode.Statement (.asyncFaultDelivery sw) := fun h => Bool.noConfusion (show false = true from h)
theorem Sys2Proof.Laws.Opcode.lateNotice (fr : FragId) (tidemark : Addr) : Sys2Proof.Laws.Opcode.Statement (.lateNotice fr tidemark) := fun h => Bool.noConfusion (show false = true from h)
theorem Sys2Proof.Laws.Opcode.loadResponse (sw : SwellId) (op : Nat) : Sys2Proof.Laws.Opcode.Statement (.loadResponse sw op) := fun h => Bool.noConfusion (show false = true from h)
theorem Sys2Proof.Laws.Opcode.atomicReply (sw : SwellId) (op : Nat) : Sys2Proof.Laws.Opcode.Statement (.atomicReply sw op) := fun h => Bool.noConfusion (show false = true from h)
theorem Sys2Proof.Laws.Opcode.mmaResult (sw : SwellId) (op : Nat) : Sys2Proof.Laws.Opcode.Statement (.mmaResult sw op) := fun h => Bool.noConfusion (show false = true from h)
theorem Sys2Proof.Laws.Opcode.reorderCompletion (core launch id : Nat) : Sys2Proof.Laws.Opcode.Statement (.reorderCompletion core launch id) := fun h => Bool.noConfusion (show false = true from h)
theorem Sys2Proof.Laws.Opcode.accessTimeout (sw : SwellId) (op : Nat) : Sys2Proof.Laws.Opcode.Statement (.accessTimeout sw op) := fun h => Bool.noConfusion (show false = true from h)
theorem Sys2Proof.Laws.Opcode.swellMoveOut (sw : SwellId) : Sys2Proof.Laws.Opcode.Statement (.swellMoveOut sw) := fun h => Bool.noConfusion (show false = true from h)
theorem Sys2Proof.Laws.Opcode.swellMoveIn (sw : SwellId) : Sys2Proof.Laws.Opcode.Statement (.swellMoveIn sw) := fun h => Bool.noConfusion (show false = true from h)
theorem Sys2Proof.Laws.Opcode.forcedDisplacement (core : Nat) : Sys2Proof.Laws.Opcode.Statement (.forcedDisplacement core) := fun h => Bool.noConfusion (show false = true from h)
theorem Sys2Proof.Laws.Opcode.compaction (core : Nat) : Sys2Proof.Laws.Opcode.Statement (.compaction core) := fun h => Bool.noConfusion (show false = true from h)
theorem Sys2Proof.Laws.Opcode.swellEviction (sw : SwellId) : Sys2Proof.Laws.Opcode.Statement (.swellEviction sw) := fun h => Bool.noConfusion (show false = true from h)
theorem Sys2Proof.Laws.Opcode.swellResume (ctx uid core slot : Nat) : Sys2Proof.Laws.Opcode.Statement (.swellResume ctx uid core slot) := fun h => Bool.noConfusion (show false = true from h)
theorem Sys2Proof.Laws.Opcode.tagWaiterService (core word : Nat) : Sys2Proof.Laws.Opcode.Statement (.tagWaiterService core word) := fun h => Bool.noConfusion (show false = true from h)
theorem Sys2Proof.Laws.Opcode.valueWaitArm (fr : FragId) (lane : Nat) : Sys2Proof.Laws.Opcode.Statement (.valueWaitArm fr lane) := fun h => Bool.noConfusion (show false = true from h)
theorem Sys2Proof.Laws.Opcode.homeWrite (msg : Nat) : Sys2Proof.Laws.Opcode.Statement (.homeWrite msg) := fun h => Bool.noConfusion (show false = true from h)
theorem Sys2Proof.Laws.Opcode.l1WritebackDeadline (core line : Nat) : Sys2Proof.Laws.Opcode.Statement (.l1WritebackDeadline core line) := fun h => Bool.noConfusion (show false = true from h)
theorem Sys2Proof.Laws.Opcode.sliceMissFill (die slice line : Nat) : Sys2Proof.Laws.Opcode.Statement (.sliceMissFill die slice line) := fun h => Bool.noConfusion (show false = true from h)
theorem Sys2Proof.Laws.Opcode.cohReadRequest (die line : Nat) : Sys2Proof.Laws.Opcode.Statement (.cohReadRequest die line) := fun h => Bool.noConfusion (show false = true from h)
theorem Sys2Proof.Laws.Opcode.cohOwnershipRequest (die line : Nat) : Sys2Proof.Laws.Opcode.Statement (.cohOwnershipRequest die line) := fun h => Bool.noConfusion (show false = true from h)
theorem Sys2Proof.Laws.Opcode.cohRecall (die line : Nat) (drop : Bool) : Sys2Proof.Laws.Opcode.Statement (.cohRecall die line drop) := fun h => Bool.noConfusion (show false = true from h)
theorem Sys2Proof.Laws.Opcode.rosReplicaFill (ctx die granule : Nat) : Sys2Proof.Laws.Opcode.Statement (.rosReplicaFill ctx die granule) := fun h => Bool.noConfusion (show false = true from h)
theorem Sys2Proof.Laws.Opcode.replicaFree (die granule : Nat) : Sys2Proof.Laws.Opcode.Statement (.replicaFree die granule) := fun h => Bool.noConfusion (show false = true from h)
theorem Sys2Proof.Laws.Opcode.walkCompletion (die ctx page : Nat) : Sys2Proof.Laws.Opcode.Statement (.walkCompletion die ctx page) := fun h => Bool.noConfusion (show false = true from h)
theorem Sys2Proof.Laws.Opcode.faultServiceRequest (die ctx page : Nat) (kind : ReqKind) (who : Option FragId) : Sys2Proof.Laws.Opcode.Statement (.faultServiceRequest die ctx page kind who) := fun h => Bool.noConfusion (show false = true from h)
theorem Sys2Proof.Laws.Opcode.faultAnswer (ctx : Nat) (word : Addr) : Sys2Proof.Laws.Opcode.Statement (.faultAnswer ctx word) := fun h => Bool.noConfusion (show false = true from h)
theorem Sys2Proof.Laws.Opcode.priPageRequest (ctx page : Nat) (kind : ReqKind) (who : Option FragId) : Sys2Proof.Laws.Opcode.Statement (.priPageRequest ctx page kind who) := fun h => Bool.noConfusion (show false = true from h)
theorem Sys2Proof.Laws.Opcode.timedLaneArrival (msg : Nat) : Sys2Proof.Laws.Opcode.Statement (.timedLaneArrival msg) := fun h => Bool.noConfusion (show false = true from h)
theorem Sys2Proof.Laws.Opcode.tideTick (die home : Nat) : Sys2Proof.Laws.Opcode.Statement (.tideTick die home) := fun h => Bool.noConfusion (show false = true from h)
theorem Sys2Proof.Laws.Opcode.twaitExpiry (fr : FragId) : Sys2Proof.Laws.Opcode.Statement (.twaitExpiry fr) := fun h => Bool.noConfusion (show false = true from h)
theorem Sys2Proof.Laws.Opcode.shelfRefreshEnd (die bank : Nat) : Sys2Proof.Laws.Opcode.Statement (.shelfRefreshEnd die bank) := fun h => Bool.noConfusion (show false = true from h)
theorem Sys2Proof.Laws.Opcode.shelfBankRetire (die bank : Nat) : Sys2Proof.Laws.Opcode.Statement (.shelfBankRetire die bank) := fun h => Bool.noConfusion (show false = true from h)
theorem Sys2Proof.Laws.Opcode.slabRunRise (die slab : Nat) : Sys2Proof.Laws.Opcode.Statement (.slabRunRise die slab) := fun h => Bool.noConfusion (show false = true from h)
theorem Sys2Proof.Laws.Opcode.slabRegisterWrite (die slab : Nat) (v : Word) : Sys2Proof.Laws.Opcode.Statement (.slabRegisterWrite die slab v) := fun h => Bool.noConfusion (show false = true from h)
theorem Sys2Proof.Laws.Opcode.sliceConfigWrite (die slice : Nat) (v : Word) : Sys2Proof.Laws.Opcode.Statement (.sliceConfigWrite die slice v) := fun h => Bool.noConfusion (show false = true from h)
theorem Sys2Proof.Laws.Opcode.coreErrorRecordWrite (core : Nat) (v : Addr) : Sys2Proof.Laws.Opcode.Statement (.coreErrorRecordWrite core v) := fun h => Bool.noConfusion (show false = true from h)
theorem Sys2Proof.Laws.Opcode.enterRequest (req : SectReq) : Sys2Proof.Laws.Opcode.Statement (.enterRequest req) := fun h => Bool.noConfusion (show false = true from h)
theorem Sys2Proof.Laws.Opcode.leaveRequest (req : SectReq) (kind : LeaveKind) : Sys2Proof.Laws.Opcode.Statement (.leaveRequest req kind) := fun h => Bool.noConfusion (show false = true from h)
theorem Sys2Proof.Laws.Opcode.seqtakeRequest (req : SectReq) : Sys2Proof.Laws.Opcode.Statement (.seqtakeRequest req) := fun h => Bool.noConfusion (show false = true from h)
theorem Sys2Proof.Laws.Opcode.sectqRequest (req : SectReq) : Sys2Proof.Laws.Opcode.Statement (.sectqRequest req) := fun h => Bool.noConfusion (show false = true from h)
theorem Sys2Proof.Laws.Opcode.sectionGrantReply (req : SectReq) (status : Word) : Sys2Proof.Laws.Opcode.Statement (.sectionGrantReply req status) := fun h => Bool.noConfusion (show false = true from h)
theorem Sys2Proof.Laws.Opcode.sectionTimeoutScan (die : Nat) : Sys2Proof.Laws.Opcode.Statement (.sectionTimeoutScan die) := fun h => Bool.noConfusion (show false = true from h)
theorem Sys2Proof.Laws.Opcode.sluiceReload (die ctx : Nat) (key : Addr) : Sys2Proof.Laws.Opcode.Statement (.sluiceReload die ctx key) := fun h => Bool.noConfusion (show false = true from h)
theorem Sys2Proof.Laws.Opcode.sluiceDieReplace (ctx retired live : Nat) : Sys2Proof.Laws.Opcode.Statement (.sluiceDieReplace ctx retired live) := fun h => Bool.noConfusion (show false = true from h)
theorem Sys2Proof.Laws.Opcode.engineStep (cluster engine : Nat) : Sys2Proof.Laws.Opcode.Statement (.engineStep cluster engine) := fun h => Bool.noConfusion (show false = true from h)
theorem Sys2Proof.Laws.Opcode.taskStart (core launch : Nat) : Sys2Proof.Laws.Opcode.Statement (.taskStart core launch) := fun h => Bool.noConfusion (show false = true from h)
theorem Sys2Proof.Laws.Opcode.stealRequest (cluster launch : Nat) : Sys2Proof.Laws.Opcode.Statement (.stealRequest cluster launch) := fun h => Bool.noConfusion (show false = true from h)
theorem Sys2Proof.Laws.Opcode.stealRetry (cluster launch : Nat) : Sys2Proof.Laws.Opcode.Statement (.stealRetry cluster launch) := fun h => Bool.noConfusion (show false = true from h)
theorem Sys2Proof.Laws.Opcode.tcbShipment (cluster launch : Nat) (tasks : List Nat) : Sys2Proof.Laws.Opcode.Statement (.tcbShipment cluster launch tasks) := fun h => Bool.noConfusion (show false = true from h)
theorem Sys2Proof.Laws.Opcode.dispatcherRefill (die launch : Nat) : Sys2Proof.Laws.Opcode.Statement (.dispatcherRefill die launch) := fun h => Bool.noConfusion (show false = true from h)
theorem Sys2Proof.Laws.Opcode.launchCompletion (launch : Nat) : Sys2Proof.Laws.Opcode.Statement (.launchCompletion launch) := fun h => Bool.noConfusion (show false = true from h)
theorem Sys2Proof.Laws.Opcode.primitivePacket (die launch : Nat) (prim : Prim) : Sys2Proof.Laws.Opcode.Statement (.primitivePacket die launch prim) := fun h => Bool.noConfusion (show false = true from h)
theorem Sys2Proof.Laws.Opcode.endOfGroupMarker (die launch group : Nat) : Sys2Proof.Laws.Opcode.Statement (.endOfGroupMarker die launch group) := fun h => Bool.noConfusion (show false = true from h)
theorem Sys2Proof.Laws.Opcode.tileShadeStart (die launch tile : Nat) : Sys2Proof.Laws.Opcode.Statement (.tileShadeStart die launch tile) := fun h => Bool.noConfusion (show false = true from h)
theorem Sys2Proof.Laws.Opcode.blendSwellsStart (die launch tile : Nat) : Sys2Proof.Laws.Opcode.Statement (.blendSwellsStart die launch tile) := fun h => Bool.noConfusion (show false = true from h)
theorem Sys2Proof.Laws.Opcode.mailboxWrite (ctx word : Nat) (v : Word) : Sys2Proof.Laws.Opcode.Statement (.mailboxWrite ctx word v) := fun h => Bool.noConfusion (show false = true from h)
theorem Sys2Proof.Laws.Opcode.contextCreate (ctx : Nat) : Sys2Proof.Laws.Opcode.Statement (.contextCreate ctx) := fun h => Bool.noConfusion (show false = true from h)
theorem Sys2Proof.Laws.Opcode.contextSuspend (ctx : Nat) : Sys2Proof.Laws.Opcode.Statement (.contextSuspend ctx) := fun h => Bool.noConfusion (show false = true from h)
theorem Sys2Proof.Laws.Opcode.contextResume (ctx : Nat) : Sys2Proof.Laws.Opcode.Statement (.contextResume ctx) := fun h => Bool.noConfusion (show false = true from h)
theorem Sys2Proof.Laws.Opcode.contextTeardown (ctx : Nat) : Sys2Proof.Laws.Opcode.Statement (.contextTeardown ctx) := fun h => Bool.noConfusion (show false = true from h)
theorem Sys2Proof.Laws.Opcode.contextFree (ctx : Nat) : Sys2Proof.Laws.Opcode.Statement (.contextFree ctx) := fun h => Bool.noConfusion (show false = true from h)
theorem Sys2Proof.Laws.Opcode.apertureWrite (fn : HostFn) (off : Nat) (bytes : List Byte) : Sys2Proof.Laws.Opcode.Statement (.apertureWrite fn off bytes) := fun h => Bool.noConfusion (show false = true from h)
theorem Sys2Proof.Laws.Opcode.registerWrite (fn : HostFn) (off size : Nat) (v : Addr) : Sys2Proof.Laws.Opcode.Statement (.registerWrite fn off size v) := fun h => Bool.noConfusion (show false = true from h)
theorem Sys2Proof.Laws.Opcode.putArrival (put : PutIn) : Sys2Proof.Laws.Opcode.Statement (.putArrival put) := fun h => Bool.noConfusion (show false = true from h)
theorem Sys2Proof.Laws.Opcode.putAcknowledgement (put : Nat) (reason : Nat) : Sys2Proof.Laws.Opcode.Statement (.putAcknowledgement put reason) := fun h => Bool.noConfusion (show false = true from h)
theorem Sys2Proof.Laws.Opcode.putLinkTimeout (put : Nat) : Sys2Proof.Laws.Opcode.Statement (.putLinkTimeout put) := fun h => Bool.noConfusion (show false = true from h)
theorem Sys2Proof.Laws.Opcode.collectiveExchange (ctx id : Nat) (remote : List (Nat × List Byte)) : Sys2Proof.Laws.Opcode.Statement (.collectiveExchange ctx id remote) := fun h => Bool.noConfusion (show false = true from h)
theorem Sys2Proof.Laws.Opcode.linkStallSpill (die edge cls : Nat) : Sys2Proof.Laws.Opcode.Statement (.linkStallSpill die edge cls) := fun h => Bool.noConfusion (show false = true from h)
theorem Sys2Proof.Laws.Opcode.linkSpillDrain (die edge cls : Nat) : Sys2Proof.Laws.Opcode.Statement (.linkSpillDrain die edge cls) := fun h => Bool.noConfusion (show false = true from h)
theorem Sys2Proof.Laws.Opcode.syncTimer (die : Nat) : Sys2Proof.Laws.Opcode.Statement (.syncTimer die) := fun h => Bool.noConfusion (show false = true from h)
theorem Sys2Proof.Laws.Opcode.sync (die seq : Nat) : Sys2Proof.Laws.Opcode.Statement (.sync die seq) := fun h => Bool.noConfusion (show false = true from h)
theorem Sys2Proof.Laws.Opcode.followUp (die : Nat) (t : Addr) : Sys2Proof.Laws.Opcode.Statement (.followUp die t) := fun h => Bool.noConfusion (show false = true from h)
theorem Sys2Proof.Laws.Opcode.pdelayReqTimer (die : Nat) : Sys2Proof.Laws.Opcode.Statement (.pdelayReqTimer die) := fun h => Bool.noConfusion (show false = true from h)
theorem Sys2Proof.Laws.Opcode.pdelayReq (die : Nat) (t1 : Addr) : Sys2Proof.Laws.Opcode.Statement (.pdelayReq die t1) := fun h => Bool.noConfusion (show false = true from h)
theorem Sys2Proof.Laws.Opcode.pdelayResp (die : Nat) (t1 t2 t3 : Addr) : Sys2Proof.Laws.Opcode.Statement (.pdelayResp die t1 t2 t3) := fun h => Bool.noConfusion (show false = true from h)
theorem Sys2Proof.Laws.Opcode.lockLossTimeout (die : Nat) : Sys2Proof.Laws.Opcode.Statement (.lockLossTimeout die) := fun h => Bool.noConfusion (show false = true from h)
theorem Sys2Proof.Laws.Opcode.timeSourceFail : Sys2Proof.Laws.Opcode.Statement (.timeSourceFail) := fun h => Bool.noConfusion (show false = true from h)
theorem Sys2Proof.Laws.Opcode.tdiscWrite (die : Nat) (v : Word) : Sys2Proof.Laws.Opcode.Statement (.tdiscWrite die v) := fun h => Bool.noConfusion (show false = true from h)
theorem Sys2Proof.Laws.Opcode.atimeBootSet (delays : List Nat) : Sys2Proof.Laws.Opcode.Statement (.atimeBootSet delays) := fun h => Bool.noConfusion (show false = true from h)
theorem Sys2Proof.Laws.Opcode.leadRoleMove : Sys2Proof.Laws.Opcode.Statement (.leadRoleMove) := fun h => Bool.noConfusion (show false = true from h)
theorem Sys2Proof.Laws.Opcode.powerEmergency (die clock : Nat) : Sys2Proof.Laws.Opcode.Statement (.powerEmergency die clock) := fun h => Bool.noConfusion (show false = true from h)
theorem Sys2Proof.Laws.Opcode.meterUpdate (die : Nat) : Sys2Proof.Laws.Opcode.Statement (.meterUpdate die) := fun h => Bool.noConfusion (show false = true from h)
theorem Sys2Proof.Laws.Opcode.suspectCoreService (core : Nat) : Sys2Proof.Laws.Opcode.Statement (.suspectCoreService core) := fun h => Bool.noConfusion (show false = true from h)
theorem Sys2Proof.Laws.Opcode.coreSelfTest (core : Nat) (passed : Bool) : Sys2Proof.Laws.Opcode.Statement (.coreSelfTest core passed) := fun h => Bool.noConfusion (show false = true from h)
theorem Sys2Proof.Laws.Opcode.enumeration : Sys2Proof.Laws.Opcode.Statement (.enumeration) := fun h => Bool.noConfusion (show false = true from h)
theorem Sys2Proof.Laws.Opcode.routeTableCompute : Sys2Proof.Laws.Opcode.Statement .routeTableCompute := fun h => Bool.noConfusion (show false = true from h)
theorem Sys2Proof.Laws.Opcode.firmwareMeasure (die reg : Nat) (image : List Byte) : Sys2Proof.Laws.Opcode.Statement (.firmwareMeasure die reg image) := fun h => Bool.noConfusion (show false = true from h)
theorem Sys2Proof.Laws.Opcode.getMeasurements (nonce : List Byte) : Sys2Proof.Laws.Opcode.Statement (.getMeasurements nonce) := fun h => Bool.noConfusion (show false = true from h)
theorem Sys2Proof.Laws.Opcode.powerStateEntry : Sys2Proof.Laws.Opcode.Statement (.powerStateEntry) := fun h => Bool.noConfusion (show false = true from h)
theorem Sys2Proof.Laws.Opcode.powerStateWake : Sys2Proof.Laws.Opcode.Statement (.powerStateWake) := fun h => Bool.noConfusion (show false = true from h)
theorem Sys2Proof.Laws.Opcode.hbmChannelSpare (die channel : Nat) : Sys2Proof.Laws.Opcode.Statement (.hbmChannelSpare die channel) := fun h => Bool.noConfusion (show false = true from h)
theorem Sys2Proof.Laws.Opcode.firmwareUpdate (die : Nat) (phase : UpdPhase) : Sys2Proof.Laws.Opcode.Statement (.firmwareUpdate die phase) := fun h => Bool.noConfusion (show false = true from h)
theorem Sys2Proof.Laws.Opcode.moduleHotSwap (part : SwapPart) (inserted : Bool) : Sys2Proof.Laws.Opcode.Statement (.moduleHotSwap part inserted) := fun h => Bool.noConfusion (show false = true from h)
theorem Sys2Proof.Laws.Opcode.nonInstructionWord (w : Word) : Sys2Proof.Laws.Opcode.Statement (.nonInstructionWord w) := fun _ h => Bool.noConfusion (show false = true from h)
theorem Sys2Proof.Laws.Opcode.priPageResponse (ctx page : Nat) (ok : Bool) : Sys2Proof.Laws.Opcode.Statement (.priPageResponse ctx page ok) := fun h => Bool.noConfusion (show false = true from h)
theorem Sys2Proof.Laws.Opcode.atsTranslationCompletion (ctx page : Nat) (frame : Option Nat) : Sys2Proof.Laws.Opcode.Statement (.atsTranslationCompletion ctx page frame) := fun h => Bool.noConfusion (show false = true from h)
theorem Sys2Proof.Laws.Opcode.ppsInput (offset : Int) : Sys2Proof.Laws.Opcode.Statement (.ppsInput offset) := fun h => Bool.noConfusion (show false = true from h)
theorem Sys2Proof.Laws.Opcode.ptpPortMessage (offset : Int) : Sys2Proof.Laws.Opcode.Statement (.ptpPortMessage offset) := fun h => Bool.noConfusion (show false = true from h)
theorem Sys2Proof.Laws.Opcode.plockBroadcast : Sys2Proof.Laws.Opcode.Statement (.plockBroadcast) := fun h => Bool.noConfusion (show false = true from h)
theorem Sys2Proof.Laws.Opcode.powerEmergencyEnd (die : Nat) : Sys2Proof.Laws.Opcode.Statement (.powerEmergencyEnd die) := fun h => Bool.noConfusion (show false = true from h)
theorem Sys2Proof.Laws.Opcode.hostPortLinkChange (port : Nat) (up : Bool) : Sys2Proof.Laws.Opcode.Statement (.hostPortLinkChange port up) := fun h => Bool.noConfusion (show false = true from h)
theorem Sys2Proof.Laws.Opcode.shoreLinkLiveChange (link : Nat) (live : Bool) : Sys2Proof.Laws.Opcode.Statement (.shoreLinkLiveChange link live) := fun h => Bool.noConfusion (show false = true from h)
theorem Sys2Proof.Laws.Opcode.dieRetirement (die live : Nat) : Sys2Proof.Laws.Opcode.Statement (.dieRetirement die live) := fun h => Bool.noConfusion (show false = true from h)
theorem Sys2Proof.Laws.Opcode.boot (cfg : BootCfg) : Sys2Proof.Laws.Opcode.Statement (.boot cfg) := fun h => Bool.noConfusion (show false = true from h)
end

