-- ==== Sys2Proof/Machine/HostRead.lean ====
section
/-! DEFINITION. What the host reads: the registers of the work functions, of PF1 and of the data functions, and the meter window (R364, R369, R371, R379, R383, R399, R409, R410, R414 to R418). A read changes nothing, so no event stands for one; these definitions say which value State shows where. -/

namespace Sys2Proof.Machine

/-- Mailbox word i as the host reads it (R399): in scratch while the pilot's core holds the partition, else the kept copy. -/
def mbWord (s : State) (ctx i : Nat) : Word :=
  match mailboxCore s ctx with
  | some c => wordOfList (readBytes (s.core c).scratch (mbOffset s ctx i) 4)
  | none => ((s.ctx ctx).mbWords[i]?).getD 0

/-- Four bytes of an 8-byte register: the high word at offset 4. -/
def halfOf (v : Addr) (off : Nat) : Word := if off % 8 = 4 then hiWord v else loWord v

/-- Four bytes of a work function's BAR0 (R414). FQANS is written only: the spec gives it no value to read, so none is answered. -/
def readWork4 (s : State) (ctx off : Nat) : Option Word :=
  let c := s.ctx ctx
  let page : Bool := decide (off < 0x80) || (decide (0x20000 ≤ off) && decide (off < 0x26000)) || (decide (0x30000 ≤ off) && decide (off < 0x40000))
  if page then some (BitVec.ofNat 32 (c.field off 4))
  else if off = 0x100 ∨ off = 0x104 then some (halfOf c.apbase off)
  else if off = 0x108 then some c.fqhead
  else if off = 0x10C then some c.fqtail
  else if off = 0x110 ∨ off = 0x114 then none
  else if off = 0x118 then some c.elhead
  else if off = 0x11C then some c.eltail
  else if off = 0x120 then some c.elovf
  else if 0x10000 ≤ off ∧ off < 0x10080 then some (mbWord s ctx ((off - 0x10000) / 4))
  else if off = 0x10100 then some (mbStat s ctx)
  else if off = 0x10104 then some c.mbOvf
  else some 0

/-- A link spill register as it reads (R364). -/
def SpillReg.bits (r : SpillReg) : Addr := r.spills ++ r.cls ++ 0#11 ++ r.occ

/-- DSTAT (R415): live, retired, firmware update in progress. -/
def dieStat (d : Die) : Word := (0 : BitVec 29) ++ BitVec.ofBool d.updating ++ BitVec.ofBool (!d.live) ++ BitVec.ofBool d.live

/-- Four bytes of the block of a die (R415). -/
def readDie4 (s : State) (die off : Nat) : Word :=
  let d := s.die die
  if off = 0 then tdiscWord d.disc
  else if 8 ≤ off ∧ off < 0x28 then halfOf ((kvGet d.spillRegs ((off - 8) / 8)).getD ⟨0, 0, 0⟩).bits off
  else if 0x100 ≤ off ∧ off < 0x300 then halfOf (tideStat (s.tide die ((off - 0x100) / 8))) off
  else if 0x300 ≤ off ∧ off < 0x380 then slabReg s die ((off - 0x300) / 4)
  else if off = 0x380 then dieStat d
  else 0

/-- Four bytes of PF1's BAR0 (R371, R383, R415). -/
def readPf14 (s : State) (off : Nat) : Word :=
  if off = 0 then s.pkg.pwrhr
  else if off = 4 then s.pkg.ltol
  else if off = 8 then s.pkg.node
  else if off = 0xC then BitVec.ofNat 32 s.pkg.lead
  else if off = 0x10 ∨ off = 0x14 then halfOf s.pkg.serial off
  else if 0x100 ≤ off ∧ off < 0x500 then routeMask s ((off - 0x100) / 4)
  else if 0x800 ≤ off ∧ off < 0xA00 then wordOfList (((linkTableBytes s).drop (off - 0x800)).take 4)
  else if 0x10000 ≤ off ∧ off < 0x50000 then readDie4 s ((off - 0x10000) / 4096) (off % 4096)
  else 0

/-- Four bytes of a data function's BAR0 (R418). -/
def readData4 (s : State) (die off : Nat) : Word :=
  match s.pkg.ports.find? fun p => p.die == die with
  | some p => if off = 0 then p.apsel.setWidth 32 else if off = 8 ∨ off = 12 then halfOf p.apbase off else 0
  | none => 0

/-- A naturally aligned host read of 4 or 8 bytes of a function's BAR0 (R414, R415, R418), firmware's read of a die's registers, and a read of a function's PASID in its configuration (R411; log 8); nothing else is an access. -/
def hostRead (s : State) (fn : HostFn) (off size : Nat) : Option Addr :=
  let word (o : Nat) : Option Word :=
    match fn with
    | .work ctx => readWork4 s ctx o
    | .pf1 => some (readPf14 s o)
    | .data die => some (readData4 s die o)
    | .firmware die => some (readDie4 s die o)
    | .config ctx => some (if o = 0 then (s.ctx ctx).pasid.setWidth 32 else 0)
  if (size ≠ 4 ∧ size ≠ 8) ∨ off % size ≠ 0 then none
  else if size = 4 then (word off).map fun (w : Word) => (w.setWidth 64 : Addr)
  else (word off).bind fun lo => (word (off + 4)).map fun hi => hi ++ lo

/-- Eight bytes of PF1's meter window (R410): the record of context k on die d lies at 8 KiB · d + 128 · k. -/
def readMeter (s : State) (off : Nat) : Addr :=
  BitVec.ofNat 64 (natOfBytes (readBytes (s.meter (off / 8192) (off % 8192 / 128)).published (off % 128) 8))

end Sys2Proof.Machine
end

