-- ==== Sys2Proof/Tests/Slice0.lean ====
section
/-! SUPPORT. Tests: ill-formed terms that the checks refuse, words of the spec that decode as it says, results that the spec works out, and a state that meets the hypotheses of each statement. -/

namespace Sys2Proof.Tests

set_option Elab.async false

open Sys2Proof.Machine

/-! ## Ill-formed terms, one for each check of WellFormed (R66, R69, R76, R78, R84 to R86, R213, R219, R243) -/

theorem test_wf_hold_c_needs_d_read : Instr.wf (.add ⟨4, 5, 6, .c, .all⟩) = false ∧ Instr.wf (.mac ⟨4, 5, 6, .c, .all⟩) = true ∧ Instr.wf (.mov ⟨4, 5, .b, .all⟩) = false := by decide
theorem test_wf_odd_pair : Instr.wf (.divs ⟨5, 1, 7⟩) = false ∧ Instr.wf (.time 41) = false ∧ Instr.wf (.time 0) = false ∧ Instr.wf (.time 40) = true := by decide
theorem test_wf_odd_address : Instr.wf (.ld ⟨8, 3, .w32, 0, 0⟩) = false ∧ Instr.wf (.atomAdd ⟨6, 3, 4⟩) = false ∧ Instr.wf (.atomCas ⟨6, 2, 5⟩) = false := by decide
theorem test_wf_data_group : Instr.wf (.ld ⟨6, 2, .w128, 0, 0⟩) = false ∧ Instr.wf (.st ⟨5, 2, .w64, 0, 0⟩) = false ∧ Instr.wf (.ld ⟨8, 2, .w128, 0, 0⟩) = true := by decide
theorem test_wf_store_size : Instr.wf (.st ⟨4, 2, .s8, 0, 0⟩) = false ∧ Instr.wf (.sts ⟨4, 2, .s16, 0, 0⟩) = false := by decide
theorem test_wf_timed_size : Instr.wf (.ldt ⟨4, 2, .w128, 0, 0⟩) = false ∧ Instr.wf (.stt ⟨4, 2, .w64, 0, 0⟩) = true := by decide
theorem test_wf_cvt_pairs : Instr.wf (.cvt ⟨3, 7, .fp32, .fp32, .none, .all⟩) = false ∧ Instr.wf (.cvt ⟨3, 7, .e4m3, .s32, .none, .all⟩) = false ∧
    Instr.wf (.cvt ⟨3, 7, .fp32, .bf16, .none, .all⟩) = true ∧ Instr.wf (.cvtBs8 ⟨9, 1, .s32, .none, .all⟩) = false := by decide
theorem test_wf_mma_overlap : Instr.wf (.mma ⟨16, 0, 40, 0⟩) = false ∧ Instr.wf (.mma ⟨24, 0, 40, 0⟩) = true ∧ Instr.wf (.mma ⟨40, 0, 33, 0⟩) = false ∧
    Instr.wf (.mma ⟨40, 0, 32, 0⟩) = false := by decide
theorem test_wf_destination_group : Instr.wf (.sectq ⟨0, 20, 0⟩) = false ∧ Instr.wf (.cstat ⟨22, 20, 0⟩) = false ∧ Instr.wf (.tex ⟨9, 2, 4, 0⟩) = false := by decide
theorem test_wf_block_span : Instr.wf (.copy ⟨48, 120, 0⟩) = false ∧ Instr.wf (.copy ⟨48, 119, 0⟩) = true ∧ Instr.wf (.gather ⟨48, 123, 0⟩) = false ∧
    Instr.wf (.wsend ⟨48, 124, 0⟩) = false ∧ Instr.wf (.wsig ⟨48, 122, 0⟩) = false := by decide
theorem test_wf_reorder_key : Instr.wf (.reorder ⟨32, 24, 5, 0⟩) = false ∧ Instr.wf (.reorder ⟨31, 24, 5, 0⟩) = true := by decide
theorem test_wf_hints : Instr.wf (.hintModifiers ⟨.all, false, false, .normal, false, .rtz, false, false, 0⟩) = false ∧
    Instr.wf (.hintModifiers ⟨.all, false, false, .normal, false, .rne, false, true, 67⟩) = false ∧
    Instr.wf (.hintScheduling ⟨false, false, 1, false, 0⟩) = false ∧ Instr.wf (.hintScheduling ⟨false, false, 0, false, 3⟩) = false := by decide
theorem test_wf_word_that_is_none : Instr.wf (.nonInstructionWord 0xF4000000) = false := by decide

/-! ## Words that the spec writes out, and what they stand for -/

theorem test_decode_integer : decode 0x00102862#32 = .ok (.add ⟨4, 5, 6, .none, .s2⟩) ∧ decode 0x2818_0850#32 = .ok (.cltn ⟨6, 1, 5, .none, .all⟩) ∧
    decode 0x84703880#32 = .ok (.mulGroup ⟨28, 7, 8⟩) ∧ decode 0x2C200879#32 = .ok (.divn ⟨8, 1, 7⟩) ∧ decode 0x2C100865#32 = .ok (.bfx ⟨4, 1, 6⟩) ∧
    decode 0xAD326576#32 = .ok (.bfxnGroup ⟨76, 76, 87⟩) ∧ decode 0xB250203C#32 = .ok (.andiGroup ⟨20, 4, 15⟩) ∧ decode 0xBA62FE00#32 = .ok (.moviGroup ⟨24, 0xBF80⟩) :=
  ⟨rfl, rfl, rfl, rfl, rfl, rfl, rfl, rfl⟩
theorem test_decode_float : decode 0x3E102860#32 = .ok (.fadd ⟨4, 5, 6, .none, .all⟩) ∧ decode 0xBE50A960#32 = .ok (.faddGroup ⟨20, 21, 22⟩) ∧
    decode 0x4A280822#32 = .ok (.fcmpLt ⟨10, 1, 2⟩) ∧ decode 0x4C081050#32 = .ok (.fsqrt ⟨2, 2, .none, .all⟩) ∧
    decode 0x500C3820#32 = .ok (.cvt ⟨3, 7, .fp32, .bf16, .none, .all⟩) ∧ decode 0x502408B0#32 = .ok (.cvtBs8 ⟨9, 1, .fp32, .none, .all⟩) :=
  ⟨rfl, rfl, rfl, rfl, rfl, rfl⟩
theorem test_decode_lanes : decode 0x54142103#32 = .ok (.shflXor ⟨5, 4, 16⟩) ∧ decode 0x5648B802#32 = .ok (.vins ⟨18, 23, 0⟩) ∧ decode 0x57306001#32 = .ok (.vext ⟨76, 12, 0⟩) ∧
    decode 0x56043003#32 = .ok (.msk ⟨1, 6⟩) := ⟨rfl, rfl, rfl, rfl⟩
theorem test_decode_memory : decode 0x5C201426#32 = .ok (.ld ⟨8, 2, .w32, 2, 6⟩) ∧ decode 0x5E2825E0#32 = .ok (.st ⟨10, 4, .w64, 14, 0⟩) ∧
    decode 0xE2A0A410#32 = .ok (.sld ⟨40, 20, .w32, 1, 0⟩) ∧ decode 0xE460E6F0#32 = .ok (.sst ⟨24, 28, .w128, 15, 0⟩) ∧ decode 0x60108E10#32 = .ok (.lds ⟨4, 17, .w128, 1, 0⟩) ∧
    decode 0x6A304400#32 = .ok (.ldt ⟨12, 8, .w32, 0, 0⟩) ∧ decode 0x6C181400#32 = .ok (.stt ⟨6, 2, .w32, 0, 0⟩) := ⟨rfl, rfl, rfl, rfl, rfl, rfl, rfl⟩
theorem test_decode_tags_and_barriers : decode 0x65E3C080#32 = .ok (.ldf ⟨120, 120, true, 0⟩) ∧ decode 0x64202810#32 = .ok (.ldc ⟨8, 5, false, 0⟩) ∧
    decode 0x642438A0#32 = .ok (.stp ⟨9, 7, true, 0⟩) ∧ decode 0xEE54A000#32 = .ok (.binit ⟨21, 20, 0⟩) ∧ decode 0xEF28D020#32 = .ok (.arrivex ⟨74, 26, 0⟩) ∧
    decode 0xEE58A030#32 = .ok (.bwait ⟨22, 20, 0⟩) := ⟨rfl, rfl, rfl, rfl, rfl, rfl⟩
theorem test_decode_atomics : decode 0x66181040#32 = .ok (.atomAdd ⟨6, 2, 4⟩) ∧ decode 0xE68161F0#32 = .ok (.satomAdd ⟨32, 44, 31⟩) ∧
    decode 0xF6896212#32 = .ok (.swaitvGen ⟨34, 44, 33⟩) ∧ decode 0xF69D4250#32 = .ok (.swaitvEq ⟨39, 40, 37⟩) := ⟨rfl, rfl, rfl, rfl⟩
theorem test_decode_control : decode 0xD203FFF7#32 = .ok (.bra 0x3FFF7) ∧ decode 0xD6B80009#32 = .ok (.brnz ⟨46, 9⟩) ∧ decode 0xE000A020#32 = .ok (.setc 20) ∧
    decode 0xE001F080#32 = .ok (.cont 62) ∧ decode 0xE003C890#32 = .ok (.resume 121) ∧ decode 0xE1F000A0#32 = .ok (.srd ⟨124, 0⟩) ∧
    decode 0xE00BE8B0#32 = .ok (.swr ⟨2, 125⟩) ∧ decode 0xE002A120#32 = .ok (.twait 84) := ⟨rfl, rfl, rfl, rfl, rfl, rfl, rfl, rfl⟩
theorem test_decode_matrix_and_render : decode 0x6EA00182#32 = .ok (.mma ⟨40, 0, 24, 2⟩) ∧ decode 0x70A00180#32 = .ok (.mmaz ⟨40, 0, 24, 0⟩) ∧
    decode 0x7230C050#32 = .ok (.reorder ⟨12, 24, 5, 0⟩) ∧ decode 0x74201042#32 = .ok (.tex ⟨8, 2, 4, 2⟩) ∧ decode 0x76504000#32 = .ok (.emitp ⟨20, 8, 0⟩) ∧
    decode 0x76302010#32 = .ok (.texq ⟨12, 4, 0⟩) := ⟨rfl, rfl, rfl, rfl, rfl, rfl⟩
theorem test_decode_sections_and_engines : decode 0xF058A012#32 = .ok (.enter ⟨22, 20, 2⟩) ∧ decode 0xF000A020#32 = .ok (.leave ⟨20, 0⟩) ∧ decode 0xF060A050#32 = .ok (.sectq ⟨24, 20, 0⟩) ∧
    decode 0xF058A000#32 = .ok (.seqtake ⟨22, 20, 0⟩) ∧ decode 0xECC10000#32 = .ok (.copy ⟨48, 32, 0⟩) ∧ decode 0xED1E3030#32 = .ok (.eqry ⟨71, 70, 0⟩) ∧
    decode 0xECC10070#32 = .ok (.wsend ⟨48, 32, 0⟩) ∧ decode 0xEA58A022#32 = .ok (.clinv ⟨22, 20, 2⟩) ∧ decode 0xE8000050#32 = .ok (.fenceRel .cluster) :=
  ⟨rfl, rfl, rfl, rfl, rfl, rfl, rfl, rfl, rfl⟩
theorem test_decode_hints : decode 0xFE000208#32 = .ok (.hintWideImmediate 0x208) ∧
    decode 0xFEA01840#32 = .ok (.hintModifiers ⟨.s1, false, false, .normal, false, .rne, false, true, 66⟩) := ⟨rfl, rfl⟩
theorem test_decode_refuses : decode 0xF4000000#32 = .error .reservedOpcode ∧ decode 0x72E0C050#32 = .error .illFormed := ⟨rfl, rfl⟩

/-! ## A small machine: one swell in slot 5 of core 0, with one fragment whose lanes 0 and 1 are active -/

def demoBay : Bay := { entry := 0x10000, args := 0, done := 0, tasks := 1, rect := 0, pri := 0, flags := 0, row0 := 0, col0 := 0, rows := 1, cols := 1, regs := 40, swells := 1, scratch := 0, l1 := 0 }
def demoLaunch : Launch := { ctx := 0, handle := 1, bayVa := 0x10000, bay := demoBay, prow := 0, pcol := 0, pilot := false, st := .running, started := 1, ended := 0, donated := 0, cursors := [], ran := [], frame := none, doneStep := 0 }
/-- The fragment: lanes 0 and 1, at 0x1_0000_0100. -/
def demoFrag : Frag := { Frag.free with valid := true, pc := 0x100000100, rep := 0x100000100, mask := 3 }
/-- The swell: V2 holds word addresses of page 1 with V3 0, and V6 the address one above the scratch space. -/
def demoSwell : Swell :=
  let w := (freshSwell demoLaunch 1 .group 0 40 0x100000100 3).setSList 20 [0x10000, 0, 2, 0x01000000, 3, 1, 0x30000, 0, 0x20000, 0, 256, 5]
  let w := (w.setSList 40 [0, 1, 1, 0, 2, 0, 3, 0, 255, 0, 256, 0]).setS 67 0x100000 |>.setS 80 0x40000
  { (w.setV 0xFFFFFFFF 2 (rowOf fun l => BitVec.ofNat 32 (0x10000 + 4 * l.val))).setV 0xFFFFFFFF 6 (Vector.replicate 32 0x2000000) with uid := 9, nextOp := 3 }
/-- A leaf that maps a frame with every permission: SCOPE, CLASS and MS in bits 59:56. -/
def demoLeaf (code frame : Nat) : Addr := BitVec.ofNat 64 (0xE070000000008000 + code * 2 ^ 56 + frame * 2 ^ 16)
/-- Page 1 is DP at frame 2 of die 0, page 2 UCR at frame 3 of die 1, page 3 UCR with MS at frame 4 of die 0, page 4 UCR with MS at frame 6 of die 1, and the code page DP at frame 5. -/
def demoTlb : List TlbEnt :=
  [⟨0, 1, false, demoLeaf 0 2⟩, ⟨0, 2, false, demoLeaf 0xA (0x40000000 + 3)⟩, ⟨0, 3, false, demoLeaf 0xB 4⟩, ⟨0, 4, false, demoLeaf 0xB (0x40000000 + 6)⟩, ⟨0, 0x10000, false, demoLeaf 0 5⟩]
/-- The machine: core 0 translates the pages and has a scratch part of 256 KiB for the context; the word at the fragment's PC is ADD V4, V5, V6 ?S2. -/
def demoBase : State := { State.reset with mem := [(0x50100, 0x62), (0x50101, 0x28), (0x50102, 0x10)], cores := [(0, { Core.init with tlb := demoTlb, ctx := some 0, bndScr := 0x40000, bndTop := 0x40000 })], launches := [(1, demoLaunch)], nextMsg := 2 }
/-- A swell placed in the machine. -/
def on (b : State) (w : Swell) : State := { b with swells := [(5, w)], cur := ⟨5, w.uid, 0⟩ }
/-- The swell with another first fragment. -/
def demoOf (g : Frag → Frag) : Swell := demoSwell.setEnt 0 (g demoFrag)
/-- The fragment once a HINT has come. -/
def hinted (h : HintWord) (f : Frag) : Frag := { f with hints := ⟨some f.pc, [h]⟩, pc := nextPc f.pc }
/-- The plain swell and machine. -/
def w0 : Swell := demoOf id
def s0 : State := on demoBase w0

theorem runs_on (b : State) (w : Swell) (h : (w.ent 0).live = true ∧ ((w.ent 0).st = 0 ∨ (w.ent 0).st = 5)) : Runs (on b w) w (w.ent 0) where
  frag := by simp [State.fragAt, State.swellAt, FragId.swell, on, kvGet, h.1]
  running := h.2

theorem ready_on {b : State} {w : Swell} {fm : Form} {regs : List Nat}
    (h : ((w.ent 0).live = true ∧ ((w.ent 0).st = 0 ∨ (w.ent 0).st = 5)) ∧ (∀ x ∈ (w.ent 0).hints.words, fm.accepts x = true) ∧ ∀ r ∈ regs, r < w.n) :
    Ready (on b w) w (w.ent 0) fm regs where
  toRuns := runs_on b w h.1
  hints := h.2.1
  range := h.2.2

/-- A fragment that is ready for a word of a form that names these V registers. -/
abbrev Meets (w : Swell) (fm : Form) (regs : List Nat) : Prop := Ready (on demoBase w) w (w.ent 0) fm regs

theorem test_meets_DecodeOfEncode : Instr.isWord (.rshade ⟨3, 2, 0⟩) = true ∧ Instr.wf (.rshade ⟨3, 2, 0⟩) = true := by decide
theorem test_meets_EncodeOfDecode : decode 0xE000A120#32 = .ok (.twait 20) := rfl
theorem test_meets_ReservedOpcodesAreRefused : ([0x7DFFFFFF, 0x7E000000, 0xF4000000, 0xF9FFFFFF, 0xFB000000, 0xFC000000] : List Word).map (fun x => x.toNat / 2 ^ 25) =
    [0x3E, 0x3F, 0x7A, 0x7C, 0x7D, 0x7E] ∧ (0xFF800000 : Word).toNat / 2 ^ 23 = 0x1FF := by decide
theorem test_meets_IntegerWordsCompute : (∃ g, laneHpOp (.prmt ⟨39, 0, 39, .c, .s3⟩) = some (⟨39, 0, 39, .c, .s3⟩, g)) ∧
    Meets w0 (hpForm false ⟨39, 0, 39, .c, .s3⟩) [39, 0, 39] ∧ (∃ g, laneRegOp (.bfi ⟨0, 39, 1⟩) = some (⟨0, 39, 1⟩, g)) ∧ Meets w0 { pmx := true, writes := [0] } [0, 39, 1] :=
  ⟨⟨_, rfl⟩, ready_on (by decide +kernel), ⟨_, rfl⟩, ready_on (by decide +kernel)⟩
theorem test_meets_GroupIntegerWordsCompute : (∃ g, groupRegOp (.bfiGroup ⟨0, 127, 1⟩) = some (⟨0, 127, 1⟩, g)) ∧ Meets w0 {} [] := ⟨⟨_, rfl⟩, ready_on (by decide +kernel)⟩
theorem test_meets_DivisionWritesQuotientAndRemainder : (∃ g, lanePairOp (.divs ⟨38, 39, 0⟩) = some (⟨38, 39, 0⟩, g)) ∧ Meets w0 { pmx := true, writes := [38, 39] } [39, 39, 0] ∧
    (∃ g, groupPairOp (.divnGroup ⟨126, 127, 0⟩) = some (⟨126, 127, 0⟩, g)) ∧ Meets w0 {} [] := ⟨⟨_, rfl⟩, ready_on (by decide +kernel), ⟨_, rfl⟩, ready_on (by decide +kernel)⟩
theorem test_meets_OneOperandIntegerWordsCompute : (∃ g, laneFunOp (.zexth ⟨39, 0, .a, .s1⟩) = some (⟨39, 0, .a, .s1⟩, g)) ∧ Meets w0 (funForm false ⟨39, 0, .a, .s1⟩) [39, 0] ∧
    (∃ g, groupFunOp (.movGroup ⟨0, 127⟩) = some (⟨0, 127⟩, g)) := ⟨⟨_, rfl⟩, ready_on (by decide +kernel), ⟨_, rfl⟩⟩
theorem test_meets_ImmediateWordsCompute : (∃ k g, laneImmOp (.cmpiLen ⟨39, 0, 63, .all⟩) = some (39, 0, .all, k, g)) ∧ Meets (demoOf (hinted (.wide 0x7FFFFF))) { wide := true, writes := [39] } [39, 0] ∧
    (∃ k g, groupImmOp (.addiGroup ⟨0, 127, 256⟩) = some (0, 127, k, g)) ∧ (∃ g, laneShiftOp (.srai ⟨39, 0, 31, .s2⟩) = some (⟨39, 0, 31, .s2⟩, g)) ∧ Meets w0 { writes := [39] } [39, 0] ∧
    (∃ g, groupShiftOp (.roliGroup ⟨0, 127, 0⟩) = some (⟨0, 127, 0⟩, g)) ∧ Meets (demoOf (hinted (.wide 0x00FFFF))) { wide := true, writes := [39] } [39] ∧
    Meets (demoOf (hinted (.wide 0x010000))) { wide := true } [] ∧ ((demoOf (hinted (.wide 0x010000))).ent 0).hints.wide = some 0x10000 ∧ ((demoOf (hinted (.wide 0x010000))).ent 0).outst = [] :=
  ⟨⟨_, _, rfl⟩, ready_on (by decide +kernel), ⟨_, _, rfl⟩, ⟨_, rfl⟩, ready_on (by decide +kernel), ⟨_, rfl⟩, ready_on (by decide +kernel), ready_on (by decide +kernel), by decide +kernel, by decide +kernel⟩
/-- A modifiers HINT that rounds up and saturates under S2. -/
def roundUp : HintWord := .mods ⟨.s2, false, false, .normal, true, .rup, true, false, 0⟩
theorem test_meets_FloatWordsCompute : (∃ g, laneFloatOp (.ffma ⟨39, 0, 39, .c, .all⟩) = some (⟨39, 0, 39, .c, .all⟩, g)) ∧ Meets w0 (hpForm true ⟨39, 0, 39, .c, .all⟩) [39, 0, 39] ∧
    (∃ g, laneFloatRegOp (.h2fma ⟨0, 39, 39⟩) = some (⟨0, 39, 39⟩, g)) ∧ Meets (demoOf (hinted roundUp)) { pmx := true, rse := true, writes := [0] } [0, 39, 39] :=
  ⟨⟨_, rfl⟩, ready_on (by decide +kernel), ⟨_, rfl⟩, ready_on (by decide +kernel)⟩
theorem test_meets_GroupFloatWordsCompute : (∃ g, groupFloatOp (.fdivGroup ⟨0, 127, 1⟩) = some (⟨0, 127, 1⟩, g)) ∧ Meets w0 { rse := true } [] ∧
    (∃ g, groupFloatFunOp (.cvtGroup ⟨0, 127, .fp32, .bf16⟩) = some (⟨0, 127⟩, g)) := ⟨⟨_, rfl⟩, ready_on (by decide +kernel), ⟨_, rfl⟩⟩
theorem test_meets_OneOperandFloatWordsCompute : (∃ g, laneFloatFunOp (.cvt ⟨39, 0, .fp32, .n8, .a, .s1⟩) = some (⟨39, 0, .a, .s1⟩, g)) ∧ Meets w0 (funForm true ⟨39, 0, .a, .s1⟩) [39, 0] ∧
    (∃ o : CvtBlkPM, Instr.cvtBs4 o = .cvtBs4 ⟨39, 0, .bf16, .none, .all⟩ ∧ Meets w0 (funForm true ⟨o.d, o.a, o.hold, o.pm⟩) [o.d.toNat, o.a.toNat]) :=
  ⟨⟨_, rfl⟩, ready_on (by decide +kernel), ⟨39, 0, .bf16, .none, .all⟩, rfl, ready_on (by decide +kernel)⟩
theorem test_meets_RoundingIsToTheNearestOrDirected : (∃ m k : Nat, 0 < m ∧ 2 * (m % 2 ^ k) = 2 ^ k ∧ (roundAt ⟨false, m, -(k : Int), false⟩ 0 .rne).1 = 2) ∧ Spec.Finite32 0xFF7FFFFF ∧ Spec.Finite32 1 ∧ Spec.Nan32 0x7F800001 ∧
    Spec.val32 1 ≠ 0 ∧ Spec.val32 0x80000000 = 0 := ⟨⟨5, 1, by decide⟩, by unfold Spec.Finite32; decide, by unfold Spec.Finite32; decide, by unfold Spec.Nan32; decide, by decide⟩
theorem test_meets_LaneMovesMoveLanes : Meets w0 { pmx := true, writes := [39] } [39, 0, 39] ∧ Meets (demoOf (hinted roundUp)) { pmx := true, rse := true } [39] ∧ Meets w0 { pmx := true } [39] :=
  ⟨ready_on (by decide +kernel), ready_on (by decide +kernel), ready_on (by decide +kernel)⟩
theorem test_meets_ComputedRegisterIndexIsChecked : w0.n ≤ 128 ∧ (34 + (w0.sreg 31).toNat < w0.n ∧ Meets w0 { pmx := true, writes := [39] } [39]) ∧ (w0.n ≤ 35 + (w0.sreg 31).toNat ∧ (w0.ent 0).outst = []) :=
  ⟨by decide +kernel, ⟨by decide +kernel, ready_on (by decide +kernel)⟩, by decide +kernel, by decide +kernel⟩
theorem test_meets_NeighbourIndexIsReadAndWritten : Meets w0 { rse := true, writes := [39] } [39] ∧ Meets w0 { rse := true, hold := holdReg .a 39 39 39 } [39] := ⟨ready_on (by decide +kernel), ready_on (by decide +kernel)⟩
theorem test_meets_DerivativesSubtractAcrossThePair : Meets w0 (funForm true ⟨39, 0, .a, .s3⟩) [39, 0] := ready_on (by decide +kernel)
theorem test_meets_BranchesGoWhereTheRuleSays : Meets (demoOf (hinted (.wide 0x7FFFFF))) { wide := true } [] ∧ Meets w0 {} [] ∧ (w0.sreg 20).toNat % 4 = 0 ∧ (w0.sreg 22).toNat % 4 ≠ 0 ∧ (w0.ent 0).outst = [] :=
  ⟨ready_on (by decide +kernel), ready_on (by decide +kernel), by decide +kernel, by decide +kernel, by decide +kernel⟩
/-- The swell with n further entries like another fragment. -/
def crowd (n : Nat) (g : Frag) (w : Swell) : Swell := (List.range n).foldl (fun w i => w.setEnt (i + 1) g) w
theorem test_meets_SplitDividesTheFragment : Meets w0 { wide := true } [] ∧ (w0.ent 0).priv = 0 ∧ w0.sreg 21 &&& 3 = 0 ∧ w0.sreg 24 &&& 3 = 3 ∧ w0.sreg 25 &&& 3 = 1 ∧
    (((crowd 6 demoFrag w0).ent 7).valid = false ∧ ∀ i < 7, ((crowd 6 demoFrag w0).ent i).valid = true) ∧ (∀ i < 8, ((crowd 7 demoFrag w0).ent i).valid = true) ∧
    Meets (crowd 7 demoFrag w0) { wide := true } [] :=
  ⟨ready_on (by decide +kernel), by decide +kernel, by decide +kernel, by decide +kernel, by decide +kernel, by decide +kernel, by decide +kernel, ready_on (by decide +kernel)⟩
/-- A fragment at its FUSE, the younger half of a split. -/
def latePend : Pending := ⟨true, false, 255, 0, 9, 0, 0, false, 7⟩
def fusing (f : Frag) : Frag := { f with recon := f.pc, part := 1, new := true, opart := 1 }
def partner : Frag := { demoFrag with st := 2, recon := demoFrag.pc, mask := 12 }
def holding (f : Frag) : Frag := { fusing f with held0 := ⟨true, 0x40, 0⟩ }
theorem test_meets_FuseWaitsAndMerges : Meets w0 {} [] ∧ (w0.ent 0).priv = 0 ∧ (w0.ent 0).recon = 0 ∧
    (let w := demoOf fusing; let f := w.ent 0; Meets w {} [] ∧ f.recon ≠ 0 ∧ f.recon = f.pc ∧ f.heldKeys = [] ∧ (w.ent f.part.toNat).valid = false ∧ f.part.toNat ≠ 0) ∧
    (let w := (demoOf fusing).setEnt 1 partner; let f := w.ent 0; Meets w {} [] ∧ (w.ent 1).live = true ∧ (w.ent 1).part.toNat = 0 ∧ (w.ent 1).st = 2 ∧ (w.ent 1).recon = f.pc ∧ f.new = true ∧
      (w.ent 1).new = false ∧ f.opart = 1) ∧
    (let w := demoOf holding; Meets w {} [] ∧ (w.ent 0).heldLow = some 0x40 ∧ (w.ent 0).outst = []) ∧ (let w := { demoOf fusing with pend := latePend }; Meets w {} [] ∧ w.pend.late = true ∧ (w.ent 0).recon = (w.ent 0).pc) :=
  ⟨ready_on (by decide +kernel), by decide +kernel, by decide +kernel, ⟨ready_on (by decide +kernel), by decide +kernel⟩, ⟨ready_on (by decide +kernel), by decide +kernel⟩, ⟨ready_on (by decide +kernel), by decide +kernel⟩, ready_on (by decide +kernel), by decide +kernel⟩
/-- A fault of lane 31; a fragment in its handler, and one whose fault is held. -/
def aFault (c : FaultCode) : FaultRec := ⟨c, 0x10040, 31, true, false⟩
def handling (f : Frag) : Frag := { f with st := 5, priv := 1 }
def faulted : Frag := { demoFrag with st := 4, heldFault := some (aFault .perm) }
/-- The partner of the fragment that is not at its FUSE, that waits there, and that has exited. -/
def apart : Swell := (demoOf fusing).setEnt 1 { partner with st := 0 }
def beside : Swell := (demoOf fusing).setEnt 1 partner
def widowed : Swell := (demoOf fusing).setEnt 1 { partner with st := 3, mask := 0 }
theorem test_meets_ExitRetiresLanesAndEndsTheSwell : (Meets w0 {} [] ∧ (w0.ent 0).heldKeys = [] ∧ w0.liveEnts = [0] ∧ ∀ i < 8, (w0.ent i).valid = true → i = 0) ∧
    (Meets apart {} [] ∧ (apart.ent 0).heldKeys = [] ∧ (apart.ent 0).priv = 0 ∧ (apart.ent 0).part = 1 ∧ (apart.ent 1).live = true ∧ (apart.ent 1).st = 0 ∧ (apart.ent 1).part.toNat = 0 ∧ apart.liveEnts ≠ [0]) ∧
    (let w := { apart with pend := latePend }; Meets w {} [] ∧ w.pend.late = true ∧ w.liveEnts ≠ [0]) ∧
    (Meets beside {} [] ∧ (beside.ent 0).heldKeys = [] ∧ (beside.ent 1).valid = true ∧ (beside.ent 1).part.toNat = 0 ∧ (beside.ent 1).st = 2 ∧ (beside.ent 1).recon = (beside.ent 1).pc) ∧
    (Meets widowed {} [] ∧ (widowed.ent 0).heldKeys = [] ∧ widowed.liveEnts = [0] ∧ (widowed.ent 1).valid = true) ∧
    (let w := widowed.setEnt 2 demoFrag; Meets w {} [] ∧ (w.ent 0).heldKeys = [] ∧ (w.ent 1).st = 3 ∧ (w.ent 1).valid = true ∧ (w.ent 1).part.toNat = 0 ∧ w.liveEnts ≠ [0]) ∧
    (let w := (demoOf handling).setEnt 1 { partner with st := 0 }; Meets w {} [] ∧ (w.ent 0).priv ≠ 0 ∧ (w.ent 0).part.toNat = 0 ∧ w.liveEnts ≠ [0] ∧ ∀ i < 8, i ≠ 0 → (w.ent i).st ≠ 4) ∧
    (let w := (demoOf handling).setEnt 7 faulted; Meets w {} [] ∧ (w.ent 7).valid = true ∧ (w.ent 7).st = 4 ∧ (w.ent 7).heldFault = some (aFault .perm) ∧ w.liveEnts ≠ [0] ∧ ∀ i < 7, i ≠ 0 → ¬((w.ent i).valid = true ∧ (w.ent i).st = 4)) ∧
    (let w := demoOf holding; Meets w {} [] ∧ (w.ent 0).heldLow = some 0x40) :=
  ⟨⟨ready_on (by decide +kernel), by decide +kernel⟩, ⟨ready_on (by decide +kernel), by decide +kernel⟩, ⟨ready_on (by decide +kernel), by decide +kernel⟩, ⟨ready_on (by decide +kernel), by decide +kernel⟩, ⟨ready_on (by decide +kernel), by decide +kernel⟩,
    ⟨ready_on (by decide +kernel), by decide +kernel⟩, ⟨ready_on (by decide +kernel), by decide +kernel⟩, ⟨ready_on (by decide +kernel), by decide +kernel⟩, ready_on (by decide +kernel), by decide +kernel⟩
theorem test_meets_FormatAndConfigurationWords : Meets w0 {} [] := ready_on (by decide +kernel)
/-- A fragment to whose region page 1 was denied. -/
def denied (f : Frag) : Frag := { f with denied := [⟨1, f.rep, false, false⟩] }
theorem test_meets_NopYieldContRegionResume : Meets w0 {} [] ∧ (w0.ent 0).outst = [] ∧ (w0.ent 0).priv = 0 ∧ (w0.sreg 20).toNat % 4 = 0 ∧ (w0.sreg 22).toNat % 4 ≠ 0 ∧
    (let w := demoOf denied; Meets w {} [] ∧ (w.ent 0).outst = [] ∧ (w.ent 0).denied = [⟨1, 0x100000100, false, false⟩]) := ⟨ready_on (by decide +kernel), by decide +kernel, by decide +kernel, by decide +kernel, by decide +kernel, ready_on (by decide +kernel), by decide +kernel⟩
theorem test_meets_TrapsEnterTheHandler : Meets w0 {} [] ∧ (w0.ent 0).outst = [] ∧ w0.busy = false := ⟨ready_on (by decide +kernel), by decide +kernel⟩
theorem test_meets_FaultsEnterTheHandlerOrAreHeld : Runs s0 w0 (w0.ent 0) ∧ (aFault .perm).code ≠ .xlate ∧ (aFault .perm).lane < 32 ∧ w0.busy = false ∧
    (let w := { w0 with busy := true, busyEnt := 7 }; Runs (on demoBase w) w (w.ent 0) ∧ w.busyEnt.toNat ≠ 0) ∧ (let w := { w0 with busy := true, busyEnt := 0 }; Runs (on demoBase w) w (w.ent 0) ∧ w.busyEnt.toNat = 0) ∧
    (s0.ctx 0).elhead - (s0.ctx 0).eltail ≠ 256 :=
  ⟨runs_on _ _ (by decide +kernel), by decide, by decide, by decide +kernel, ⟨runs_on _ { w0 with busy := true, busyEnt := 7 } (by decide +kernel), by decide⟩,
    ⟨runs_on _ { w0 with busy := true, busyEnt := 0 } (by decide +kernel), by decide⟩, by decide +kernel⟩
theorem test_meets_RestartableFaultReturnsToTheRegion : Runs s0 w0 (w0.ent 0) ∧ (aFault .xlate).code = .xlate ∧ (w0.ent 0).refused 1 = false ∧ w0.cont = 0 ∧
    (let w := { w0 with cont := 4 }; Runs (on demoBase w) w (w.ent 0) ∧ w.cont ≠ 0 ∧ w.contMark = false ∧ (w.ent 0).priv = 0) ∧
    (let w := demoOf denied; Runs (on demoBase w) w (w.ent 0) ∧ (aFault .xlate).lane < 32 ∧ (w.ent 0).refused ((aFault .xlate).fval.toNat / 65536) = true ∧ w.busy = false) :=
  ⟨runs_on _ _ (by decide +kernel), by decide, by decide +kernel, by decide +kernel, ⟨runs_on _ { w0 with cont := 4 } (by decide +kernel), by decide +kernel⟩, runs_on _ (demoOf denied) (by decide +kernel), by decide +kernel⟩
theorem test_meets_EretReturnsFromTheHandler : (let w := demoOf handling; Meets w {} [] ∧ (w.ent 0).priv ≠ 0 ∧ ∀ e < 8, e ≠ 0 → (w.ent e).st ≠ 4) ∧
    (let w := (demoOf handling).setEnt 7 faulted; Meets w {} [] ∧ (w.ent 7).valid = true ∧ (w.ent 7).st = 4 ∧ (∀ e < 7, e ≠ 0 → ¬((w.ent e).valid = true ∧ (w.ent e).st = 4)) ∧ (w.ent 7).heldFault = some (aFault .perm)) ∧
    (Meets w0 {} [] ∧ (w0.ent 0).priv = 0 ∧ (w0.ent 0).outst = []) :=
  ⟨⟨ready_on (by decide +kernel), by decide +kernel⟩, ⟨ready_on (by decide +kernel), by decide +kernel⟩, ready_on (by decide +kernel), by decide +kernel⟩
theorem test_meets_PrivilegeIsChecked : (Meets w0 {} [] ∧ (w0.ent 0).outst = [] ∧ (w0.ent 0).priv = 0) ∧ (let w := demoOf handling; Meets w { wide := true } [] ∧ Meets w {} [] ∧ (w.ent 0).outst = [] ∧ (w.ent 0).priv ≠ 0) :=
  ⟨⟨ready_on (by decide +kernel), by decide +kernel⟩, ready_on (by decide +kernel), ready_on (by decide +kernel), by decide +kernel⟩
theorem test_meets_SystemRegistersReadAsListed : Meets w0 {} [] ∧ (0x1A, false, w0.window.toNat) ∈ Spec.sysRegs s0 s0.cur w0 (w0.ent 0) ∧ (0x00, false, w0.fcause.toNat) ∈ Spec.sysRegs s0 s0.cur w0 (w0.ent 0) ∧
    (let w := demoOf handling; Meets w {} [] ∧ (w.ent 0).priv ≠ 0 ∧ (w.ent 0).outst = []) ∧ (w0.ent 0).outst = [] ∧ (w0.ent 0).priv = 0 :=
  ⟨ready_on (by decide +kernel), by simp [Spec.sysRegs], by simp [Spec.sysRegs], ⟨ready_on (by decide +kernel), by decide +kernel⟩, by decide +kernel⟩
theorem test_meets_SystemRegistersWriteAsListed : Meets w0 {} [] ∧ (w0.ent 0).priv = 0 ∧ (w0.ent 0).outst = [] ∧ (let w := demoOf handling; Meets w {} [] ∧ (w.ent 0).priv ≠ 0 ∧ (w.ent 0).outst = []) :=
  ⟨ready_on (by decide +kernel), by decide +kernel, by decide +kernel, ready_on (by decide +kernel), by decide +kernel⟩
theorem test_meets_TlbiRemovesTranslations : (let w := demoOf handling; Meets w {} [] ∧ (w.ent 0).priv ≠ 0 ∧ (w.ent 0).outst = [] ∧ (w.spair 20).toNat < 2 ^ 56 ∧ 2 ^ 56 ≤ (w.spair 22).toNat ∧ (w.ent 0).tlbi = none ∧ (on demoBase w).msgs = [] ∧
    (∀ x ∈ (on demoBase w).swells, ∀ e, (x.2.ent e).outst = []) ∧ (∀ x ∈ (on demoBase w).cores, ∀ l ∈ x.2.l1, l.dirty = 0) ∧ ∀ x ∈ (on demoBase w).dies, ∀ l ∈ x.2.partition, l.dirty = 0) ∧
    (let w := demoOf fun f => { handling f with tlbi := some ⟨0, [], 2⟩ }; Meets w {} [] ∧ (w.ent 0).tlbi ≠ none ∧ ∀ e < 8, (w.ent e).outst = []) := by
  refine ⟨?_, ready_on (by decide +kernel), by decide +kernel⟩
  refine ⟨ready_on (by decide +kernel), by decide +kernel, by decide +kernel, by decide +kernel, by decide +kernel, by decide +kernel, rfl, fun x hx e => ?_, by decide, by decide⟩
  obtain rfl := List.mem_singleton.mp hx
  rcases Nat.lt_or_ge e 8 with h | h
  · exact (by decide +kernel : ∀ e < 8, ((demoOf handling).ent e).outst = []) e h
  · simp [Swell.ent, h, Frag.free]
theorem test_meets_HintsJoinTheUnit : Runs s0 w0 (w0.ent 0) ∧ (w0.ent 0).hints.wide = none ∧ (w0.ent 0).hints.mods = none ∧ (w0.ent 0).hints.sched = none ∧ (w0.ent 0).outst = [] ∧ w0.busy = false ∧
    ((demoOf (hinted (.wide 0))).ent 0).hints.wide ≠ none ∧ ((demoOf (hinted roundUp)).ent 0).hints.mods ≠ none ∧ ((demoOf (hinted (.sched ⟨true, false, 0, true, 15⟩))).ent 0).hints.sched ≠ none :=
  ⟨runs_on _ _ (by decide +kernel), by decide +kernel⟩
theorem test_meets_MisusedHintsAndRegistersFault : (∃ g, laneHpOp (.add ⟨39, 40, 127, .none, .all⟩) = some (⟨39, 40, 127, .none, .all⟩, g)) ∧ Runs s0 w0 (w0.ent 0) ∧ (w0.ent 0).outst = [] ∧
    ((demoOf (hinted (.wide 0))).ent 0).hints.words.find? (fun x => !(hpForm false ⟨39, 40, 127, .none, .all⟩).accepts x) = some (.wide 0) ∧
    ([39, 40, 127] : List Reg).find? (fun q => decide (w0.n ≤ q.toNat)) = some 40 ∧ ∀ h ∈ (w0.ent 0).hints.words, (hpForm false ⟨39, 40, 127, .none, .all⟩).accepts h = true :=
  ⟨⟨_, rfl⟩, runs_on _ _ (by decide +kernel), by decide +kernel, by decide +kernel, by decide +kernel, by decide +kernel⟩

/-! ### Fetching and memory -/

/-- The machine with the fragment picked. -/
def picked : State := { s0 with turn := ⟨0, [⟨5, 9, 0⟩]⟩ }
theorem test_meets_StepRunsTheFetchedInstruction : takeDue picked.now picked.inbox = none ∧ takeDue picked.now picked.due = none ∧ picked.turn.picked = [⟨5, 9, 0⟩] ∧
    picked.fragAt ⟨5, 9, 0⟩ = some (w0, w0.ent 0) ∧ (∃ c, eligible picked ⟨5, 9, 0⟩ = some c) ∧ nextWord picked ⟨5, 9, 0⟩ w0 (w0.ent 0) = .word 0x00102862 ∧
    decode 0x00102862#32 = .ok (.add ⟨4, 5, 6, .none, .s2⟩) ∧ decode 0xF4000000#32 = .error .reservedOpcode ∧
    laneXlat picked 0 w0.ctx false .fetch (w0.ent 0) ⟨0, 0x100000100, 4⟩ = .ok ⟨0x50100, .dp, false, 0, false⟩ ∧
    takeDue 3 [(3, Internal.enumeration)] = some (.enumeration, []) :=
  ⟨rfl, rfl, rfl, (runs_on demoBase w0 (by decide +kernel)).frag, ⟨_, rfl⟩, by decide +kernel, rfl, rfl, by decide +kernel, rfl⟩

theorem quiet_of {b : State} (h : b.msgs = [] ∧ b.badSectors = [] ∧ b.clusters = [] ∧ b.dies = []) (hw : ∀ x ∈ b.cores, x.2.badWords = []) (hf : b.due = [] := by rfl) : Quiet b := by
  obtain ⟨h1, h2, h3, h4⟩ := h
  constructor <;> first | assumption | simp [h3, h4, hf]
theorem quiet_all {b : State} (h : b.msgs = [] ∧ b.badSectors = []) (hw : ∀ x ∈ b.cores, x.2.badWords = []) (hc : ∀ x ∈ b.clusters, x.2.waiters = [] ∧ ∀ e ∈ x.2.engines.toList, e.cmds = [])
    (hd : ∀ x ∈ b.dies, (x.2.partition = [] ∧ x.2.dir = [] ∧ x.2.ros = []) ∧ (x.2.watches = [] ∧ x.2.armQueue = []) ∧ (∀ l ∈ x.2.links, l.spilled = [] ∧ l.blocked = []) ∧ (x.2.misses = [] ∧ x.2.missWait = [] ∧ x.2.waiting = []) ∧ (x.2.shelfFailed = false ∧ x.2.hbmFailed = false) ∧ x.2.hbmCopyEnd ≤ b.now)
    (hf : b.due = [] := by rfl) : Quiet b where
  msgs := h.1
  sectors := h.2
  words := hw
  waiters x hx := (hc x hx).1
  engines x hx := (hc x hx).2
  copies x hx := (hd x hx).1
  waits x hx := (hd x hx).2.1
  links x hx := (hd x hx).2.2.1
  slices x hx := (hd x hx).2.2.2.1
  failed x hx := (hd x hx).2.2.2.2.1
  channels x hx := (hd x hx).2.2.2.2.2
  flights := by simp [hf]
theorem quiet_on (w : Swell) : Quiet (on demoBase w) := quiet_of ⟨rfl, rfl, rfl, rfl⟩ (by decide : ∀ x ∈ demoBase.cores, x.2.badWords = [])
/-- Die 0 with whole lines in its slices, and the machine with the line of page 1 there. -/
def warmDie (ls : List Nat) : Die := { Die.init with slices := ls.map fun n => ⟨n, 0, BitVec.allOnes 256, 0, 0⟩ }
def warm : State := { demoBase with dies := [(0, warmDie [0x200])] }
theorem quiet_warm (w : Swell) : Quiet (on warm w) := quiet_all ⟨rfl, rfl⟩ (by decide : ∀ x ∈ warm.cores, x.2.badWords = []) (by simp [on, warm, demoBase, State.reset])
  (by simp [on, warm, warmDie, Die.init])
theorem noLines_on (w : Swell) : NoLines (on demoBase w) := (by decide : ∀ x ∈ demoBase.cores, x.2.l1 = [])
theorem hbm_of {n : Nat} {ls : List LaneLoc} (h : ∀ l ∈ ls, l.loc.host = false ∧ l.loc.die = paDie l.loc.pa ∧ inShelf l.loc.pa = false ∧ l.loc.pa % 256 + n ≤ 256) : ∀ l ∈ ls, HbmPlace n l :=
  fun l hl => ⟨(h l hl).1, (h l hl).2.1, (h l hl).2.2.1, (h l hl).2.2.2⟩
theorem direct_of {s : State} {f : Frag} {n : Nat} {ls : List LaneLoc} (h : ∀ l ∈ ls, l.loc.host = false ∧ l.loc.die = paDie l.loc.pa ∧ inShelf l.loc.pa = false ∧ l.loc.pa % 256 + n ≤ 256)
    (h' : ∀ l ∈ ls, l.loc.die = dieOfKey s.cur.key) (h0 : l1Sets (s.core (coreOfKey s.cur.key)) = 0) : ∀ l ∈ ls, Direct s f n l :=
  fun l hl => ⟨hbm_of h l hl, h' l hl, .inr (.inr (.inr h0))⟩
theorem local_of {s : State} {n : Nat} {ls : List LaneLoc} (h : ∀ l ∈ ls, l.loc.host = false ∧ l.loc.die = paDie l.loc.pa ∧ inShelf l.loc.pa = false ∧ l.loc.pa % 256 + n ≤ 256)
    (h' : ∀ l ∈ ls, l.loc.die = dieOfKey s.cur.key) : ∀ l ∈ ls, Local s n l := fun l hl => ⟨hbm_of h l hl, h' l hl⟩
theorem remote_of {s : State} {n : Nat} {ls : List LaneLoc} (h : ∀ l ∈ ls, l.loc.host = false ∧ l.loc.die = paDie l.loc.pa ∧ inShelf l.loc.pa = false ∧ l.loc.pa % 256 + n ≤ 256)
    (h' : ∀ l ∈ ls, l.loc.die ≠ dieOfKey s.cur.key) : ∀ l ∈ ls, Remote s n l := fun l hl => ⟨hbm_of h l hl, h' l hl⟩

/-- The swell with lane 0 or lane 1 active, and the swell whose V4 addresses page 2. -/
def w1 : Swell := demoOf fun f => { f with mask := 1 }
def w2 : Swell := demoOf fun f => { f with mask := 2 }
def wAway : Swell := demoSwell.setV 0xFFFFFFFF 4 (Vector.replicate 32 0x200F0) |>.setEnt 0 { demoFrag with mask := 1 }
/-- The swell whose V4 addresses the first word of page 4, and that word on die 1. -/
def wAtom : Swell := demoSwell.setV 0xFFFFFFFF 4 (Vector.replicate 32 0x40000) |>.setEnt 0 { demoFrag with mask := 1 }
def farWord : LaneLoc := ⟨0, 0x40000, ⟨0x400000060000, .ucr, true, 1, false⟩⟩
/-- Places: lanes 0 and 1 in page 1, the last bytes of a line, and page 2 on die 1. -/
def ls0 : List LaneLoc := [⟨0, 0x10000, ⟨0x20000, .dp, false, 0, false⟩⟩, ⟨1, 0x10004, ⟨0x20004, .dp, false, 0, false⟩⟩]
def away : LaneLoc := ⟨0, 0x200F0, ⟨0x4000000300F0, .ucr, false, 1, false⟩⟩
theorem test_meets_LoadsReadTheirBytes : Quiet s0 ∧ NoLines s0 ∧ (w0.ent 0).outst = [] ∧ (∀ l ∈ ls0, Direct s0 (w0.ent 0) 4 l) ∧
    (let s := on warm w0; Quiet s ∧ NoLines s ∧ (∀ l ∈ ls0, Direct s (w0.ent 0) 4 l) ∧ Ready s w0 (w0.ent 0) { wide := true, pmx := true, acq := true, cp := true } [39, 3] ∧
      Placed s w0 (w0.ent 0) .load (memLanes w0 (w0.ent 0) ⟨39, 2, .w32, 0, 0⟩) ls0 ∧ ∀ l ∈ ls0, homeHas s l.loc 4 = true) ∧ homeHas s0 ⟨0x20038, .dp, false, 0, false⟩ 8 = false ∧
    Meets w0 { wide := true, pmx := true, acq := true, cp := true } [39, 3] ∧ Placed s0 w0 (w0.ent 0) .load (memLanes w0 (w0.ent 0) ⟨39, 2, .w32, 0, 0⟩) ls0 ∧
    Meets w0 { wide := true, acq := true, cp := true } [] ∧ Placed s0 w0 (w0.ent 0) .load (memGroup w0 (w0.ent 0) ⟨126, 20, .w64, 7, 0⟩) [⟨0, 0x10038, ⟨0x20038, .dp, false, 0, false⟩⟩] ∧
    (∀ l ∈ [(⟨0, 0x10038, ⟨0x20038, .dp, false, 0, false⟩⟩ : LaneLoc)], Direct s0 (w0.ent 0) 8 l) :=
  ⟨quiet_on _, noLines_on _, by decide +kernel, direct_of (by decide +kernel) (by decide +kernel) (by decide +kernel),
    ⟨quiet_warm _, noLines_on w0, direct_of (by decide +kernel) (by decide +kernel) (by decide +kernel), ready_on (by decide +kernel), by rfl, by decide +kernel⟩, by decide +kernel,
    ready_on (by decide +kernel), by rfl, ready_on (by decide +kernel), by rfl,
    direct_of (by decide +kernel) (by decide +kernel) (by decide +kernel)⟩
theorem test_meets_LoadedBytesBecomeRegisterValues : ([0x80] : List Byte).length = 1 ∧ ([0xFF, 0x80] : List Byte).length = 2 ∧ ([0, 0, 0, 0x80] : List Byte).length = 4 := by decide
theorem test_meets_StoresWriteTheirBytes : Quiet s0 ∧ NoLines s0 ∧ (w0.ent 0).outst = [] ∧ (∀ l ∈ ls0, Direct s0 (w0.ent 0) 4 l) ∧
    Meets w0 { wide := true, pmx := true, rel := true, cp := true } [39, 3] ∧ Placed s0 w0 (w0.ent 0) .store (memLanes w0 (w0.ent 0) ⟨39, 2, .w32, 0, 0⟩) ls0 ∧
    Meets w0 { wide := true, rel := true, cp := true } [] ∧ Placed s0 w0 (w0.ent 0) .store (memGroup w0 (w0.ent 0) ⟨126, 20, .w64, 7, 0⟩) [⟨0, 0x10038, ⟨0x20038, .dp, false, 0, false⟩⟩] :=
  ⟨quiet_on _, noLines_on _, by decide +kernel, direct_of (by decide +kernel) (by decide +kernel) (by decide +kernel), ready_on (by decide +kernel), by rfl, ready_on (by decide +kernel), by rfl⟩
/-- The machine whose core 0 has an L1 of 16 sets. -/
def cached : State := { s0 with cores := [(0, { Core.init with tlb := demoTlb, ctx := some 0, bndScr := 0x40000, bndTop := 0x50000 })] }
theorem test_meets_StoresAreKeptOrPosted : Quiet cached ∧ NoLines cached ∧ (w1.ent 0).outst = [] ∧ Meets w1 { wide := true, pmx := true, rel := true, cp := true } [39, 3] ∧
    (let s := on cached w1; Placed s w1 (w1.ent 0) .store (memLanes w1 (w1.ent 0) ⟨39, 2, .w32, 0, 0⟩) [⟨0, 0x10000, ⟨0x20000, .dp, false, 0, false⟩⟩] ∧ (w1.ent 0).cp = .normal ∧ l1Sets (s.core 0) = 16) ∧
    (∀ l ∈ [away], Remote (on demoBase wAway) 16 l) ∧ Placed (on demoBase wAway) wAway (wAway.ent 0) .store (memLanes wAway (wAway.ent 0) ⟨36, 4, .w128, 0, 0⟩) [away] ∧ away.loc.cls = .ucr ∧
    Meets wAway { wide := true, pmx := true, rel := true, cp := true } [39, 5] :=
  ⟨quiet_of ⟨rfl, rfl, rfl, rfl⟩ (by decide +kernel), (by decide +kernel : ∀ x ∈ cached.cores, x.2.l1 = []), by decide +kernel, ready_on (by decide +kernel), ⟨by rfl, by decide +kernel, by decide +kernel⟩, remote_of (by decide +kernel) (by decide +kernel), by rfl, rfl, ready_on (by decide +kernel)⟩
theorem test_meets_LoadsFromAfarAreOutstanding : Quiet s0 ∧ NoLines s0 ∧ (wAway.ent 0).outst = [] ∧ (∀ l ∈ [away], Remote (on demoBase wAway) 16 l) ∧
    Placed (on demoBase wAway) wAway (wAway.ent 0) .load (memLanes wAway (wAway.ent 0) ⟨36, 4, .w128, 0, 15⟩) [away] ∧ Meets wAway { wide := true, pmx := true, acq := true, cp := true } [39, 5] ∧
    Placed (on demoBase wAway) wAway (wAway.ent 0) .load (memGroup wAway (wAway.ent 0) ⟨126, 28, .w32, 0, 0⟩) [⟨0, 0x20000, ⟨0x400000030000, .ucr, false, 1, false⟩⟩] :=
  ⟨quiet_on _, noLines_on _, by decide +kernel, remote_of (by decide +kernel) (by decide +kernel), by rfl, ready_on (by decide +kernel), by rfl⟩
theorem test_meets_MemoryChecksComeBeforeTheAccess : (w0.ent 0).outst = [] ∧ Meets w0 { pmx := true, acq := true, rel := true, lae := true } [39, 3, 0] ∧ Meets w0 { pmx := true, acq := true, lae := true, noTpe := true } [39, 3, 0] ∧ Meets w0 { wide := true, acq := true, cp := true } [] ∧
    (∃ a, memLanes w2 (w2.ent 0) ⟨36, 2, .w64, 0, 0⟩ = [a] ∧ a.va.toNat % a.size ≠ 0) ∧ (∃ a, memGroup w0 (w0.ent 0) ⟨36, 22, .w32, 0, 0⟩ = [a] ∧ a.va.extractLsb' 56 8 ≠ 0) ∧
    lanePlaces s0 0 w0.ctx false .load (w0.ent 0) (memLanes w0 (w0.ent 0) ⟨36, 2, .w64, 0, 0⟩) = .error (some ⟨.align, 0x10004, 1, false, false⟩) :=
  ⟨by decide +kernel, ready_on (by decide +kernel), ready_on (by decide +kernel), ready_on (by decide +kernel), ⟨_, rfl, by decide +kernel⟩, ⟨_, rfl, by decide +kernel⟩, by rfl⟩

theorem scratch_of {s : State} {w : Swell} {sa : Word} {n al : Nat} {wr : Bool}
    (h : sa.toNat % al = 0 ∧ sa.toNat < 2 ^ 25 ∧ coreEnabled s (scratchCore (coreOfKey s.cur.key) sa) = true ∧ coreOfCtx s w.ctx (scratchCore (coreOfKey s.cur.key) sa) = true ∧
      scratchOff sa + n + (if wr then 128 else 0) ≤ scratchPart (s.core (scratchCore (coreOfKey s.cur.key) sa))) : InScratch s w sa n al wr := ⟨h.1, h.2.1, h.2.2.1, h.2.2.2.1, h.2.2.2.2⟩
/-- Scratch that holds a full word at 0x1_0000 and a barrier object at 0x2_0000 with EXP and PEND 1 and its phase word full. -/
def filled : State := { s0 with cores := [(0, { Core.init with tlb := demoTlb, ctx := some 0, bndScr := 0x40000, bndTop := 0x40000, full := [0x10000 / 4, 0x20010 / 4], scratch := [(0x20000, 0x10), (0x20002, 0x10)] })] }
theorem test_meets_ScratchWordsReadAndWrite : Quiet s0 ∧ (w1.ent 0).outst = [] ∧ Meets w1 { wide := true, pmx := true } [39, 2] ∧ InScratch (on demoBase w1) w1 0x10000 16 16 false ∧
    InScratch (on demoBase w1) w1 (0x40000 - 128 - 16) 16 16 true ∧ (w2.vreg 2)[1].toNat % 8 ≠ 0 ∧ (w1.vreg 6)[0].toNat % 16 = 0 ∧ 2 ^ 25 ≤ (w1.vreg 6)[0].toNat :=
  ⟨quiet_on _, by decide +kernel, ready_on (by decide +kernel), scratch_of (by decide +kernel), scratch_of (by decide +kernel), by decide +kernel⟩
theorem test_meets_TaggedWordsActOnFullAndEmpty : Quiet s0 ∧ NoLines s0 ∧ (w1.ent 0).outst = [] ∧ tagLanes w1 (w1.ent 0) false (some 39) 2 = [⟨0, 0x10000, 0⟩] ∧ tagLanes w0 (w0.ent 0) true (some 0) 20 = [⟨0, 0x10000, 0⟩] ∧
    Meets w1 { pmx := true } ([39] ++ [2]) ∧ InScratch (on demoBase w1) w1 0x10000 4 4 true ∧ InScratch (on demoBase w1) w1 0x10000 4 4 false ∧
    Quiet filled ∧ (filled.core 0).full.contains (scratchOff 0x10000 / 4) = true ∧ (s0.core 0).full.contains (scratchOff 0x10000 / 4) = false :=
  ⟨quiet_on _, noLines_on _, by decide +kernel, by rfl, by rfl, ready_on (by decide +kernel), scratch_of (by decide +kernel), scratch_of (by decide +kernel), quiet_of ⟨rfl, rfl, rfl, rfl⟩ (by decide +kernel), by decide +kernel, by decide +kernel⟩
theorem test_meets_BarriersCountArrivals : Quiet s0 ∧ NoLines s0 ∧ (w0.ent 0).outst = [] ∧ Meets w0 {} [] ∧ InScratch s0 w0 (w0.sreg 28) 20 16 true ∧
    (w0.sreg 25).toNat = 1 ∧ (w0.sreg 0).toNat = 0 ∧ 65535 < (w0.sreg 20).toNat ∧ (barRead (filled.core 0) 0x20000).pend = 1 ∧ (barRead (filled.core 0) 0x20000).inb = 0 ∧
    (filled.core 0).full.contains ((0x20000 + 16) / 4) = true ∧ wordOfList (readBytes (filled.core 0).scratch (0x20000 + 16) 4) ≠ w0.sreg 25 ∧ wordOfList (readBytes (filled.core 0).scratch (0x20000 + 16) 4) = w0.sreg 0 :=
  ⟨quiet_on _, noLines_on _, by decide +kernel, ready_on (by decide +kernel), scratch_of (by decide +kernel), by decide +kernel⟩
theorem test_meets_AtomicsActAtTheHome : Quiet s0 ∧ NoLines s0 ∧ (w0.ent 0).outst = [] ∧ (let s := on warm w0; Quiet s ∧ Placed s w0 (w0.ent 0) .atomic (wordLanes w0 (w0.ent 0) 2) ls0 ∧ ∀ l ∈ ls0, homeHas s l.loc 4 = true) ∧ homeHas s0 ⟨0x40000, .ucr, true, 0, false⟩ 4 = true ∧ (∀ l ∈ ls0, Local s0 4 l) ∧ (ls0.map fun l => l.loc.pa).Nodup ∧
    (let s := on demoBase wAtom; (∀ l ∈ [farWord], Remote s 4 l) ∧ Placed s wAtom (wAtom.ent 0) .atomic (wordLanes wAtom (wAtom.ent 0) 4) [farWord] ∧ Meets wAtom { pmx := true, acq := true, rel := true, lae := true } [39, 5, 39]) ∧
    Placed s0 w0 (w0.ent 0) .atomic [⟨0, w0.spair 80, 4⟩] [farWord] ∧ (∀ l ∈ [farWord], Remote s0 4 l) ∧
    (∀ l ∈ [(⟨0, 0x30000, ⟨0x40000, .ucr, true, 0, false⟩⟩ : LaneLoc)], Local s0 4 l) ∧
    Meets w0 { pmx := true, acq := true, rel := true, lae := true } [39, 3, 39] ∧ Placed s0 w0 (w0.ent 0) .atomic (wordLanes w0 (w0.ent 0) 2) ls0 ∧
    Meets w0 { acq := true, rel := true, lae := true } [] ∧ Placed s0 w0 (w0.ent 0) .atomic [⟨0, w0.spair 26, 4⟩] [⟨0, 0x30000, ⟨0x40000, .ucr, true, 0, false⟩⟩] ∧
    Meets w0 { pmx := true, rel := true, lae := true } [3, 39] ∧ { w0 with scfg := 1 }.scfg.getLsbD 0 = true :=
  ⟨quiet_on _, noLines_on _, by decide +kernel, ⟨quiet_warm _, by rfl, by decide +kernel⟩, by decide +kernel, local_of (by decide +kernel) (by decide +kernel), by decide +kernel, ⟨remote_of (by decide +kernel) (by decide +kernel), by rfl, ready_on (by decide +kernel)⟩, by rfl,
    remote_of (by decide +kernel) (by decide +kernel), local_of (by decide +kernel) (by decide +kernel), ready_on (by decide +kernel), by rfl, ready_on (by decide +kernel), by rfl, ready_on (by decide +kernel), by decide +kernel⟩
theorem test_meets_TimeReadsAtime : Meets w0 {} [] := ready_on (by decide +kernel)
/-- A modifiers HINT with a time in S22:S23. -/
def timed : HintWord := .mods ⟨.all, false, false, .normal, false, .rne, false, true, 22⟩
def wTimed : Swell := demoOf (hinted timed)
theorem test_meets_WaitsForValuesAndTimes : Quiet s0 ∧ NoLines s0 ∧ (w0.ent 0).outst = [] ∧ (∀ l ∈ ls0, HbmPlace 4 l) ∧ Meets w0 { pmx := true, acq := true, lae := true, noTpe := true } [39, 3, 0] ∧ Meets w0 { acq := true, lae := true, noTpe := true } [] ∧
    Placed s0 w0 (w0.ent 0) .wait (wordLanes w0 (w0.ent 0) 2) ls0 ∧ Placed s0 w0 (w0.ent 0) .wait [⟨0, w0.spair 28, 4⟩] [⟨0, 0x20000, ⟨0x400000030000, .ucr, false, 1, false⟩⟩] ∧
    (w0.spair 33).toNat ≤ (s0.atime 0).toNat ∧ (s0.atime 0).toNat < (w0.spair 24).toNat ∧
    Meets wTimed { wide := true, pmx := true, te := true } [39, 3] ∧ (wTimed.ent 0).hints.mods = some ⟨.all, false, false, .normal, false, .rne, false, true, 22⟩ ∧
    Placed (on demoBase wTimed) wTimed (wTimed.ent 0) .timedLoad (memLanes wTimed (wTimed.ent 0) ⟨39, 2, .w32, 0, 0⟩) ls0 ∧
    Placed (on demoBase wTimed) wTimed (wTimed.ent 0) .timedStore (memLanes wTimed (wTimed.ent 0) ⟨39, 2, .w32, 0, 0⟩) ls0 ∧ Meets w0 { wide := true, pmx := true, te := true } [39, 3] ∧ (w0.ent 0).hints.mods = none :=
  ⟨quiet_on _, noLines_on _, by decide +kernel, hbm_of (by decide +kernel), ready_on (by decide +kernel), ready_on (by decide +kernel), by rfl, by rfl, by decide +kernel, by decide +kernel, ready_on (by decide +kernel), by decide +kernel, by rfl, by rfl, ready_on (by decide +kernel), by decide +kernel⟩
/-- A line of page 1 and a line of page 3 in the L1, each with a dirty byte. -/
def dirtyLines : List CacheLine := [⟨0x200, 0, .dp, BitVec.allOnes 256, 1, [(0, 7)], false, false, 0, 0⟩, ⟨0x400, 0, .ucr, BitVec.allOnes 256, BitVec.twoPow 256 255, [(255, 9)], false, false, 0, 0⟩]
def withLines : State := { cached with cores := [(0, { cached.core 0 with l1 := dirtyLines })] }
theorem test_meets_FencesAndCacheMaintenance : Quiet (on withLines w0) ∧ Ready (on withLines w0) w0 (w0.ent 0) {} [] ∧ (w0.ent 0).outst = [] ∧ (dirtyLines.map CacheLine.line).Nodup ∧ (∀ x ∈ dirtyLines, paDie (x.line * 256) = 0 ∧ inShelf (x.line * 256) = false) ∧ (inShelf (0x10000000 * 256) = true ∧ paDie (0x10000000 * 256) = 0 ∧ refreshLeft s0 0 (shelfBank (0x10000000 * 256)) ≠ 0) ∧ (withLines.core 0).l1 = dirtyLines ∧
    ((w0.spair 20).toNat % 256 = 0 ∧ (w0.sreg 30).toNat % 256 = 0) ∧ (w0.sreg 31).toNat % 256 ≠ 0 ∧
    (∃ ps, cachePieces (on withLines w0) 0 0 (granules 0x10000 256) = (ps, on withLines w0) ∧ (∀ p ∈ ps, accessCheck (on withLines w0) 0 0 false .clean p.leaf p.loc = none) ∧
      (∀ p ∈ ps, accessCheck (on withLines w0) 0 0 false .inv p.leaf p.loc = none) ∧ ∃ p ∈ ps, p.has 0x200 = true) :=
  ⟨quiet_of ⟨rfl, rfl, rfl, rfl⟩ (by decide +kernel), ready_on (by decide +kernel), by decide +kernel, by decide +kernel, by decide +kernel, by decide +kernel, rfl, by decide +kernel, by decide +kernel, [⟨0x10000, 256, ⟨0x20000, .dp, false, 0, false⟩, demoLeaf 0 2⟩], by rfl, by decide +kernel⟩

/-! ### Matrix, render, sections, engines, launches -/

/-- A fragment with a format. -/
def formatted (n : Nat) (f : Frag) : Frag := { f with fmt := BitVec.ofNat 12 n }
theorem test_meets_MatrixAndReorderAreSent : (w0.ent 0).outst = [] ∧ Meets w0 { pmx := true, rse := true } [24 + 15, 0 + 16, 31 + 8] ∧ (w0.ent 0).fmt.toNat % 8 = (w0.ent 0).fmt.toNat / 8 % 8 ∧
    [MmaFmt.bs8, .bs4, .bf16, .fp16, .i8][(w0.ent 0).fmt.toNat % 8]? = some .bs8 ∧ (let f := (demoOf (formatted 0o44)).ent 0; [MmaFmt.bs8, .bs4, .bf16, .fp16, .i8][f.fmt.toNat % 8]? = some .i8) ∧
    (let f := (demoOf (formatted 1)).ent 0; f.fmt.toNat % 8 ≠ f.fmt.toNat / 8 % 8) ∧ (let f := (demoOf (formatted 0o55)).ent 0; 5 ≤ f.fmt.toNat % 8) ∧ Meets w0 { pmx := true } [31] ∧
    1 < (crowd 1 demoFrag w0).liveEnts.length ∧ ((on demoBase w0).swells.map fun x => x.1).Nodup ∧ (w0.liveEnts = [0] ∧ (w0.ent 0).heldKeys = [] ∧ ∀ r, r < 32 → (w0.sreg 31).getLsbD r = true → r < w0.n) :=
  ⟨by decide +kernel, ready_on (by decide +kernel), by decide +kernel, by decide +kernel, by decide +kernel, by decide +kernel, by decide +kernel, ready_on (by decide +kernel), by decide +kernel, by decide, by decide +kernel⟩

/-- A frame of one tile with one texture, whose map lies in page 3, and the swell of its group with a triangle in V28 to V39. -/
def demoDesc : RenderDesc := { width := 32, height := 32, reshade := false, gtab := 0, tmap := 0, bin := 0, binsz := 1, pmax := 16, pspc := 0, bspc := 0, ttab := 0x10400, tcnt := 1, pregs := 9, cbase := 0, cpitch := 512, cfmt := 0, clear := [0, 0, 0, 0], rmap := 0x30000, fstat := 0 }
def demoFrame : Frame := { desc := demoDesc, tmap := [0], draws := [0], dies := [0], np := [], nf := 0, cull := 0, reshaded := 0, ovf := false, parts := [], queued := [], mapWaits := [] }
def wDraw : Swell := { (((w1.setV 0xFFFFFFFF 31 (Vector.replicate 32 0x1000)).setV 0xFFFFFFFF 36 (Vector.replicate 32 0))).setV 0xFFFFFFFF 35 (Vector.replicate 32 0x1000) with launch := 1 }
/-- The translations of the pages at home on die 0. -/
def homeTlb : List TlbEnt := [⟨0, 1, false, demoLeaf 0 2⟩, ⟨0, 3, false, demoLeaf 0xB 4⟩]
theorem locOf_home {e : Addr} {va : Nat} (h : e.getLsbD 55 = false ∧ pteField e 16 36 < 2 ^ 29) : (locOf e false va).die = 0 := by
  have := Nat.mod_lt va (show 0 < pageBytes false by decide)
  simp only [locOf, h.1, paDie, dieWindow, pageBytes] at *
  simp; omega
/-- A 1 × 1 texture of format 1 at page 1 + 0x800, described at page 1 + 0x400; a bay record at the start of page 1; bit 0 of the map set. -/
def drawing : State :=
  { demoBase with
    mem := [(0x20002, 1), (0x20018, 1), (0x20024, 1), (0x20026, 1), (0x20028, 40), (0x20029, 1), (0x20401, 8), (0x20402, 1), (0x20408, 1), (0x2040A, 1), (0x2040C, 0x11), (0x20802, 0x80), (0x20803, 0x3F), (0x40000, 1)]
    cores := [(0, { Core.init with tlb := homeTlb, ctx := some 0, bndScr := 0x40000, bndTop := 0x40000 })]
    launches := [(1, { demoLaunch with frame := some demoFrame })], pkg := { demoBase.pkg with rects := [⟨0, 1, 1, 0, 0⟩], l2p := [0] } }
def sDraw : State := on drawing wDraw
theorem home_draw : ∀ e ∈ (sDraw.core 0).tlb ++ (sDraw.cluster 0).tlb, ∀ va, (locOf e.leaf e.big va).die = 0 := by
  intro e he va
  have h : ∀ e ∈ homeTlb, e.big = false ∧ e.leaf.getLsbD 55 = false ∧ pteField e.leaf 16 36 < 2 ^ 29 := by decide +kernel
  have h := h e (by simpa [sDraw, on, drawing, State.core, State.cluster, kvGet, demoBase, State.reset, Cluster.init] using he)
  rw [h.1]; exact locOf_home h.2
theorem test_meets_RenderWordsActInTheirFrames : (wDraw.ent 0).outst = [] ∧ frameOf s0 w0 = none ∧ Meets w0 { pmx := true } [] ∧ frameOf sDraw wDraw = some demoFrame ∧ lanesOf (lanesActive wDraw (wDraw.ent 0) (wDraw.ent 0).pmx) = [0] ∧
    Quiet sDraw ∧ NoLines sDraw ∧ l1Sets (sDraw.core 0) = 0 ∧ (∀ e ∈ (sDraw.core 0).tlb ++ (sDraw.cluster 0).tlb, ∀ va, (locOf e.leaf e.big va).die = 0) ∧ Ready sDraw wDraw (wDraw.ent 0) { pmx := true } [39, 1, 39] ∧
    (∃ ws s', texLane sDraw wDraw (wDraw.ent 0) demoFrame 0 0 0 0 0 0 = .done ws s') ∧ (∃ ws s', texqLane sDraw wDraw (wDraw.ent 0) demoFrame 0 0 0 0 0 0 = .done ws s') ∧
    (wDraw.shades = false ∧ demoFrame.desc.reshade = false ∧ primBad (lanePrim wDraw 6 0 0 0 0) = true ∧ (primBad (lanePrim wDraw 8 0 0 0 0) = false ∧ primArea (lanePrim wDraw 8 0 0 0 0) = 0) ∧
    (let p := lanePrim wDraw 28 0 0 0 0; primBad p = false ∧ primArea p ≠ 0 ∧ primBox p 32 32 ≠ none) ∧ demoFrame.nf ≠ demoFrame.desc.pmax ∧ { demoFrame with nf := 16 }.nf = 16 ∧
    (let fr := { demoFrame with desc := { demoDesc with reshade := true } }; fr.desc.reshade = true ∧ fr.desc.tw * fr.desc.th = 1)) ∧
    Placed sDraw wDraw (wDraw.ent 0) .atomic [⟨0, demoDesc.rmap + BitVec.ofNat 64 (0 / 8), 1⟩] [⟨0, 0x30000, ⟨0x40000, .ucr, true, 0, false⟩⟩] ∧
    (byteAt sDraw.mem 0x40000).getLsbD 0 = true ∧ (byteAt s0.mem 0x40000).getLsbD 0 = false :=
  ⟨by decide +kernel, by rfl, ready_on (by decide +kernel), by rfl, by decide +kernel, quiet_of ⟨rfl, rfl, rfl, rfl⟩ (by decide), (by decide : ∀ x ∈ drawing.cores, x.2.l1 = []), by decide +kernel, home_draw, ready_on (by decide +kernel),
    ⟨_, _, by rfl⟩, ⟨_, _, by rfl⟩, by decide +kernel, by rfl, by decide +kernel⟩

def inSection (f : Frag) : Frag := { f with held0 := ⟨true, 0x40, 0⟩ }
def inTwo (f : Frag) : Frag := { inSection f with held1 := ⟨true, 0x80, 0⟩ }
theorem test_meets_SectionWordsReachTheHome : Quiet s0 ∧ NoLines s0 ∧ (w0.ent 0).outst = [] ∧ Meets w0 {} [] ∧ (w0.ent 0).heldKeys = [] ∧ ((demoOf inTwo).ent 0).heldKeys.length = 2 ∧
    ((demoOf inSection).ent 0).heldKeys = [0x40] ∧ (w0.spair 12).toNat ≤ 0x40 ∧ 0x40 < (w0.spair 20).toNat ∧
    (let w := (demoOf inTwo).setSPair 20 0x80; Meets w {} [] ∧ w.spair 20 ∈ (w.ent 0).heldKeys) :=
  ⟨quiet_on _, noLines_on _, by decide +kernel, ready_on (by decide +kernel), by decide +kernel, by decide +kernel, by decide +kernel, by decide +kernel, by decide +kernel, ready_on (by decide +kernel), by decide +kernel⟩
/-- Context 0 with window 0 valid for outbound puts of 4 bytes. -/
def windowed : State := s0.updCtx 0 fun c => { c with bar := [(0x20010, 4), (0x20028, 1), (0x2002B, 0x80)] }
def blockOf (a : Reg) (n : Nat) : List Word := (List.range n).map fun i => w0.sreg (a + BitVec.ofNat 7 i)
theorem test_meets_EngineCommandsGetTickets : Quiet s0 ∧ NoLines s0 ∧ (w0.ent 0).outst = [] ∧ Meets w0 {} [] ∧ copyDsp (blockOf 60 9) = 2 ∧ copyDsp (blockOf 119 9) ≠ 2 ∧
    Quiet windowed ∧ windowFault windowed 0 .wsend (blockOf 100 5) = none ∧ windowFault windowed 0 .wsig (blockOf 100 7) = none ∧ ((s0.ctx 0).window (putWin (blockOf 100 5))).valid = false :=
  ⟨quiet_on _, noLines_on _, by decide +kernel, ready_on (by decide +kernel), by decide +kernel, by decide +kernel, quiet_of ⟨rfl, rfl, rfl, rfl⟩ (by decide +kernel), by decide +kernel, by decide +kernel, by decide +kernel⟩
/-- A cluster whose engine 0 has ended command 256 with its statistics. -/
def answered : State := s0.updEngine 0 0 fun e => { e with seq := 256, ended := [⟨256, 0, false, 0, 0⟩], stats := [(256, 0, 5, 6)] }
/-- Lane 0 of the swell behind a modifiers HINT with a policy, and the machine with an L1 and lines in the home slice. -/
def wPolicy (k : CachePol) : Swell := demoOf fun f => hinted (.mods ⟨.all, false, false, k, false, .rne, false, false, 0⟩) { f with mask := 1 }
def prefetching (k : CachePol) (ls : List Nat) : State := on { cached with dies := [(0, warmDie ls)] } (wPolicy k)
theorem test_meets_QueriesAndLaunches : Quiet s0 ∧ NoLines s0 ∧ (w0.ent 0).outst = [] ∧ Meets w0 {} [] ∧ (s0.engine 0 0).ended = [] ∧ (s0.engine 0 0).stats = [] ∧
    ((answered.engine 0 0).ended = [⟨256, 0, false, 0, 0⟩] ∧ (w0.sreg 20).toNat % 256 = 0 ∧ (w0.sreg 20).toNat / 256 = 256 ∧ ticketKept (answered.engine 0 0) 256 = true ∧ (answered.engine 0 0).stats = [((w0.sreg 20).extractLsb' 8 24, 0, 5, 6)]) ∧
    ([40, 42, 44, 46, 48, 50] : List Reg).map (fun r => (w0.sreg r).toNat) = [0, 1, 2, 3, 255, 256] ∧ launchOf sDraw 0 1 = some { demoLaunch with frame := some demoFrame } ∧ launchOf sDraw 0 0 = none ∧
    sDraw.pkg.rects[0]? = some ⟨0, 1, 1, 0, 0⟩ ∧ s0.pkg.rects.length ≤ 0 ∧ sDraw.pkg.l2p[0]? = some 0 ∧ ((w0.spair 24).toNat < 2 ^ 56 ∧ (w0.spair 24).toNat % 64 ≠ 0) ∧
    ((wDraw.spair 20).toNat % 64 = 0 ∧ Placed sDraw wDraw (wDraw.ent 0) .load [⟨0, wDraw.spair 20, 1⟩] [⟨0, 0x10000, ⟨0x20000, .dp, false, 0, false⟩⟩] ∧ kvGet sDraw.launches wDraw.launch = some { demoLaunch with frame := some demoFrame } ∧
      (let bs := readBytes sDraw.mem 0x20000 64; bayLimits sDraw bs = false ∧ mayLaunch (bayOf bs) demoBay = true ∧ bayMarked sDraw (newLaunch sDraw 0 0x10000 (bayOf bs) false) = false ∧ (bayOf bs).render = false) ∧
      (sDraw.launches.filter fun z => z.2.ctx == 0 && z.2.active).length < 256) ∧
    Meets (demoOf fun f => { f with mask := 0 }) { wide := true, pmx := true, cp := true } [39] ∧ (∀ k ∈ [CachePol.normal, .memorySide, .noAllocate], ((wPolicy k).ent 0).cp = k ∧ lanesOf (lanesActive (wPolicy k) ((wPolicy k).ent 0) ((wPolicy k).ent 0).pmx) = [0]) ∧
    Ready (prefetching .noAllocate []) (wPolicy .noAllocate) ((wPolicy .noAllocate).ent 0) { wide := true, pmx := true, cp := true } [3] ∧
    (let y : Loc := ⟨0x20000, .dp, false, 0, false⟩; let s := prefetching .noAllocate; Quiet (s [0x200]) ∧ NoLines (s []) ∧ xlate (s []) 0 0 false .prefetch ((wPolicy .noAllocate).ent 0) 0x10000 = .ok y ∧
      homeHas (s [0x200]) y 256 = true ∧ homeHas (s []) y 256 = false ∧ l1Sets ((s []).core 0) = 16) :=
  ⟨quiet_on _, noLines_on _, by decide +kernel, ready_on (by decide +kernel), by decide +kernel, by decide +kernel, by decide +kernel, by decide +kernel, by rfl, by rfl, by rfl, by decide +kernel, by rfl, by decide +kernel,
    ⟨by decide +kernel, by rfl, by rfl, by decide +kernel, by decide +kernel⟩, ready_on (by decide +kernel), by decide +kernel, ready_on (by decide +kernel),
    quiet_all ⟨rfl, rfl⟩ (by decide : ∀ x ∈ (prefetching .noAllocate [0x200]).cores, x.2.badWords = []) (by simp [prefetching, on, cached, s0, demoBase, State.reset]) (by decide +kernel : ∀ x ∈ (prefetching .noAllocate [0x200]).dies, _),
    (by decide : ∀ x ∈ (prefetching .noAllocate []).cores, x.2.l1 = []), by rfl, by decide +kernel⟩

/-! ### Replies and events of the memory system -/

/-- One outstanding instruction of the fragment, and the swell that has it. -/
def outOf (k : OutKind) : Outst := { id := 0, unit := 0x100000100, pc := 0x100000100, kind := k, window := 2, reads := ⟨[], []⟩, writes := ⟨[], []⟩, sent := 0, fail := none }
def opSwell (k : OutKind) (g : Frag → Frag) : Swell := demoOf fun f => g { f with outst := [outOf k] }
theorem alone_on (b : State) (k : OutKind) : Alone (on b (opSwell k id)) ⟨5, 9⟩ 0 (opSwell k id) 0 (outOf k) where
  found := rfl
  only := rfl
  ready := rfl
  fine := rfl

def aLoadOp (lanes : List LaneLoc) (got : List (Nat × List Byte)) : LoadOp := { sz := .w32, group := false, d := 39, a := 2, disp := 0, lanes := lanes, got := got, notBefore := none, acq := false, cp := .normal }
def aLoad (lanes : List LaneLoc) (got : List (Nat × List Byte)) : OutKind := .load (aLoadOp lanes got)
def aMma : MmaOp := { fmt := .i8, zero := true, rm := .rne, sat := false, fz := false, noscl := false, lanes := 1, d := 0, a := List.replicate 17 (Vector.replicate 32 0), b := List.replicate 9 (Vector.replicate 32 0), c := none, inj := false, rerun := false }
/-- Die 1 with the demo load's line outstanding at its slice. -/
def missing : State := on { demoBase with dies := [(1, { Die.init with misses := [(0x400000030000 / 256, [⟨⟨5, 9⟩, 0, 0, 0x400000030000 / 256, 7, none⟩])] })] } (opSwell (aLoad [away] []) id)
/-- An atomic whose old values for lanes 0 and 1 are under way. -/
def anAtom : OutKind := .atomic false false 39 [(0, 7), (1, 8)] [(0, 0x10000), (1, 0x10004)]
def reordering : State := { on demoBase (opSwell (.reorder 5 3 31 (BitVec.twoPow 32 31) (some 66)) id) with now := 66 }
theorem test_meets_replies : (∀ y ∈ ls0, (aLoadOp ls0 [(0, [1, 2, 3, 4]), (1, [5, 6, 7, 8])]).has y.lane = true) ∧
    aMma.checks = true ∧ (ls0.find? (fun y => !(aLoadOp ls0 [(0, [1, 2, 3, 4])]).has y.lane) = ls0[1]?) ∧
    Alone (on { demoBase with now := 2 ^ 24 } (opSwell (aLoad ls0 []) id)) ⟨5, 9⟩ 0 (opSwell (aLoad ls0 []) id) 0 (outOf (aLoad ls0 [])) ∧ (opSwell (aLoad ls0 []) id).busy = false ∧ Alone (on demoBase (opSwell anAtom id)) ⟨5, 9⟩ 0 (opSwell anAtom id) 0 (outOf anAtom) ∧
    (Quiet (sansRequests missing 1) ∧ (missing.die 1).missWait = [] ∧ (missing.die 1).waiting = [] ∧ NoLines missing ∧ Alone missing ⟨5, 9⟩ 0 (opSwell (aLoad [away] []) id) 0 (outOf (aLoad [away] [])) ∧ (∀ l ∈ [away], HbmPlace 4 l) ∧ l1Sets (missing.core 0) = 0 ∧
      kvGet (missing.die 1).misses (away.loc.pa / 256) = some [⟨⟨5, 9⟩, 0, 0, away.loc.pa / 256, 7, none⟩]) ∧
    (reorderParts reordering 0 1 5 (fun n => n.any fun n => decide (n ≤ reordering.now)) = [⟨5, 9, 0, 0, 0, 0, 3, 31, BitVec.twoPow 32 31⟩] ∧ (BitVec.twoPow 32 31 : Word).getLsbD 31 = true ∧ (lanesOf 3).length = 2) :=
  ⟨by decide, by decide +kernel, by rfl, alone_on _ _, by decide +kernel, alone_on _ _, ⟨quiet_all ⟨rfl, rfl⟩ (by decide) (by decide) (by decide +kernel), rfl, rfl, (by decide : ∀ x ∈ demoBase.cores, x.2.l1 = []), alone_on _ _, hbm_of (by decide +kernel), by decide +kernel, by rfl⟩,
    by decide +kernel⟩

/-- A value wait on the word at 0x20000, a wait for a full word, and messages at their homes. -/
def aWait : OutKind := .wait (.value .eq false 39 [⟨0, 0x10000, ⟨0x20000, .dp, false, 0, false⟩, 0, none⟩])
def aTag : OutKind := .wait (.tag .ldf false 39 [⟨0, 0x10000, 0⟩] 1 0)
def tagged : State := on { demoBase with cores := filled.cores, clusters := [(0, { Cluster.init with waiters := [⟨⟨5, 9, 0⟩, 0, 0x10000 / 4, 0, false⟩] })] } (opSwell aTag fun f => { f with st := 1, wkind := 1, wait := some (.op 0) })
def aMsg (k : MsgKind) : Msg := ⟨⟨5, 9, 0⟩, 0, 1, 0x10000, ⟨0x20000, .dp, false, 0, false⟩, k⟩
def homeBound (k : MsgKind) (buf : List (Nat × Msg)) : State := { s0 with msgs := [(7, aMsg k)], dies := [(0, { Die.init with tides := [(sliceOf 0x20000, { Tide.init with buf := buf })] })] }
theorem test_meets_home_events : (let s := on demoBase (opSwell aWait id); Quiet s ∧ NoLines s ∧ anySwell s 9 = some (some 5, opSwell aWait id) ∧ Alone s ⟨5, 9⟩ 0 (opSwell aWait id) 0 (outOf aWait) ∧
      WaitCond.eq.holds (wordOfList (readBytes s.mem 0x20000 4)) 0 = true ∧ WaitCond.ne.holds (wordOfList (readBytes s.mem 0x20000 4)) 0 = false) ∧
    (NoLines tagged ∧ (∃ w, tagged.opAt ⟨5, 9⟩ 0 = some (w, 0, outOf aTag) ∧ (w.ent 0).outst = [outOf aTag] ∧ (w.ent 0).wait = some (.op 0) ∧ w.busy = false ∧ (w.ent 0).live = true) ∧
      (tagged.core 0).full.contains (scratchOff 0x10000 / 4) = true ∧ (tagged.core 0).badWords = [] ∧ (tagged.cluster 0).waiters = [⟨⟨5, 9, 0⟩, 0, scratchOff 0x10000 / 4, 0, false⟩]) ∧
    (let s := homeBound (.store [1, 2]) []; Quiet { s with msgs := [] } ∧ NoLines s ∧ kvGet s.msgs 7 = some (aMsg (.store [1, 2])) ∧ behindOwn s (aMsg (.store [1, 2])).fr 7 (aMsg (.store [1, 2])).loc 2 = false) ∧
    (let m := aMsg (.load 0 0 4); let s := homeBound (.load 0 0 4) []; Quiet { s with msgs := [] } ∧ kvGet s.msgs 7 = some m ∧ behindOwn s m.fr 7 m.loc 4 = false ∧ homeHas s m.loc 4 = false) ∧
    (let m := aMsg (.timedStore [1, 2] 0); let s := homeBound (.timedStore [1, 2] 0) []; s.msgs = [(7, m)] ∧ (s.tide 0 (tideHome m.loc)).buf = [] ∧ (0 : Addr).toNat ≤ (s.atime 0).toNat ∧ ¬ (1 : Addr).toNat ≤ (s.atime 0).toNat) ∧
    (let m := aMsg (.timedStore [1, 2] 0); let s := homeBound (.timedStore [1, 2] 0) [(7, m)]; (s.tide 0 (tideHome m.loc)).buf = [(7, m)] ∧ (s.tide 0 (tideHome m.loc)).ingress = []) :=
  ⟨⟨quiet_on _, noLines_on _, by rfl, alone_on _ _, by decide +kernel, by decide +kernel⟩,
    ⟨(by decide +kernel : ∀ x ∈ tagged.cores, x.2.l1 = []), ⟨_, by rfl, rfl, rfl, rfl, rfl⟩, by decide +kernel, by decide +kernel, by decide +kernel⟩,
    ⟨quiet_all ⟨rfl, rfl⟩ (by decide) (by decide) (by decide +kernel), (by decide : ∀ x ∈ demoBase.cores, x.2.l1 = []), rfl, by decide +kernel⟩,
    ⟨quiet_all ⟨rfl, rfl⟩ (by decide) (by decide) (by decide +kernel), rfl, by decide +kernel, by decide +kernel⟩, ⟨rfl, by decide +kernel, by decide +kernel, by decide +kernel⟩, by decide +kernel, by decide +kernel⟩

/-- The L1 with a dirty line whose deadline has passed; a COH line held exclusive on die 1; replicas and walks. -/
def pastDue : State := { on withLines w0 with now := 65536 }
def exclusive : State := { s0 with dies := [(0, { Die.init with dir := [⟨0x200, true, BitVec.twoPow 64 1⟩] }), (1, { Die.init with partition := [⟨0x200, 0, .coh, BitVec.allOnes 256, 3, [(0, 4), (1, 6)], false, true, 0, 0⟩] })] }
/-- A store that waits at its shelf bank: in the bank's window, and after it. -/
def shelfMsg : Msg := { aMsg (.store [1, 2]) with loc := ⟨0x1000000000, .dp, false, 0, false⟩ }
def refreshed : State := { s0 with now := 2 ^ 13, msgs := [(7, shelfMsg)], dies := [(0, { Die.init with waiting := [⟨7, shelfMsg.line, 5⟩] })] }
def refreshing : State := { refreshed with now := 0 }
def replicating : State := s0.updCtx 0 fun c => { c with bar := [(0x22, 0x60), (0x28, 0x10)] }
def walking : State := { s0 with dies := [(0, { Die.init with walks := [⟨0, 1, [⟨5, 9, 0⟩]⟩] })] }
def waking : State := on demoBase (demoOf fun f => { f with st := 1, wkind := 6, wait := some (.twait 0) })
theorem test_meets_cache_and_time_events : (Quiet pastDue ∧ (∃ x, l1Find pastDue 0 0x200 = some x ∧ x.dirty ≠ 0 ∧ x.wtime + 65536 ≤ pastDue.now ∧ bankWait pastDue ⟨0x200 * 256, x.cls, false, 0, false⟩ = 0) ∧ paDie (0x200 * 256) = dieOfCore 0) ∧
    (Quiet s0 ∧ paDie (0x200 * 256) ≠ 1 ∧ remoteWays (sliceReg s0 1 (sliceOf (0x200 * 256))) ≠ []) ∧
    ((∃ x, (exclusive.die 1).partition = [x] ∧ x.line = 0x200) ∧ dirFind exclusive 0x200 = some ⟨0x200, true, BitVec.twoPow 64 1⟩ ∧ (exclusive.die (paDie (0x200 * 256))).dir.length = 1 ∧ exclusive.badSectors = []) ∧
    (Quiet replicating ∧ Memory.wf replicating.mem = true ∧ paDie (2 * 65536) ≠ 1 ∧ 0 < (replicaArea (replicating.ctx 0)).2) ∧ ((walking.die 0).walks = [⟨0, 1, [⟨5, 9, 0⟩]⟩] ∧ walking.swellAt ⟨5, 9⟩ = some w0) ∧
    (∃ w f, waking.fragAt ⟨5, 9, 0⟩ = some (w, f) ∧ f.wait = some (.twait 0)) ∧ (s0.findUid 9 = some (5, w0)) ∧
    (let w := { w0 with pend := ⟨true, false, 255, 0, 9, 0, 0, false, 7⟩ }; (on demoBase w).swellAt ⟨5, 9⟩ = some w ∧ w.pend.target.toNat = 0 ∧ (w.ent 0).live = true ∧ (w.ent 0).hints.words = [] ∧ (w.ent 0).outst = [] ∧ (w.ent 0).walkWait = []) ∧
    ((s0.die 0).spare = none ∧ ((s0.updDie 0 fun d => { d with spare := some 3 }).die 0).spare = some 3) ∧ ((s0.die 0).waiting = [] ∧ refreshLeft refreshing 0 0 ≠ 0 ∧ refreshLeft refreshed 0 0 = 0 ∧ Quiet (sansRequests refreshed 0) ∧ NoLines refreshed ∧
      refreshed.msgs = [(7, shelfMsg)] ∧ shelfMsg.loc.die = paDie shelfMsg.loc.pa ∧ inShelf shelfMsg.loc.pa = true ∧ shelfBank shelfMsg.loc.pa = 0 ∧ shelfMsg.loc.pa % 256 + 2 ≤ 256 ∧ (refreshed.die 0).waiting = [⟨7, shelfMsg.line, 5⟩] ∧ (refreshed.die 0).misses = []) ∧ (5 : Word).getLsbD 31 = false ∧ (s0.die 0).partition = [] :=
  ⟨⟨quiet_all ⟨rfl, rfl⟩ (by decide +kernel) (by decide) (by decide), ⟨_, by rfl, by decide +kernel⟩, by decide +kernel⟩, ⟨quiet_on _, by decide +kernel, by decide +kernel⟩, ⟨⟨_, by rfl, rfl⟩, by rfl, by decide +kernel, rfl⟩,
    ⟨quiet_all ⟨rfl, rfl⟩ (by decide) (by decide) (by decide), by decide +kernel, by decide +kernel, by decide +kernel⟩, ⟨by rfl, by rfl⟩, ⟨_, _, by rfl, rfl⟩, by rfl, ⟨by rfl, by decide +kernel⟩, by decide +kernel, ⟨by decide +kernel, by decide +kernel, by decide +kernel, quiet_all ⟨rfl, rfl⟩ (by decide) (by decide) (by decide +kernel), (by decide : ∀ x ∈ demoBase.cores, x.2.l1 = []), rfl, by decide +kernel⟩, by decide, by decide +kernel⟩

/-! ### Sections -/

/-- A key with NEXT 5 and TAKE 6 at its home, die 0, and one waiter for a number. -/
def anEntry : SluiceEnt := { ctx := 0, key := 0x40, next := 5, take := 6, held := false, abandoned := false, spilled := false, mems := false, hcore := 0, hslot := 0, hent := 0, lastp := 0, used := 0, slot := 0 }
def aReq (q : Word) : SectReq := ⟨⟨5, 9, 0⟩, 0, 0x40, q, 39⟩
def aWaiter (q : Word) : SluiceWait := ⟨0, 0, 0x40, q, aReq q, 0, false, none, false⟩
def sluiced (e : SluiceEnt) (ws : List SluiceWait) : State := { s0 with dies := [(0, { Die.init with sluice := { Sluice.init with ents := [e], waits := ws } })] }
theorem settled_of {s : State} {d : Nat} (h : (s.die d).sluice.ingress = []) (h' : ∀ x ∈ (s.die d).sluice.ents, x.inTable = true) : Settled s d := ⟨h, h'⟩
def enterWait (f : Frag) : Frag := { f with st := 1, wkind := 3, wait := some (.op 0) }
def anEnter : OutKind := .wait (.enter 0x40 5 39)
theorem test_meets_SectionHomesServeTheirKeys : (let s := sluiced anEntry []; 0 = keyHome s 0 0x40 ∧ Settled s 0 ∧ EntryOf s 0 0 0x40 anEntry ∧ EntryOf s0 0 0 0x40 (SluiceEnt.fresh s0 0 0 0x40) ∧ ((4 : Word) - anEntry.next).msb = true ∧
      ((6 : Word) - anEntry.next).msb = false ∧ s.findUid 9 = some (5, w0) ∧ queued s 0 0 0x40 = [] ∧ sluiceFind s0 0 0 0x40 = none) ∧
    (let s := sluiced { anEntry with held := true } [aWaiter 6]; queued s 0 0 0x40 = [aWaiter 6] ∧ (aWaiter 6).seq = anEntry.next + 1) ∧ ((4 : Word) - (anEntry.next + 1)).msb = true ∧
    (let w := opSwell anEnter enterWait; Blocked (on demoBase w) ⟨5, 9, 0⟩ w (outOf anEnter) ∧ (w.ent 0).held0.valid = false) ∧
    (let w := opSwell .sect id; anySwell (on demoBase w) 9 = some (some 5, w) ∧ (outOf .sect).writes.s = []) ∧
    (anySwell s0 77 = none ∧ sectBehind s0 0 0 = false) ∧ anySwell { s0 with swells := [], cores := [(0, { Core.init with save := [w0] })] } 9 = some (none, w0) ∧
    (let s := sluiced { anEntry with held := true } [aWaiter 6]; sectNow s 0 = false ∧ (s.ctx 0).field 0x54 1 = 0 ∧ ¬ 2 ^ 28 ≤ (s.atime 0).toNat) ∧ 2 ^ 28 ≤ ({ s0 with now := 2 ^ 28 }.atime 0).toNat ∧
    (let s := sluiced { anEntry with spilled := true } []; sluiceFind s 0 0 0x40 = some { anEntry with spilled := true } ∧ (setEnts s 0 (keySet 0 0x40)).length < 8 ∧ ∀ x ∈ (s.die 0).sluice.ents, x.mems = false) ∧
    (let s := sluiced anEntry []; (s.die 0).sluice.ents.filter (fun x => x.ctx == 0) = [anEntry] ∧ (s.die 63).sluice.ents = [] ∧ (s.die 63).sluice.ingress = []) :=
  ⟨⟨by rfl, settled_of rfl (by decide +kernel), .inl rfl, .inr ⟨rfl, by decide +kernel, rfl⟩, by decide, by decide, rfl, rfl, rfl⟩, ⟨rfl, rfl⟩, by decide, ⟨⟨by rfl, by rfl, by rfl, by rfl, by rfl, by rfl, by rfl⟩, by rfl⟩,
    ⟨by rfl, by rfl⟩, ⟨by rfl, by decide +kernel⟩, by rfl, ⟨by decide +kernel, by decide +kernel, by decide +kernel⟩, by decide +kernel, ⟨by rfl, by decide +kernel, by decide +kernel⟩, by rfl, by rfl, by rfl⟩

/-! ### Swells, tasks, launches -/

/-- Eight active swells of 40 registers and a ninth that is ready; the same with fewer. -/
def packed (n now : Nat) : State := { s0 with now := now, swells := ((List.range n).map fun i => (i, { w0 with uid := 20 + i, active := true })) ++ [(9, { w0 with uid := 40, slowBase := 20 })] }
def blockedSwell : Swell := demoOf fun f => { f with st := 1, wkind := 6, wait := some (.twait 5) }
/-- A running context with its page table at 0x10_0000: page 1 is DP at frame 2, page 3 UCR with MS at frame 4, and the host's entries are absent. -/
def aCtx (st : Byte) : Ctx := { Ctx.init with bar := [(0x02, 0x10), (0x55, st)] }
def pageTable : Bytes :=
  writeBytes (writeBytes (writeBytes (writeBytes (writeBytes [] 0x100000 (bytesOfNat 0x8000000000101000 8)) 0x101000 (bytesOfNat 0x8000000000102000 8)) 0x102000 (bytesOfNat 0x8000000000103000 8))
    0x103008 (bytesOfNat (demoLeaf 0 2).toNat 8)) 0x103018 (bytesOfNat (demoLeaf 0xB 4).toNat 8)
def hosted (st : Byte) : State := { s0 with ctxs := [(0, aCtx st)], mem := pageTable }
/-- A core set up for the demo launch, and the launch with a queued task. -/
def bounded : Core := { Core.init with tlb := demoTlb, ctx := some 0, bndReg := BitVec.ofNat 32 demoBay.bndReg, bndScr := BitVec.ofNat 32 demoBay.bndScr, bndTop := BitVec.ofNat 32 bayTop }
def ready : State := { hosted 2 with cores := [(0, bounded)], swells := [], clusters := [(0, { Cluster.init with store := [⟨1, 0, 0⟩] })] }
/-- A compaction that still copies the swell down. -/
def wHigh : Swell := { w0 with slowBase := 16 }
def sliding : State := { s0 with due := [(5, .compaction 0)], swells := [(5, wHigh)] }
/-- A write-back of core 0 that has not reached its home. -/
def merging : State := { on demoBase blockedSwell with msgs := [(7, { aMsg (.merge 1 [(0, 7)]) with fr := ⟨5, 0, 0⟩ })], due := [(40, .homeWrite 7)] }
theorem settled_none {s : State} (h : s.dies = []) (d : Nat) : Settled s d := by
  have : s.die d = Die.init := by simp [State.die, h, kvGet]
  exact ⟨by rw [this]; rfl, by rw [this]; simp [Die.init, Sluice.init]⟩
theorem test_meets_swells_move : (sliding.swellAt ⟨5, 9⟩ = some wHigh ∧ copyLeft sliding 0 5 wHigh ≠ 0) ∧ copyLeft s0 0 5 w0 = 0 ∧ s0.swellAt ⟨5, 9⟩ = some w0 ∧ w0.active = false ∧ (((coreSwells s0 0).filter fun x => x.2.active).length = 0 ∧ (0 : Nat) + (w0.n + 7) / 8 ≤ 128) ∧ ((coreSwells (packed 8 0) 0).filter fun x => x.2.active).length = 8 ∧
    ((∃ w, nextIn (packed 8 2048) 0 = some (9, w, 0)) ∧ fastRoom (packed 8 2048) 0 40 = false ∧ ∃ x ∈ coreSwells (packed 8 2048) 0, x.2.active = true ∧ movingOut (packed 8 2048) x.1 x.2.uid = false) ∧
    (∃ x y, coreSwells (packed 1 0) 0 = [x, y] ∧ x.1 ≠ y.1 ∧ x.2.slowBase < y.2.slowBase) ∧ mayLeave s0 5 w0 = false ∧ (let s := on demoBase blockedSwell; s.swellAt ⟨5, 9⟩ = some blockedSwell ∧ mayLeave s 5 blockedSwell = true ∧ (∀ x ∈ (s.core 0).l1, x.dirty = 0) ∧ mergeWaits s 0 (fun _ => true) = false ∧ 5 * 1024 + 1408 ≤ 786432 - (s.core 0).bndTop.toNat) ∧
    (merging.swellAt ⟨5, 9⟩ = some blockedSwell ∧ mayLeave merging 5 blockedSwell = true ∧ (∀ x ∈ (merging.core 0).l1, x.dirty = 0) ∧ mergeWaits merging 0 (fun _ => true) = true) ∧
    (let s := { ready with cores := [(0, { bounded with save := [blockedSwell] })] }; findSaved s 0 9 = some (.inl 0, blockedSwell) ∧ (s.ctx 0).status = 2 ∧ usable s 0 demoLaunch = true ∧ kvGet s.swells 31 = none ∧
      canHold s 0 demoLaunch = true ∧ hasBounds (s.core 0) demoBay = true ∧ slowPlace s 0 40 = some 0 ∧ blockedSwell.contMark = false ∧ residentOf s 0 1 < demoBay.swells ∧ (∀ x ∈ s.cores, x.2.l1 = []) ∧ ∀ d, Settled s d) :=
  ⟨⟨by rfl, by decide +kernel⟩, by decide +kernel, by rfl, by decide +kernel, ⟨by decide +kernel, by decide +kernel⟩, by decide +kernel, ⟨⟨_, by rfl⟩, by decide +kernel, (0, { w0 with uid := 20, active := true }), by simp [coreSwells, packed, coreOfKey], by decide +kernel, by decide +kernel⟩, ⟨_, _, by rfl, by decide⟩, by decide +kernel, ⟨by rfl, by decide +kernel⟩, ⟨by rfl, by decide +kernel⟩,
    ⟨by rfl, by decide +kernel, by decide +kernel, by rfl, by decide +kernel, by decide +kernel, by decide +kernel, by decide +kernel, by decide +kernel, by decide +kernel, settled_none rfl⟩⟩

/-- A launch over two clusters of die 0 that donates, and a frame's part on die 0 with one tile. -/
def wide : Launch := { demoLaunch with bay := { demoBay with rows := 2, cols := 32, flags := 2 } }
def aTile : Tile := { tile := 0, prims := [], pixels := [], st := .binning, blends := [] }
def aPart : RenderDie := { die := 0, held := [], markers := [], released := 0, packets := [], tiles := [aTile], binned := false }
/-- A frame of one pixel whose bin region lies at 2^56, outside every space, and its part on die 0 with one tile. -/
def tileDesc (again : Bool) (cbase : Addr) : RenderDesc := { demoDesc with width := 1, height := 1, reshade := again, cbase := cbase, cpitch := 256, bin := 0x100000000000000 }
def tilePart (st : TileState) : RenderDie := { aPart with tiles := [{ aTile with st := st }] }
def tileFrame (d : RenderDesc) (st : TileState) : Frame := { demoFrame with desc := d, parts := [tilePart st] }
def tileLaunch (d : RenderDesc) (st : TileState) : Launch := { demoLaunch with frame := some (tileFrame d st) }
def framed (d : RenderDesc) (st : TileState) : State := { hosted 2 with launches := [(1, tileLaunch d st)] }
/-- The part of a die with more tiles than a batch holds. -/
def crowded : RenderDie := { aPart with tiles := (List.range 1025).map fun i => { aTile with tile := i } }
/-- The wait of a tile that is to be shaded, as its statement computes it. -/
def tileWaits (d : RenderDesc) : Bool × State :=
  clearWaits (framed d .binning) 0 0 (.tile 1 0 0) (clearPieces d 0 ++ if d.reshade then [] else binPieces (tileFrame d .binning) (tilePart .binning) aTile)
theorem clearWaits_beyond (die ctx : Nat) (u : DevUser) (s : State) (qs ps : List (Nat × List Byte)) (h : ∀ p ∈ ps, 2 ^ 56 ≤ p.1) : clearWaits s die ctx u (qs ++ ps) = clearWaits s die ctx u qs := by
  unfold clearWaits
  rw [List.foldl_append]
  generalize List.foldl _ (false, s) qs = x
  induction ps with
  | nil => rfl
  | cons p ps ih =>
    rw [List.foldl_cons]
    have hp := h p (List.mem_cons_self ..)
    simp only [devPlace, agentPlace, hp, if_true]
    exact ih fun q hq => h q (List.mem_cons_of_mem _ hq)
theorem bins_beyond : ∀ p ∈ binPieces (tileFrame (tileDesc false 0x10000) .binning) (tilePart .binning) aTile, 2 ^ 56 ≤ p.1 := by decide +kernel
/-- The stores of cluster 0 full. -/
def fullStores : State := { ready with clusters := [(0, { Cluster.init with store := List.replicate 4096 ⟨1, 0, 0⟩ })] }
theorem test_meets_shipments : (shipCores ready 0 1 demoLaunch = [0] ∧ ∀ k, (ready.cluster k).store.length + 1 ≤ 4096) ∧ shipCores fullStores 0 1 demoLaunch = [0] ∧ 4096 ≤ (fullStores.cluster 0).store.length := by
  refine ⟨⟨by decide +kernel, fun k => ?_⟩, by decide +kernel, ?_⟩
  · by_cases h : k = 0 <;> simp [State.cluster, ready, kvGet, h, Cluster.init, eq_comm]
  · have h : fullStores.cluster 0 = { Cluster.init with store := List.replicate 4096 ⟨1, 0, 0⟩ } := rfl
    rw [h]; exact Nat.le_of_eq List.length_replicate.symm
theorem test_meets_tiles : (∀ d st, partOf (framed d st) 1 0 = some (tileLaunch d st, tileFrame d st, tilePart st)) ∧ (∀ d st, stageHeld (framed d st) 1 (tileLaunch d st) = false) ∧
    (∀ d st, ∀ k ∈ (framed d st).cores, ∀ y ∈ k.2.l1, y.dirty = 0) ∧ batchWaits (tilePart .binning) 0 = false ∧ resolvedTile (tileFrame (tileDesc false 0x10000) .binning) (tilePart .binning) aTile = aTile ∧ batchWaits crowded 1024 = true ∧
    (tileWaits (tileDesc false 0x10000)).1 = false ∧ (tileWaits (tileDesc false 0x50000)).1 = true ∧ (tileWaits (tileDesc true 0x10000)).1 = false ∧
    (∃ y s2, loadTile (tileWaits (tileDesc true 0x10000)).2 0 (.tile 1 0 0) (tileFrame (tileDesc true 0x10000) .binning) (tilePart .binning) aTile = .ok (y, s2)) ∧
    (let s := framed (tileDesc false 0x10000) .opaqueRun; launchSwells s 1 (fun w => w.role == .opaquePix 0) = false ∧ launchSwells s 1 (fun w => match w.role with | .blendPix u _ _ => u == 0 | _ => false) = false) := by
  have ok {α β ε : Type} {x : Except ε (α × β)} (h : x.isOk = true) : ∃ y z, x = .ok (y, z) := by
    cases x with
    | ok p => exact ⟨p.1, p.2, rfl⟩
    | error e => exact absurd h (by simp [Except.isOk, Except.toBool])
  refine ⟨fun _ _ => rfl, fun _ _ => rfl, fun _ _ => (by decide +kernel : ∀ k ∈ demoBase.cores, ∀ y ∈ k.2.l1, y.dirty = 0), by decide +kernel, by rfl, by decide +kernel, ?_, ?_, by decide +kernel, ok (by decide +kernel), by decide +kernel, by decide +kernel⟩
  · rw [tileWaits, clearWaits_beyond _ _ _ _ _ _ (by decide +kernel)]; decide +kernel
  · rw [tileWaits, clearWaits_beyond _ _ _ _ _ _ (by decide +kernel)]; decide +kernel
theorem test_meets_tasks_and_launches : (launchLive ready 1 = some demoLaunch ∧ usable ready 0 demoLaunch = true ∧ (ready.cluster 0).store.filter (fun t => t.launch == 1 && t.core == 0) = [⟨1, 0, 0⟩] ∧ residentOf ready 0 1 < demoBay.swells ∧
      canHold ready 0 demoLaunch = true ∧ hasBounds (ready.core 0) demoBay = true ∧ (ready.core 0).ctx = some 0 ∧ freeSlot ready 0 = some 0 ∧ slabsToRise ready 0 0 = [] ∧ slowPlace ready 0 40 = some 0) ∧
    (let s := { hosted 2 with launches := [(1, wide)], swells := [], clusters := [(0, { Cluster.init with steals := [⟨1, [1]⟩] }), (1, { Cluster.init with store := [⟨1, 64, 1⟩] })] }; launchLive s 1 = some wide ∧ idleFor s 0 1 wide = true ∧
      (s.cluster 0).steals.find? (fun y => y.launch == 1) = some ⟨1, [1]⟩ ∧ (unstarted s 1 1).length = 1) ∧ launchLive s0 7 = none ∧ stealOrder wide 0 ≠ [] ∧ clusterCores demoLaunch 0 = [0] ∧ { demoLaunch with st := .complete }.active = false ∧
    (demoLaunch.cores = [0] ∧ dieOfCore 0 = 0) ∧ (launchSwells ready 1 (fun _ => true) = false ∧ ({ demoLaunch with ended := 1 } : Launch).bay.tasks ≤ ({ demoLaunch with ended := 1 } : Launch).ended) ∧
    ((∀ x ∈ (hosted 2).due, ∀ d u, x.2 ≠ .tileShadeStart d 1 u) ∧ NoLines (hosted 2) ∧ (hosted 2).msgs = [] ∧ (hosted 2).clusters = [] ∧
      ∃ loc s1, devPlace ((hosted 2).updLaunch 1 fun x => { x with doneStep := 1 }) 0 0 true .store 0x10040 4 (.done 1) = (.ok loc, s1) ∧ loc.pa = 0x20040 ∧ s1.badSectors = [] ∧ ∀ x ∈ s1.dies, x.2.partition = [] ∧ x.2.dir = [] ∧ x.2.ros = []) :=
  ⟨⟨by rfl, by decide +kernel, by rfl, by decide +kernel, by decide +kernel, by decide +kernel, by rfl, by decide +kernel, by rfl, by decide +kernel⟩, ⟨by rfl, by decide +kernel, by rfl, by decide +kernel⟩, by rfl, by decide +kernel, by decide +kernel, by decide,
    by decide +kernel, ⟨by decide +kernel, by decide⟩, ⟨(fun _ h => nomatch h), (by decide : ∀ x ∈ demoBase.cores, x.2.l1 = []), rfl, rfl, ⟨0x20040, .dp, false, 0, false⟩, _, by rfl, rfl, rfl, by decide +kernel⟩⟩

/-- A COPY within the cluster scratch of a number of bytes, and the engine that has it. -/
def copyBlock (rlen : Word) : List Word := [0x10000, 0, 0x20000, 0, rlen, 0, 0, 0x00090001, 0]
def aCmd (k : EngKind) (b : List Word) (n : Nat) : EngCmd := { seq := 1, order := 1, kind := k, ctx := 0, fr := ⟨5, 9, 0⟩, core := 0, user := true, launch := 1, block := b, st := .queued, done := 0, total := n, counted := 0, stall := none, denied := none, since := none, idx := [], buf := [], src := [], dst := [], held := [], handed := false }
def copying (b : List Word) : State := { filled with clusters := [(0, { Cluster.init with engines := Cluster.init.engines.set 0 { Engine.init with seq := 1, cmds := [aCmd .copy b (copyBytes b)] } })] }
theorem onlyCmd_on (b : List Word) : OnlyCmd (copying b) 0 0 (aCmd .copy b (copyBytes b)) := ⟨by decide, rfl, ⟨rfl, rfl⟩, rfl⟩
theorem test_meets_engine_steps : copyReason (copyBlock 0) ≠ 0 ∧ cmdBar .copy (copyBlock 64) = none ∧ OnlyCmd (copying (copyBlock 64)) 0 0 (aCmd .copy (copyBlock 64) (copyBytes (copyBlock 64))) ∧
    (let b := copyBlock 64; let s := copying b; let m := aCmd .copy b (copyBytes b); copyReason b = 0 ∧ boardHolds s 0 m = false ∧ copyXp b = 0 ∧ copySsp b = 1 ∧ copyDsp b = 1 ∧ copyRlen b = 64 ∧ m.total = 64 ∧ blkField b 7 24 1 = 0 ∧
      blkPair b 0 % 2 ^ 32 = 0x10000 ∧ blkPair b 2 % 2 ^ 32 = 0x20000 ∧ scratchBad s 0 0 0x10000 64 false = false ∧ scratchErr s 0 0x10000 64 = false ∧ scratchBad s 0 0 0x20000 64 true = false ∧ ticketKept (s.engine 0 0) m.seq = true ∧ ∀ x ∈ s.clusters, x.2.waiters = []) :=
  ⟨by decide +kernel, by decide +kernel, onlyCmd_on _, by decide +kernel⟩

/-! ### Hosts, contexts and the package -/

/-- A context record whose pilot bay record lies at page 1. -/
def record (st : Byte) : Ctx := { Ctx.init with bar := [(0x02, 0x10), (0x10, 1), (0x2C, 1), (0x42, 1), (0x55, st)] }
def bayBytes : Bytes := writeBytes (writeBytes pageTable 0x20000 [0, 0, 1]) 0x20018 [1, 0, 0, 0, 0, 0, 8, 0, 0, 0, 0, 0, 1, 0, 1, 0, 40, 1]
def creating : State := { s0 with swells := [], mem := bayBytes, ctxs := [(0, record 0)], pkg := { s0.pkg with rects := [⟨0, 1, 1, 0, 0⟩] } }
theorem test_meets_suspensions : (({ hosted 2 with swells := [] } : State).ctx 0).status = 2 ∧ ((hosted 2).ctx 0).status = 2 ∧ ((hosted 4).ctx 0).status = 4 ∧ (hosted 2).launches = [(1, demoLaunch)] ∧
    (let s := { hosted 2 with swells := [(5, blockedSwell)] }; mayLeave s 5 blockedSwell = true) ∧ (∀ st ∈ [2, 3, 4], ((hosted st).ctx 0).status = st.toNat) ∧ ((hosted 6).ctx 0).status = 6 ∧ ∀ d, Settled (hosted 6) d :=
  ⟨by decide +kernel, by decide +kernel, by decide +kernel, rfl, by decide +kernel, by decide +kernel, by decide +kernel, settled_none rfl⟩
theorem test_meets_contexts : (s0.ctx 0).status = 0 ∧ (recordBad ((requestCreate s0 0).ctx 0) = true ∨ ((requestCreate s0 0).ctx 0).field 0x40 8 % 64 ≠ 0) ∧ ((hosted 2).ctx 0).status = 2 ∧
    (recordBad ((requestCreate creating 0).ctx 0) = false ∧ ((requestCreate creating 0).ctx 0).field 0x40 8 = 0x10000) := by decide +kernel
theorem test_meets_creation : ∃ loc s2, devPlace (requestCreate creating 0) (requestCreate creating 0).pkg.lead 0 true .load 0x10000 64 .create = (.ok loc, s2) ∧ loc.host = false ∧
    (let bs := coherentBytes s2 loc.pa 64; let l := newLaunch s2 0 0x10000 (bayOf bs) true; bayLimits s2 bs = false ∧ l.bay.host = true ∧ l.bay.render = false ∧ bayMarked s2 l = false) :=
  ⟨⟨0x20000, .dp, false, 0, false⟩, _, by rfl, rfl, by decide +kernel⟩
/-- The context's mailbox word 3 kept full; the pilot launch on core 0. -/
def mailed (st : Byte) : State := { s0 with ctxs := [(0, { aCtx st with mbFull := 8 })] }
def piloted : State := { s0 with ctxs := [(0, aCtx 2)], launches := [(1, { demoLaunch with pilot := true })] }
theorem test_meets_host_writes : ((mailed 0).ctx 0).status = 0 ∧ ((mailed 2).ctx 0).status = 2 ∧ (mbStat (mailed 2) 0).getLsbD 3 = true ∧ (mbStat (mailed 2) 0).getLsbD 31 = false ∧ mailboxCore (mailed 2) 0 = none ∧
    31 < ((mailed 2).ctx 0).mbWords.length ∧ (mbStat piloted 0).getLsbD 31 = false ∧ mailboxCore piloted 0 = some 0 ∧ s0.pkg.powerState = 0 ∧ inShelf 0x10FF = false ∧ paExists 0x10F0 = true ∧ paExists 0x10FF = true ∧
    paExists (hbmEnd - 1) = true ∧ paExists hbmEnd = false ∧ hostBehind s0 0 = 0 ∧ hostBehind (mailed 2) 0 = 0 ∧ hostBehind piloted 0 = 0 ∧ (s0.pkg.ports.find? (fun p => p.die == 63) = some ⟨63, false, 0, 0⟩ ∧ 63 ≠ s0.pkg.primary) ∧
    hostBehind { s0 with now := 2, msgs := [(7, { aMsg (.store [1]) with fr := ⟨31, 0, 0⟩ })], due := [(9, .homeWrite 7)] } 0 = 7 := by decide +kernel

/-- Window 0 of 16 bytes at page 1 with its counter words in page 3; a put that fills it, and one that has left. -/
def aWindow : Ctx := { Ctx.init with bar := [(0x02, 0x10), (0x55, 2), (0x20002, 1), (0x20008, 16), (0x2001A, 3), (0x20022, 3), (0x20028, 3), (0x2002B, 0x80)] }
def aPutIn (n : Nat) : PutIn := ⟨0, 0, 0, List.replicate n 7, none⟩
def receiving : State := { hosted 2 with ctxs := [(0, aWindow)] }
def aPut (waiting : Bool) : Put := ⟨0, 0, 0, 1, 0, 0, 0, [], none, 0, waiting, false⟩
def sending (waiting : Bool) : State := { receiving with now := 2 ^ 24, clusters := [(0, { Cluster.init with engines := Cluster.init.engines.set 0 { Engine.init with seq := 1, cmds := [aCmd .wsend [] 0] } })], pkg := { s0.pkg with puts := [(4, aPut waiting)] } }
/-- An all-gather of one rank, 4 words from page 1 to page 1 + 0x40. -/
def gatherBlock (n : Word) : List Word := [0x10000, 0, 0x10040, 0, n, 0x04000000, 0, 0x01000000, 0]
def collecting (n : Word) : State := { hosted 2 with clusters := [(0, { Cluster.init with engines := Cluster.init.engines.set 0 { Engine.init with seq := 1, cmds := [aCmd .coll (gatherBlock n) 16] } })], dies := [(0, { Die.init with colls := [⟨0, 7, 0, 0, 1⟩] })] }
theorem put_counts : ∃ l s1, cmdPlace (sending true) 0 (aCmd .wsend [] 0) .atomic (((sending true).ctx 0).window 0).ocnt 4 = (.ok l, s1) :=
  match h : cmdPlace (sending true) 0 (aCmd .wsend [] 0) .atomic (((sending true).ctx 0).window 0).ocnt 4 with
  | (.ok l, s1) => ⟨l, s1, rfl⟩
  | (.page _, _) | (.later _, _) | (.fail _, _) => absurd (congrArg (fun x => match x.1 with | .ok _ => true | _ => false) h)
      (by rw [show (match (cmdPlace (sending true) 0 (aCmd .wsend [] 0) .atomic (((sending true).ctx 0).window 0).ocnt 4).1 with | .ok _ => true | _ => false) = true by decide +kernel]; simp)
theorem test_meets_puts_and_collectives : (let w := (receiving.ctx 0).window 0; w.valid = true ∧ w.putin = true ∧ w.size = 16 ∧ w.tcnt % 4 = 0 ∧ (receiving.ctx 0).status = 2 ∧ receiving.pkg.heldPuts = [] ∧ (w.base + 0) % 256 + 16 ≤ 256) ∧
    ((s0.ctx 0).window 0).valid = false ∧ (aPutIn 17).toff + (aPutIn 17).bytes.length = 17 ∧
    (let r := agentPlace receiving 0 0 true .engWrite 0x10000 16 none; let q := agentPlace r.2 0 0 true .atomic 0x30000 4 none
      (match r.1, q.1 with | .ok l1, .ok l2 => l1.pa == 0x20000 && l2.pa == 0x40000 && !l1.host && !l2.host | _, _ => false) = true ∧ q.2.badSectors = [] ∧ ∀ x ∈ q.2.dies, x.2.partition = [] ∧ x.2.dir = [] ∧ x.2.ros = []) ∧
    (let s := sending true; ticketKept ((collecting 0).engine 0 0) 1 = true ∧ ticketKept ((collecting 4).engine 0 0) 1 = true ∧ kvGet s.pkg.puts 4 = some (aPut true) ∧ ticketKept (s.engine 0 0) 1 = true ∧ s.cmdAt 0 0 1 = some (aCmd .wsend [] 0) ∧ (aPut true).tried + 2 ^ 24 ≤ s.now) ∧ kvGet (sending false).pkg.puts 4 = some (aPut false) ∧
    (∃ l s1, cmdPlace (sending true) 0 (aCmd .wsend [] 0) .atomic (((sending true).ctx 0).window 0).ocnt 4 = (.ok l, s1)) ∧
    (collecting 0).pkg.xfers = [] ∧ (collecting 4).pkg.xfers = [] ∧ (collParts (collecting 0) 0 7 = [(0, 0, 0, aCmd .coll (gatherBlock 0) 16)] ∧ collBad (collecting 0) 0 (aCmd .coll (gatherBlock 0) 16) = true) ∧
    (let b := gatherBlock 4; collParts (collecting 4) 0 7 = [(0, 0, 0, aCmd .coll b 16)] ∧ collBad (collecting 4) 0 (aCmd .coll b 16) = false ∧ collKind b = 1 ∧ collNpk b = 1 ∧ collCove b = [0] ∧ collStats b = false ∧ blkPair b 2 % 256 + 16 ≤ 256) ∧
    (let ps := [(0, 0, 0, aCmd .coll (gatherBlock 4) 16)]; let g := collGather (collecting 4) ps; let b := collBlocked g.2 ps
      let r := collPlaces { collClear b.2 0 7 with freeCtr := b.2.freeCtr + 2 } 0 (aCmd .coll (gatherBlock 4) 16) [(0x10040, 16)]
      (match g.1 with | .ok [(0, bs)] => bs.length == 16 | _ => false) = true ∧ b.1.isNone = true ∧ (match r.1 with | .ok [l] => l.pa == 0x20040 && !l.host && l.die == 0 | _ => false) = true ∧
      r.2.badSectors = [] ∧ ∀ x ∈ r.2.dies, x.2.partition = [] ∧ x.2.dir = [] ∧ x.2.ros = []) :=
  ⟨by decide +kernel, by decide +kernel, by decide, by decide +kernel, by decide +kernel, by decide +kernel, put_counts, rfl, rfl, by decide +kernel, by decide +kernel,
    by decide +kernel⟩

/-- A page request of the fragment with its fault-queue entry 9. -/
def aReqPage : PageReq := ⟨0, 1, ⟨false, false, false, false⟩, 0, [.swell ⟨5, 9, 0⟩], some 9, false, 0⟩
def wAsks : Swell := demoOf fun f => { f with st := 1, wkind := 8, wait := some (.service 1 0x10000) }
def asking : State := { on demoBase wAsks with ctxs := [(0, aCtx 2)], dies := [(0, { Die.init with reqs := [aReqPage] })] }
theorem test_meets_fault_service : (((hosted 2).ctx 0).status = 2 ∧ serviceServes (hosted 2) 0 1 ⟨false, false, false, false⟩ none = true ∧ serviceServes (hosted 6) 0 1 ⟨false, false, false, false⟩ none = false ∧
    serviceBusy ((hosted 2).updDie 0 fun d => { d with updating := true }) 0 0 1 = true ∧ serviceBusy (hosted 2) 0 0 1 = false ∧ isHost (BitVec.ofNat 64 (2 ^ 39 * 65536)) = true ∧ isHost (BitVec.ofNat 64 (1 * 65536)) = false) ∧
    (hosted 2).dies = [] ∧ ((hosted 2).ctx 0).fqhead - ((hosted 2).ctx 0).fqtail ≠ 4096 ∧ aReqPage.page = 1 ∧ (asking.cluster 0).waiters = [] ∧ asking.dies.length = 1 ∧
    (asking.die 0).reqs = [aReqPage] ∧ anySwell asking 9 = some (some 5, wAsks) ∧ asking.swellAt ⟨5, 9⟩ = some wAsks ∧ (wAsks.ent 0).wait = some (.service 1 0x10000) ∧ wAsks.busy = false ∧
    (let word : Addr := 0x200000009; (word.extractLsb' 32 2).toNat = 2 ∧ word.extractLsb' 34 30 = 0 ∧ asking.dies.findSome? (fun x => x.2.reqs.find? fun r => r.ctx == 0 && r.fqid == some (loWord word)) = some aReqPage) ∧
    asking.dies.findSome? (fun x => x.2.reqs.find? fun r => r.ctx == 0 && r.fqid == some (loWord 0x100000008)) = none :=
  ⟨by decide +kernel, rfl, by decide +kernel, rfl, by decide +kernel, rfl, by rfl, by rfl, by rfl, by rfl, by rfl, ⟨by decide +kernel, by decide +kernel, by rfl⟩, by rfl⟩

/-- Die 0 with a message in the queue of its east link, and one spilled; die 0 as lead with neighbours. -/
def eastBound : State := { s0 with msgs := [(7, { aMsg (.store [1]) with loc := ⟨0x400000020000, .ucr, false, 1, false⟩ })], dies := [(0, { Die.init with routes := 0 :: List.replicate 63 2 })], due := [(60, .homeWrite 7)] }
def spilled : State := { eastBound with dies := [(0, { Die.init with links := [⟨1, 0, [7], []⟩] })] }
/-- What a boot reads where no management module is present. -/
def noBoot : BootCfg := ⟨[], [], [], [], [], none, none, false, [63]⟩
def suspect : State := s0.updCore 0 fun c => { c with err := BitVec.twoPow 64 63 }
theorem test_meets_package_events : (∃ m, kvGet eastBound.msgs 7 = some m ∧ m.flits ≤ 262144) ∧ (∃ c, outQueue eastBound 0 1 c = [7]) ∧ outQueue s0 0 1 0 = [] ∧ (spilled.die 0).links = [⟨1, 0, [7], []⟩] ∧ (eastBound.die 0).links = [] ∧ (spilled.die 1).links = [] ∧
    (∀ x ∈ s0.dies, ∀ l ∈ x.2.links, l.stalled = false) ∧ (∃ x ∈ spilled.dies, ∃ l ∈ x.2.links, l.stalled = true) ∧ (∃ p, timeParent { s0 with dies := [(1, { Die.init with routes := List.replicate 64 4 })] } 1 = some p) ∧
    (let d := { s0 with now := 2 ^ 20 }; (s0.atime 0 - (s0.die 0).disc.syncAt).toNat < 2 ^ 20 ∧ 2 ^ 20 ≤ (d.atime 0 - (d.die 0).disc.syncAt).toNat ∧ (d.die 0).disc.lead = false) ∧
    anyContext s0 = false ∧ anyContext (hosted 2) = true ∧ (let s := s0.updDie 0 fun d => { d with disc := { d.disc with src := 2 } }; s.pkg.managed = true ∧ (s.die 0).disc.src = 2) ∧
    (let s := s0.updDie 0 fun d => { d with disc := { d.disc with src := 1 } }; s.pkg.managed = true ∧ (s.die 0).disc.src = 1) ∧ ((s0.die 0).live = true ∧ (s0.die 0).updating = false) ∧
    (let s := s0.updDie 0 fun d => { d with live := false }; ¬ ((s.die 0).live = true ∧ (s.die 0).updating = false) ∧ ([0, 7, 56, 63] ++ List.range 64).find? (fun d => (s.die d).live && !(s.die d).updating) = some 7) ∧
    (deviceIdle State.reset = true ∧ deviceIdle s0 = false) ∧ ((suspect.core 0).err.getLsbD 63 = true ∧ (s0.core 0).err.getLsbD 63 = false) ∧ ((∀ x ∈ (s0.die 0).reinstated, x.2 < (s0.die 0).retired.length) ∧ coreOut (s0.die 0) 0 = false ∧ coreOut ((s0.updDie 0 fun d => { d with fuse := 1 }).die 0) 0 = true) ∧
    ({ noBoot with managed := true, primary := some 7, portsUp := [7] }.primary = some 7 ∧ noBoot.managed = false ∧ noBoot.portsUp.contains 63 = true) ∧ (markedBusy s0 = false ∧ markedBusy { s0 with pkg := { s0.pkg with marked := [0], rects := [⟨0, 1, 1, 0, 0⟩] } } = true) ∧ (s0.die 0).hbmSpares.length < 2 ∧ s0.pkg.ports[3]? = some ⟨63, false, 0, 0⟩ ∧ (s0.die 0).measures[7]? = some (List.replicate 32 0) ∧ 63 ∈ [0, 7, 56, 63] :=
  ⟨⟨_, by rfl, by decide +kernel⟩, ⟨0, by decide +kernel⟩, by decide +kernel, by rfl, by rfl, by rfl, by decide, by decide, ⟨_, by rfl⟩, by decide +kernel⟩
theorem test_meets_TurnStaysLegal : TurnLegal picked ∧ ∃ t, step State.reset = .next t := ⟨⟨by decide, by decide, by decide⟩, _, rfl⟩

/-! ## Results that the spec works out in its examples (R100 to R112, R140, R119 to R130) -/

theorem test_integer_results :
    0xFFFFFFF0 + 3 * 7 = (5 : Word) ∧ shr 0x80000010 4 = 0x08000001 ∧ sra 0x80000010 4 = 0xF8000001 ∧ sra 0x80000010 40 = 0xFFFFFFFF ∧
    mulh 0xFFFFFFFF 2 = 0xFFFFFFFF ∧ mulhn 0xFFFFFFFF 2 = 1 ∧ adds 0x7FFFFFF0 0x20 = 0x7FFFFFFF ∧ rol 0x80000001 33 = 3 := by decide +kernel
theorem test_field_results :
    bfx 0x0A5C 0x0804 = 0xFFFFFFA5 ∧ bfxn 0x0A5C 0x0804 = 0xA5 ∧ bfi 0xFFFFFFFF 0x0A5C 0x0804 = 0xFFFFF5CF := by decide +kernel
theorem test_division_results :
    divs (-7) 2 = (0xFFFFFFFD, 0xFFFFFFFF) ∧ divn (-7) 2 = (0x7FFFFFFC, 1) := by decide +kernel
theorem test_byte_results :
    bswap 0xF0A1 = 0xA1F00000 ∧ brev 0xF0A1 = 0x850F0000 ∧ sexth 0xF0A1 = 0xFFFFF0A1 ∧ sextb 0xF0A1 = 0xFFFFFFA1 ∧
    prmt 0x17200501 0x44332211 0x88776655 = 0xFF886622 ∧ prmt 0x20212223 0x44332211 0x88776655 = brev 0x44332211 := by decide +kernel
def rne : FEnv := ⟨.rne, false, false⟩
theorem test_float_results :
    (fadd rne 0x7F7FFFFF 0x7F7FFFFF).1 = 0x7F800000 ∧ (fadd ⟨.rtz, false, false⟩ 0x7F7FFFFF 0x7F7FFFFF).1 = 0x7F7FFFFF ∧
    (fadd ⟨.rne, true, false⟩ 0x7F7FFFFF 0x7F7FFFFF).1 = 0x7F7FFFFF ∧ (fsub rne 0 0).1 = 0 ∧ (fsub ⟨.rdn, false, false⟩ 0 0).1 = 0x80000000 ∧
    (fmin 0x80000000 0).1 = 0x80000000 ∧ (fmin 0 0x80000000).1 = 0x80000000 ∧
    frcp rne 0x40400000 = (0x3EAAAAAB, flagNX) ∧ frcp ⟨.rtz, false, false⟩ 0x40400000 = (0x3EAAAAAA, flagNX) := by decide +kernel
theorem test_conversion_results :
    cvt .fp32 .n8 rne 0x43960000 = (0xFF, flagNV) ∧ cvt .fp32 .s8 rne 0xC0200000 = (0xFFFFFFFE, flagNX) ∧
    cvt .fp32 .bf16 rne 0x4380C000 = (0x4381, flagNX) ∧ h2add false rne 0x3F804000 0x3B803F80 = (0x3F804040, flagNX) := by decide +kernel

/-- A die after the spill of R364's example: edge E of die 26 has spilled once and holds 96 flits. -/
def stalledEast : State := State.reset.updDie 26 fun d => { d with spillRegs := [(1, ⟨1, 0, 96⟩)] }
theorem test_spills_read : hostRead stalledEast .pf1 (0x10000 + 26 * 0x1000 + 0x10) 8 = some 0x0000000100000060 := by decide +kernel
/-- What PF1 reads of that register after a write. -/
def afterWrite (fn : HostFn) (off : Nat) : Option Addr :=
  match execRegisterWrite fn off 4 1 stalledEast with
  | .next t => hostRead t .pf1 (0x10000 + 26 * 0x1000 + 0x10) 8
  | _ => none
theorem test_spills_cleared_by_firmware_only :
    afterWrite (.firmware 26) 0x14 = some 0x60 ∧ afterWrite .pf1 (0x10000 + 26 * 0x1000 + 0x14) = some 0x0000000100000060 := by decide +kernel
end Sys2Proof.Tests
end

/-! SUPPORT and PROOF. Rounding to a unit as division of naturals, finish for FP32 as one rounding to the code next to the exact value, and O14. -/

namespace Sys2Proof.Machine

/-! ## Rounding at a unit (R16) -/

/-- The exact magnitude `p / q` lies where `x` says: at `m · 2^e`, or strictly between it and `(m + 1) · 2^e` when `x` is sticky.
Stated over the naturals, at every way to write `2^e` as `2^i / 2^j`. -/
def XReal.Denotes (x : XReal) (p q : Nat) : Prop :=
  ∀ i j : Nat, x.e = (i : Int) - j →
    x.m * q * 2 ^ i ≤ p * 2 ^ j ∧ p * 2 ^ j < (x.m + 1) * q * 2 ^ i ∧ (x.sticky = false ↔ x.m * q * 2 ^ i = p * 2 ^ j)

/-- The quotient of two naturals rounded once to a natural (R16). -/
def roundQuot (rm : Rm) (neg : Bool) (X U : Nat) : Nat :=
  X / U + if roundUp rm neg (X / U % 2 == 1) (X % U != 0) (compare (2 * (X % U)) U) then 1 else 0

/-- Two magnitudes compare alike at every scale with the same quotient of powers. -/
theorem mul_two_pow_le_iff {A B i j i' j' : Nat} (h : (i : Int) - j = (i' : Int) - j') : A * 2 ^ i ≤ B * 2 ^ j ↔ A * 2 ^ i' ≤ B * 2 ^ j' := by
  have widen (i j k : Nat) : A * 2 ^ i ≤ B * 2 ^ j ↔ A * 2 ^ (i + k) ≤ B * 2 ^ (j + k) := by
    rw [Nat.pow_add, Nat.pow_add, ← Nat.mul_assoc, ← Nat.mul_assoc, Nat.mul_le_mul_right_iff (Nat.two_pow_pos k)]
  rw [widen i j j', widen i' j' j, show i + j' = i' + j by omega, Nat.add_comm j j']

/-- It is enough to place the magnitude at one scale. -/
theorem XReal.denotes_of {x : XReal} {p q i j : Nat} (he : x.e = (i : Int) - j) (lo : x.m * q * 2 ^ i ≤ p * 2 ^ j)
    (hi : p * 2 ^ j < (x.m + 1) * q * 2 ^ i) (ex : x.sticky = false ↔ x.m * q * 2 ^ i = p * 2 ^ j) : x.Denotes p q := by
  intro i' j' he'
  have h : (i : Int) - j = (i' : Int) - j' := he.symm.trans he'
  have up {A B : Nat} := mul_two_pow_le_iff (A := A) (B := B) h
  have down {A B : Nat} := mul_two_pow_le_iff (A := A) (B := B) (i := j) (j := i) (i' := j') (j' := i') (by omega)
  refine ⟨up.mp lo, Nat.lt_of_not_le (mt up.mpr (Nat.not_le.mpr hi)), ex.trans ?_⟩
  rw [Nat.eq_iff_le_and_ge, Nat.eq_iff_le_and_ge, up, down]

theorem XReal.denotes_of_eq {neg : Bool} {m p q i j : Nat} {e : Int} (hq : 0 < q) (he : e = (i : Int) - j) (h : m * q * 2 ^ i = p * 2 ^ j) :
    XReal.Denotes ⟨neg, m, e, false⟩ p q := by
  refine XReal.denotes_of he (Nat.le_of_eq h) (h ▸ Nat.mul_lt_mul_of_pos_right ?_ (Nat.two_pow_pos i)) (iff_of_true rfl h)
  exact Nat.mul_lt_mul_of_pos_right (Nat.lt_add_one m) hq

theorem div_eq_div_of_scaled {m X U j : Nat} (lo : m * U ≤ X * 2 ^ j) (hi : X * 2 ^ j < (m + 1) * U) : X / U = m / 2 ^ j := by
  have hm : X * 2 ^ j / U = m := Nat.div_eq_of_lt_le lo hi
  rw [← hm, Nat.div_div_eq_div_mul, Nat.mul_div_mul_right _ _ (Nat.two_pow_pos j)]

/-- The bits of `m` below the unit lie about the dropped part of the quotient as `m` lies about the whole. -/
theorem mod_scaled {m X U j : Nat} (lo : m * U ≤ X * 2 ^ j) (hi : X * 2 ^ j < (m + 1) * U) :
    m % 2 ^ j * U ≤ X % U * 2 ^ j ∧ X % U * 2 ^ j < (m % 2 ^ j + 1) * U ∧ (m * U = X * 2 ^ j ↔ m % 2 ^ j * U = X % U * 2 ^ j) := by
  have eX : X * 2 ^ j = m / 2 ^ j * 2 ^ j * U + X % U * 2 ^ j := by
    rw [← div_eq_div_of_scaled lo hi, Nat.mul_right_comm, ← Nat.add_mul, Nat.div_add_mod']
  have em : m * U = m / 2 ^ j * 2 ^ j * U + m % 2 ^ j * U := by rw [← Nat.add_mul, Nat.div_add_mod']
  rw [Nat.add_one_mul] at hi ⊢
  generalize m % 2 ^ j * U = r, X % U * 2 ^ j = R, m / 2 ^ j * 2 ^ j * U = Q, X * 2 ^ j = Y, m * U = M at *
  omega

/-- The dropped bits compared with one half, a tie broken by the sticky bit, place the dropped part about one half. -/
theorem compare_half {r R U j : Nat} {sticky : Bool} (lo : r * U ≤ R * 2 ^ (j + 1)) (hi : R * 2 ^ (j + 1) < (r + 1) * U)
    (ex : sticky = false ↔ r * U = R * 2 ^ (j + 1)) :
    (compare r (2 ^ j)).then (if sticky then .gt else .eq) = compare (2 * R) U := by
  have hj := Nat.two_pow_pos j
  have hp : R * 2 ^ (j + 1) = 2 * R * 2 ^ j := by rw [Nat.pow_succ]; ac_rfl
  rw [hp] at lo hi ex
  rcases Nat.lt_trichotomy r (2 ^ j) with h | h | h
  · have hlt : 2 * R * 2 ^ j < U * 2 ^ j := Nat.lt_of_lt_of_le hi (by rw [Nat.mul_comm U]; exact Nat.mul_le_mul_right U h)
    rw [Nat.compare_eq_lt.mpr h, Nat.compare_eq_lt.mpr (Nat.lt_of_mul_lt_mul_right hlt)]
    rfl
  · rw [h, Nat.mul_comm] at lo ex
    have hle := Nat.le_of_mul_le_mul_right lo hj
    rw [Nat.mul_left_inj (Nat.ne_of_gt hj)] at ex
    rw [Nat.compare_eq_eq.mpr h]
    cases sticky with
    | false => exact (Nat.compare_eq_eq.mpr (ex.mp rfl).symm).symm
    | true => exact (Nat.compare_eq_gt.mpr (Nat.lt_of_le_of_ne hle fun he => absurd (ex.mpr he) (by decide))).symm
  · have hU : 0 < U := Nat.pos_of_ne_zero fun h0 => by rw [h0, Nat.mul_zero] at hi; exact Nat.not_lt_zero _ hi
    have hlt : U * 2 ^ j < 2 * R * 2 ^ j := Nat.lt_of_lt_of_le (by rw [Nat.mul_comm U]; exact Nat.mul_lt_mul_of_pos_right h hU) lo
    rw [Nat.compare_eq_gt.mpr h, Nat.compare_eq_gt.mpr (Nat.lt_of_mul_lt_mul_right hlt)]
    rfl

/-- `roundAt` below the unit: the bits kept, and one more by the dropped bits. -/
theorem roundAt_of_lt {x : XReal} {pos : Int} {j : Nat} (h : pos = x.e + (j + 1 : Nat)) (rm : Rm) :
    roundAt x pos rm = (x.m / 2 ^ (j + 1) + (if roundUp rm x.neg (x.m / 2 ^ (j + 1) % 2 == 1) (x.sticky || x.m % 2 ^ (j + 1) != 0)
      ((compare (x.m % 2 ^ (j + 1)) (2 ^ j)).then (if x.sticky then .gt else .eq)) then 1 else 0), x.sticky || x.m % 2 ^ (j + 1) != 0) := by
  have hk : (pos - x.e).toNat = j + 1 := by omega
  have hpos : ¬pos ≤ x.e := by omega
  simp only [roundAt, hpos, if_false, hk, Nat.add_sub_cancel]
  cases compare (x.m % 2 ^ (j + 1)) (2 ^ j) <;> rfl

/-- A division without remainder is rounded by no mode. -/
theorem roundQuot_of_mod_eq_zero (rm : Rm) (neg : Bool) {X U : Nat} (hU : 0 < U) (h : X % U = 0) : roundQuot rm neg X U = X / U := by
  have hup : ∀ odd, roundUp rm neg odd false .lt = false := by intro odd; cases rm <;> rfl
  rw [roundQuot, h, Nat.mul_zero, Nat.compare_eq_lt.mpr hU, show ((0 : Nat) != 0) = false from rfl, hup, if_neg Bool.false_ne_true, Nat.add_zero]

/-- At or below its own unit an exact value is a whole number of units, and `roundAt` changes nothing. -/
theorem roundAt_of_le {x : XReal} {pos : Int} {k : Nat} (h : x.e = pos + k) (hst : x.sticky = false) (rm : Rm) :
    roundAt x pos rm = (x.m * 2 ^ k, false) := by
  have hk : (x.e - pos).toNat = k := by omega
  have hup : roundUp rm x.neg false false .lt = false := by cases rm <;> rfl
  rw [roundAt, if_pos (by omega), hk, hst, hup, if_neg Bool.false_ne_true, Nat.add_zero]

/-- Bits are dropped, or the sticky bit stands, just where the quotient has a remainder. -/
theorem inexact_eq {r R U j : Nat} {sticky : Bool} (hU : 0 < U) (lo : r * U ≤ R * 2 ^ j) (ex : sticky = false ↔ r * U = R * 2 ^ j) :
    (sticky || r != 0) = (R != 0) := by
  have hj := Nat.two_pow_pos j
  have hr : r * U = 0 ↔ r = 0 := by rw [Nat.mul_eq_zero, or_iff_left (Nat.ne_of_gt hU)]
  have hR : R * 2 ^ j = 0 ↔ R = 0 := by rw [Nat.mul_eq_zero, or_iff_left (Nat.ne_of_gt hj)]
  cases sticky with
  | false =>
    rw [ex.mp rfl, hR] at hr
    rw [Bool.false_or, Bool.eq_iff_iff, bne_iff_ne, bne_iff_ne, ne_eq, ne_eq, hr]
  | true =>
    have hne : R ≠ 0 := fun hz => absurd (ex.mpr (by rw [hR.mpr hz] at lo ⊢; exact Nat.le_zero.mp lo)) (by decide)
    rw [Bool.true_or, bne_iff_ne.mpr hne]

/-- What `roundAt` answers for `p / q` at the unit `2^(d − c)`: the quotient rounded once, and whether the division leaves a remainder. -/
theorem roundAt_eq {x : XReal} {p q c d : Nat} (hq : 0 < q) (h : x.Denotes p q) (hs : x.sticky = true → x.e < (d : Int) - c) (rm : Rm) :
    roundAt x (d - c) rm = (roundQuot rm x.neg (p * 2 ^ c) (2 ^ d * q), p * 2 ^ c % (2 ^ d * q) != 0) := by
  have hU : 0 < 2 ^ d * q := Nat.mul_pos (Nat.two_pow_pos d) hq
  rcases Int.lt_or_le x.e ((d : Int) - c) with hpos | hpos
  · obtain ⟨j, hj⟩ : ∃ j : Nat, (d : Int) - c = x.e + (j + 1 : Nat) := ⟨((d : Int) - c - x.e - 1).toNat, by omega⟩
    obtain ⟨lo, hi, ex⟩ := h d (c + (j + 1)) (by omega)
    have eU (n : Nat) : n * q * 2 ^ d = n * (2 ^ d * q) := by ac_rfl
    have eX : p * 2 ^ (c + (j + 1)) = p * 2 ^ c * 2 ^ (j + 1) := by rw [Nat.pow_add, Nat.mul_assoc]
    rw [eU, eX] at lo hi ex
    obtain ⟨rlo, rhi, rex⟩ := mod_scaled lo hi
    rw [roundAt_of_lt hj, inexact_eq hU rlo (ex.trans rex), compare_half rlo rhi (ex.trans rex), ← div_eq_div_of_scaled lo hi, roundQuot]
  · have hst : x.sticky = false := Bool.eq_false_iff.mpr fun hx => Int.not_lt.mpr hpos (hs hx)
    obtain ⟨k, hk⟩ : ∃ k : Nat, x.e = (d : Int) - c + k := ⟨(x.e - ((d : Int) - c)).toNat, by omega⟩
    have hX : p * 2 ^ c = x.m * 2 ^ k * (2 ^ d * q) := by
      obtain ⟨-, -, ex⟩ := h (k + d) c (by omega)
      rw [← ex.mp hst, Nat.pow_add]
      ac_rfl
    have h0 : p * 2 ^ c % (2 ^ d * q) = 0 := by rw [hX]; exact Nat.mul_mod_left _ _
    rw [roundAt_of_le hk hst, roundQuot_of_mod_eq_zero rm x.neg hU h0, h0, hX, Nat.mul_div_cancel _ hU]
    rfl

/-- An exact magnitude of `p / q` rounded to a whole number. -/
theorem roundAt_zero {m p q i j : Nat} {e : Int} (neg : Bool) (hq : 0 < q) (he : e = (i : Int) - j) (h : m * q * 2 ^ i = p * 2 ^ j) (rm : Rm) :
    roundAt ⟨neg, m, e, false⟩ 0 rm = (roundQuot rm neg p q, p % q != 0) := by
  have hr := roundAt_eq (c := 0) (d := 0) hq (XReal.denotes_of_eq (neg := neg) hq he h) (fun hs => absurd hs Bool.false_ne_true) rm
  rwa [Nat.pow_zero, Nat.mul_one, Nat.one_mul] at hr

/-! ## The rounded quotient -/

theorem roundQuot_eq_or (rm : Rm) (neg : Bool) (X U : Nat) : roundQuot rm neg X U = X / U ∨ roundQuot rm neg X U = X / U + 1 := by
  unfold roundQuot
  split
  · exact .inr rfl
  · exact .inl rfl

/-- Under a mode that rounds this sign down the quotient loses its remainder. -/
theorem roundQuot_of_downward {rm : Rm} {neg : Bool} (h : Spec.downward rm neg = true) (X U : Nat) : roundQuot rm neg X U = X / U := by
  have hup : ∀ odd inexact half, roundUp rm neg odd inexact half = false := by
    intro odd inexact half
    cases rm with
    | rne => exact absurd h (by cases neg <;> decide)
    | rtz => rfl
    | rup => cases neg with
      | false => exact absurd h (by decide)
      | true => exact Bool.and_false _
    | rdn => cases neg with
      | false => exact Bool.and_false _
      | true => exact absurd h (by decide)
  rw [roundQuot, hup, if_neg Bool.false_ne_true, Nat.add_zero]

/-- Under a directed mode that does not round this sign down any remainder adds one. -/
theorem roundQuot_of_upward {rm : Rm} {neg : Bool} (hr : rm ≠ .rne) (h : Spec.downward rm neg = false) (X U : Nat) :
    roundQuot rm neg X U = X / U + if X % U = 0 then 0 else 1 := by
  have hup : ∀ odd inexact half, roundUp rm neg odd inexact half = inexact := by
    intro odd inexact half
    cases rm with
    | rne => exact absurd rfl hr
    | rtz => exact absurd h (by cases neg <;> decide)
    | rup => cases neg with
      | false => exact Bool.and_true _
      | true => exact absurd h (by decide)
    | rdn => cases neg with
      | false => exact absurd h (by decide)
      | true => exact Bool.and_true _
  rw [roundQuot, hup]
  exact congrArg (X / U + ·) ((ite_congr (propext bne_iff_ne) (fun _ => rfl) fun _ => rfl).trans (ite_not _ _ _))

theorem roundQuot_rne (neg : Bool) (X U : Nat) :
    roundQuot .rne neg X U = X / U + if U < 2 * (X % U) ∨ (2 * (X % U) = U ∧ X / U % 2 = 1) then 1 else 0 := by
  have hup : roundUp .rne neg (X / U % 2 == 1) (X % U != 0) (compare (2 * (X % U)) U) = true ↔
      U < 2 * (X % U) ∨ (2 * (X % U) = U ∧ X / U % 2 = 1) := by
    rw [roundUp, Bool.or_eq_true, Bool.and_eq_true, beq_iff_eq, beq_iff_eq, beq_iff_eq, Nat.compare_eq_gt, Nat.compare_eq_eq]
  exact congrArg (X / U + ·) (ite_congr (propext hup) (fun _ => rfl) fun _ => rfl)

/-- Rounding is exact just where the division leaves no remainder. -/
theorem roundQuot_mul_eq_iff (rm : Rm) (neg : Bool) {X U : Nat} (hU : 0 < U) : roundQuot rm neg X U * U = X ↔ X % U = 0 := by
  refine ⟨fun h => h ▸ Nat.mul_mod_left _ _, fun h => ?_⟩
  rw [roundQuot_of_mod_eq_zero rm neg hU h, Nat.div_mul_cancel (Nat.dvd_of_mod_eq_zero h)]

/-- The multiple of the unit below another, without its subtraction. -/
theorem pred_mul_add {n U : Nat} (h : n ≠ 0) : (n - 1) * U + U = n * U := by
  rw [← Nat.add_one_mul, Nat.sub_one_add_one h]

/-- The rounded quotient is the whole number next to `X / U` under the mode. -/
theorem nearest_roundQuot (rm : Rm) (neg : Bool) {X U : Nat} (hU : 0 < U) : Spec.Nearest rm neg (· * U) X (roundQuot rm neg X U) := by
  have hX : X = X / U * U + X % U := (Nat.div_add_mod' X U).symm
  have hR : X % U < U := Nat.mod_lt X hU
  have hpred := pred_mul_add (n := X / U) (U := U)
  by_cases hr : rm = .rne
  · subst hr
    rw [roundQuot_rne, Spec.Nearest, if_pos rfl]
    split
    · simp only [Nat.add_sub_cancel, Nat.add_one_mul]
      omega
    · simp only [Nat.add_zero, Nat.add_one_mul]
      omega
  · rw [Spec.Nearest, if_neg hr]
    cases hd : Spec.downward rm neg with
    | false =>
      rw [roundQuot_of_upward hr hd, if_neg Bool.false_ne_true]
      split
      · simp only [Nat.add_zero]
        omega
      · simp only [Nat.add_sub_cancel, Nat.add_one_mul]
        omega
    | true =>
      rw [roundQuot_of_downward hd, if_pos rfl]
      simp only [Nat.add_one_mul]
      omega

/-! ## Codes of FP32 (R8, R9) -/

/-- `n` units of the binade `j` are `n` codes past its base; at `n = 2^24` that is the first code of the next binade. -/
theorem mag32_code {j n : Nat} (h : j = 0 ∨ 2 ^ 23 ≤ n) (hn : n ≤ 2 ^ 24) : Spec.mag32 (j * 2 ^ 23 + n) = n * 2 ^ j := by
  unfold Spec.mag32
  rcases Nat.lt_or_eq_of_le hn with hlt | htop
  · split
    · have h0 : j = 0 := by omega
      rw [h0, Nat.pow_zero, Nat.mul_one, Nat.zero_mul, Nat.zero_add]
    · rw [show (j * 2 ^ 23 + n) / 2 ^ 23 - 1 = j by omega, show 2 ^ 23 + (j * 2 ^ 23 + n) % 2 ^ 23 = n by omega]
  · rw [if_neg (by omega), show (j * 2 ^ 23 + n) / 2 ^ 23 - 1 = j + 1 by omega, show 2 ^ 23 + (j * 2 ^ 23 + n) % 2 ^ 23 = 2 ^ 23 by omega, htop,
      Nat.pow_succ]
    omega

/-- Past the top of a binade the codes lie further apart. -/
theorem le_mag32_succ_top (j : Nat) : (2 ^ 24 + 1) * 2 ^ j ≤ Spec.mag32 (j * 2 ^ 23 + 2 ^ 24 + 1) := by
  rw [show j * 2 ^ 23 + 2 ^ 24 + 1 = (j + 1) * 2 ^ 23 + (2 ^ 23 + 1) by omega, mag32_code (by omega) (by omega), Nat.pow_succ]
  omega

/-- Below the base of a binade the codes lie closer together. -/
theorem mag32_pred_base (j : Nat) : Spec.mag32 ((j + 1) * 2 ^ 23 + 2 ^ 23 - 1) < 2 ^ 23 * 2 ^ (j + 1) := by
  rw [show (j + 1) * 2 ^ 23 + 2 ^ 23 - 1 = j * 2 ^ 23 + (2 ^ 24 - 1) by omega, mag32_code (by omega) (by omega), Nat.pow_succ]
  have := Nat.two_pow_pos j
  omega

/-- A code next to `X` on one scale is next to it on a scale that agrees at the code, and about it wherever that matters. -/
theorem nearest_transfer {rm : Rm} {neg : Bool} {mag mag' : Nat → Nat} {X n z : Nat} (h : Spec.Nearest rm neg mag' X n) (par : z % 2 = n % 2)
    (here : mag z = mag' n) (above : mag (z + 1) = mag' (n + 1) ∨ (n % 2 = 0 ∧ mag' (n + 1) ≤ mag (z + 1)))
    (below : z = 0 ∨ (n ≠ 0 ∧ mag (z - 1) = mag' (n - 1)) ∨ (n % 2 = 0 ∧ mag (z - 1) < mag z ∧ mag z ≤ X)) : Spec.Nearest rm neg mag X z := by
  unfold Spec.Nearest at h ⊢
  split at h
  · rw [if_pos ‹_›]
    omega
  · rw [if_neg ‹_›]
    split at h
    · rw [if_pos ‹_›]
      omega
    · rw [if_neg ‹_›]
      omega

section
variable {X j q : Nat} (hq : 0 < q) (lo : j = 0 ∨ 2 ^ 23 * (2 ^ j * q) ≤ X) (hi : X < 2 ^ 24 * (2 ^ j * q))
include hq lo hi

/-- A quotient of 24 bits rounds to 24 bits or to the base of the next binade. -/
theorem roundQuot_bounds (rm : Rm) (neg : Bool) : (j = 0 ∨ 2 ^ 23 ≤ roundQuot rm neg X (2 ^ j * q)) ∧ roundQuot rm neg X (2 ^ j * q) ≤ 2 ^ 24 := by
  have hU : 0 < 2 ^ j * q := Nat.mul_pos (Nat.two_pow_pos j) hq
  have hn : j = 0 ∨ 2 ^ 23 ≤ X / (2 ^ j * q) := lo.imp_right (Nat.le_div_iff_mul_le hU).mpr
  have hn' : X / (2 ^ j * q) < 2 ^ 24 := (Nat.div_lt_iff_lt_mul hU).mpr hi
  have hor := roundQuot_eq_or rm neg X (2 ^ j * q)
  omega

/-- The code of the rounded quotient is exact just where the quotient is. -/
theorem mag32_roundQuot_eq_iff (rm : Rm) (neg : Bool) :
    Spec.mag32 (j * 2 ^ 23 + roundQuot rm neg X (2 ^ j * q)) * q = X ↔ X % (2 ^ j * q) = 0 := by
  obtain ⟨hn, hn'⟩ := roundQuot_bounds hq lo hi rm neg
  rw [mag32_code hn hn', Nat.mul_assoc, roundQuot_mul_eq_iff rm neg (Nat.mul_pos (Nat.two_pow_pos j) hq)]

/-- The code of a quotient of `2^j · q` rounded once is next to `X` among the magnitudes of FP32 codes. -/
theorem nearest_mag32 (rm : Rm) (neg : Bool) :
    Spec.Nearest rm neg (fun c => Spec.mag32 c * q) X (j * 2 ^ 23 + roundQuot rm neg X (2 ^ j * q)) := by
  have near := nearest_roundQuot rm neg (X := X) (Nat.mul_pos (Nat.two_pow_pos j) hq)
  obtain ⟨hn, hn'⟩ := roundQuot_bounds hq lo hi rm neg
  generalize roundQuot rm neg X (2 ^ j * q) = n at near hn hn' ⊢
  have here : Spec.mag32 (j * 2 ^ 23 + n) * q = n * (2 ^ j * q) := by rw [mag32_code hn hn', Nat.mul_assoc]
  refine nearest_transfer near (by omega) here ?_ ?_
  · by_cases htop : n = 2 ^ 24
    · have hle := Nat.mul_le_mul_right q (le_mag32_succ_top j)
      rw [Nat.mul_assoc, ← htop] at hle
      exact .inr ⟨by omega, hle⟩
    · exact .inl (by rw [Nat.add_assoc, mag32_code (by omega) (by omega), Nat.mul_assoc])
  · by_cases hbase : j = 0 ∨ n ≠ 2 ^ 23
    · rcases Nat.eq_zero_or_pos n with h0 | h0
      · exact .inl (by omega)
      · exact .inr (.inl ⟨by omega, by rw [Nat.add_sub_assoc h0, mag32_code (by omega) (by omega), Nat.mul_assoc]⟩)
    · obtain ⟨i, rfl⟩ := Nat.exists_eq_succ_of_ne_zero (fun h => hbase (.inl h) : j ≠ 0)
      obtain rfl : n = 2 ^ 23 := by omega
      refine .inr (.inr ⟨by omega, ?_, by rw [here]; exact lo.resolve_left (Nat.succ_ne_zero i)⟩)
      rw [here, ← Nat.mul_assoc]
      exact Nat.mul_lt_mul_of_pos_right (mag32_pred_base i) hq
end

/-! ## finish for FP32 (R17) -/

/-- Exponent of the unit of a value's significand of 24 bits, with no least exponent. -/
def XReal.unit (x : XReal) : Int := x.e + x.m.log2 - 23

/-- The value rounded to 24 bits with no least exponent stays below 2^−126. -/
def XReal.tiny (x : XReal) (rm : Rm) : Bool := decide (x.unit < -149) && !((roundAt x x.unit rm).1 == 2 ^ 24 && x.unit == -150)

/-- A choice by equivalent conditions, branch by branch. -/
theorem ite_eq_of_iff {α : Type} {P Q : Prop} [Decidable P] [Decidable Q] {a b c d : α} (h : P ↔ Q) (ha : a = c) (hb : b = d) :
    (if P then a else b) = if Q then c else d := ite_congr (propext h) (fun _ => ha) fun _ => hb

/-- `finish` with the limits of FP32 written out. -/
theorem finish_fp32 (env : FEnv) (x : XReal) :
    finish .fp32 env x =
      let s := if x.neg then 2 ^ 31 else 0
      let pos := max x.unit (-149)
      let n := (roundAt x pos env.rm).1
      if 104 < x.unit ∨ (x.unit = 104 ∧ 0xFFFFFF < (roundAt x x.unit env.rm).1) then
        (s + if env.sat || Spec.downward env.rm x.neg then 0x7F7FFFFF else 0x7F800000, 0x0A)
      else if 0 < n ∧ n < 2 ^ 23 ∧ env.fz then (s, 0x06)
      else (s + ((pos + 149).toNat * 2 ^ 23 + n), if (roundAt x pos env.rm).2 then (if x.tiny env.rm then 0x06 else 0x02) else 0) := by
  have hunit : x.e + x.m.log2 - (((24 : Nat) : Int) - 1) = x.unit := rfl
  have hpos : (if x.unit < -126 - (((24 : Nat) : Int) - 1) then -126 - (((24 : Nat) : Int) - 1) else x.unit) = max x.unit (-149) := by
    split <;> omega
  have htiny : (decide (x.unit + ((24 : Nat) : Int) - 1 < -126) &&
      !((roundAt x x.unit env.rm).1 == 2 ^ 24 && x.unit + ((24 : Nat) : Int) == -126)) = x.tiny env.rm := by
    have hlt : decide (x.unit + ((24 : Nat) : Int) - 1 < -126) = decide (x.unit < -149) := decide_eq_decide.mpr (by omega)
    have heq : (x.unit + ((24 : Nat) : Int) == -126) = (x.unit == -150) := by
      rw [Bool.eq_iff_iff, beq_iff_eq, beq_iff_eq]
      omega
    rw [hlt, heq, XReal.tiny]
  have hcode : (max x.unit (-149) - -126 + (((24 : Nat) : Int) - 1)).toNat = (max x.unit (-149) + 149).toNat := by omega
  simp only [finish, FFmt.prec, FFmt.emin, FFmt.maxPos, FFmt.maxSig, FFmt.infBits, signBits, FFmt.width, maxBits, hunit, hpos, htiny, hcode]
  generalize roundAt x (max x.unit (-149)) env.rm = r
  refine ite_eq_of_iff Iff.rfl (Prod.ext ?_ rfl) (ite_eq_of_iff ?_ rfl (Prod.ext (Nat.add_assoc _ _ _) ?_))
  · have hdown : (env.sat || env.rm == .rtz || env.rm == .rup && x.neg || env.rm == .rdn && !x.neg) = (env.sat || Spec.downward env.rm x.neg) := by
      rw [Spec.downward, Bool.or_assoc, Bool.or_assoc, Bool.or_assoc]
    rw [hdown]
    cases env.sat || Spec.downward env.rm x.neg <;> rfl
  · rw [Bool.and_eq_true, Bool.and_eq_true, bne_iff_ne, decide_eq_true_iff, and_assoc, Nat.pos_iff_ne_zero]
  · cases r.2 <;> cases x.tiny env.rm <;> rfl

/-- A value ±p/q that `finish` may be given: not zero, and with more bits than FP32 keeps where it is sticky. -/
structure XReal.Rational (x : XReal) (p q : Nat) : Prop where
  den_pos : 0 < q
  ne_zero : x.m ≠ 0
  denotes : x.Denotes p q
  bits : x.sticky = true → 2 ^ 24 ≤ x.m

section
variable {x : XReal} {p q : Nat}

/-- Rounding at a unit not below the significand's own rounds the quotient of the naturals. -/
theorem XReal.Rational.roundAt_eq (h : x.Rational p q) {c d : Nat} (hpos : x.unit ≤ (d : Int) - c) (rm : Rm) :
    roundAt x (d - c) rm = (roundQuot rm x.neg (p * 2 ^ c) (2 ^ d * q), p * 2 ^ c % (2 ^ d * q) != 0) := by
  refine Machine.roundAt_eq h.den_pos h.denotes (fun hs => ?_) rm
  have := (Nat.le_log2 h.ne_zero).mpr (h.bits hs)
  unfold XReal.unit at hpos
  omega

/-- Every exponent is a difference of naturals of which the second is as large as asked. -/
theorem exists_exponent (e : Int) (c : Nat) : ∃ i t : Nat, e = (i : Int) - ((c + t : Nat) : Int) :=
  ⟨(e + c).toNat, (-(e + c)).toNat, by omega⟩

/-- In units no coarser than its own a value keeps at least 24 bits. -/
theorem XReal.Rational.lo (h : x.Rational p q) {c d : Nat} (hpos : (d : Int) - c ≤ x.unit) : 2 ^ 23 * (2 ^ d * q) ≤ p * 2 ^ c := by
  obtain ⟨i, t, he⟩ := exists_exponent x.e c
  obtain ⟨lo, -, -⟩ := h.denotes i (c + t) he
  unfold XReal.unit at hpos
  refine Nat.le_of_mul_le_mul_right ?_ (Nat.two_pow_pos t)
  calc 2 ^ 23 * (2 ^ d * q) * 2 ^ t = 2 ^ (23 + d + t) * q := by rw [Nat.pow_add, Nat.pow_add]; ac_rfl
    _ ≤ 2 ^ (x.m.log2 + i) * q := Nat.mul_le_mul_right q (Nat.pow_le_pow_right (by decide) (by omega))
    _ = 2 ^ x.m.log2 * q * 2 ^ i := by rw [Nat.pow_add]; ac_rfl
    _ ≤ x.m * q * 2 ^ i := Nat.mul_le_mul_right _ (Nat.mul_le_mul_right q (Nat.log2_self_le h.ne_zero))
    _ ≤ p * 2 ^ (c + t) := lo
    _ = p * 2 ^ c * 2 ^ t := by rw [Nat.pow_add, Nat.mul_assoc]

/-- In units no finer than its own a value keeps at most 24 bits. -/
theorem XReal.Rational.hi (h : x.Rational p q) {c d : Nat} (hpos : x.unit ≤ (d : Int) - c) : p * 2 ^ c < 2 ^ 24 * (2 ^ d * q) := by
  obtain ⟨i, t, he⟩ := exists_exponent x.e c
  obtain ⟨-, hi, -⟩ := h.denotes i (c + t) he
  unfold XReal.unit at hpos
  refine Nat.lt_of_mul_lt_mul_right (a := 2 ^ t) ?_
  calc p * 2 ^ c * 2 ^ t = p * 2 ^ (c + t) := by rw [Nat.pow_add, Nat.mul_assoc]
    _ < (x.m + 1) * q * 2 ^ i := hi
    _ ≤ 2 ^ (x.m.log2 + 1) * q * 2 ^ i := Nat.mul_le_mul_right _ (Nat.mul_le_mul_right q Nat.lt_log2_self)
    _ = 2 ^ (x.m.log2 + 1 + i) * q := by rw [Nat.pow_add 2 (x.m.log2 + 1)]; ac_rfl
    _ ≤ 2 ^ (24 + d + t) * q := Nat.mul_le_mul_right q (Nat.pow_le_pow_right (by decide) (by omega))
    _ = 2 ^ 24 * (2 ^ d * q) * 2 ^ t := by rw [Nat.pow_add, Nat.pow_add]; ac_rfl

/-- The scales at which tininess is decided, as multiples of the least normal's. -/
theorem scales_of_minNormal (p : Nat) : ∃ P, p * 2 ^ 126 = P ∧ p * 2 ^ 149 = P * 2 ^ 23 ∧ p * 2 ^ 150 = P * 2 ^ 24 ∧ p * 2 ^ 151 = P * 2 ^ 25 :=
  ⟨_, rfl, by rw [Nat.mul_assoc, ← Nat.pow_add], by rw [Nat.mul_assoc, ← Nat.pow_add], by rw [Nat.mul_assoc, ← Nat.pow_add]⟩

theorem tiny32_of_lt (rm : Rm) (neg : Bool) (h : p * 2 ^ 151 < 2 ^ 24 * q) : Spec.tiny32 rm neg p q = true := by
  obtain ⟨P, h126, -, h150, h151⟩ := scales_of_minNormal p
  unfold Spec.tiny32
  rw [h151] at h
  rw [h126, h150, h151]
  split
  · exact decide_eq_true (by omega)
  · split
    · exact decide_eq_true (by omega)
    · exact decide_eq_true (by omega)

theorem not_tiny32_of_le (rm : Rm) (neg : Bool) (hq : 0 < q) (h : 2 ^ 23 * q ≤ p * 2 ^ 149) : Spec.tiny32 rm neg p q = false := by
  obtain ⟨P, h126, h149, h150, h151⟩ := scales_of_minNormal p
  unfold Spec.tiny32
  rw [h149] at h
  rw [h126, h150, h151]
  split
  · exact decide_eq_false (by omega)
  · split
    · exact decide_eq_false (by omega)
    · exact decide_eq_false (by omega)

/-- A magnitude below 2^−126 is tiny unless its 24 bits round up to 2^−126. -/
theorem tiny32_iff_of_nearest {rm : Rm} {neg : Bool} {n : Nat} (near : Spec.Nearest rm neg (· * q) (p * 2 ^ 150) n) (hn : n ≤ 2 ^ 24)
    (hi : p * 2 ^ 150 < 2 ^ 24 * q) : Spec.tiny32 rm neg p q = true ↔ n ≠ 2 ^ 24 := by
  obtain ⟨P, h126, -, h150, h151⟩ := scales_of_minNormal p
  unfold Spec.Nearest at near
  unfold Spec.tiny32
  rw [h150] at near hi
  rw [h126, h150, h151]
  clear h126 h150 h151
  rcases Nat.lt_or_eq_of_le hn with hlt | htop
  · have below : n + 1 = 2 ^ 24 ∧ n * q + q = 2 ^ 24 * q ∨ n * q + q ≤ (2 ^ 24 - 1) * q := by
      rw [← Nat.add_one_mul]
      rcases Nat.lt_or_ge (n + 1) (2 ^ 24) with h | h
      · exact .inr (Nat.mul_le_mul_right q (Nat.le_sub_one_of_lt h))
      · have h1 : n + 1 = 2 ^ 24 := by omega
        exact .inl ⟨h1, by rw [h1]⟩
    refine iff_of_true ?_ (Nat.ne_of_lt hlt)
    simp only [Nat.add_one_mul] at near
    split at near
    · rw [if_pos ‹_›]
      obtain ⟨hup, -, hodd⟩ := near
      refine decide_eq_true ?_
      have hq : 0 < q := by omega
      rcases below with ⟨h1, hb⟩ | hb
      · have htie := (hodd (by omega)).1
        clear hodd hi
        omega
      · clear hodd hi
        omega
    · rw [if_neg ‹_›]
      split at near
      · rw [if_pos ‹_›]
        exact decide_eq_true (by omega)
      · rw [if_neg ‹_›]
        exact decide_eq_true (by omega)
  · have hk := pred_mul_add (n := n) (U := q) (by omega)
    have hn : n * q = 2 ^ 24 * q := by rw [htop]
    refine iff_of_false ?_ (not_not_intro htop)
    simp only [Nat.add_one_mul] at near
    split at near
    · rw [if_pos ‹_›]
      exact ne_true_of_eq_false (decide_eq_false (by omega))
    · rw [if_neg ‹_›]
      split at near
      · rw [if_pos ‹_›]
        exact ne_true_of_eq_false (decide_eq_false (by omega))
      · rw [if_neg ‹_›]
        exact ne_true_of_eq_false (decide_eq_false (by omega))

/-- The tininess that `finish` decides is the spec's: after rounding to 24 bits. -/
theorem XReal.Rational.tiny_eq (h : x.Rational p q) (rm : Rm) : x.tiny rm = Spec.tiny32 rm x.neg p q := by
  have hq := h.den_pos
  rcases Int.lt_trichotomy x.unit (-150) with hlt | heq | hgt
  · have hi := h.hi (c := 151) (d := 0) (by omega)
    rw [Nat.pow_zero, Nat.one_mul] at hi
    rw [tiny32_of_lt rm x.neg hi, XReal.tiny, decide_eq_true (by omega), beq_false_of_ne (Int.ne_of_lt hlt), Bool.and_false]
    rfl
  · have hpos : x.unit = ((0 : Nat) : Int) - (150 : Nat) := heq
    have hi := h.hi (Int.le_of_eq hpos)
    have hat := h.roundAt_eq (Int.le_of_eq hpos) rm
    have near := nearest_roundQuot rm x.neg (X := p * 2 ^ 150) hq
    have hn := (roundQuot_bounds hq (.inl rfl) hi rm x.neg).2
    rw [← hpos] at hat
    rw [Nat.pow_zero, Nat.one_mul] at hi hat hn
    have hb : (x.unit == -150) = true := beq_iff_eq.mpr heq
    rw [Bool.eq_iff_iff, tiny32_iff_of_nearest near hn hi, XReal.tiny, hat, decide_eq_true (by omega), hb, Bool.true_and, Bool.and_true,
      Bool.not_eq_true', beq_eq_false_iff_ne]
  · have lo := h.lo (c := 149) (d := 0) (by omega)
    rw [Nat.pow_zero, Nat.one_mul] at lo
    rw [not_tiny32_of_le rm x.neg hq lo, XReal.tiny, decide_eq_false (by omega), Bool.false_and]

/-- `finish` gives the FP32 word and the flags of the exact value rounded once. -/
theorem XReal.Rational.finish_rounds (h : x.Rational p q) (env : FEnv) : Spec.Rounds32 env x.neg p q (wordOf (finish .fp32 env x)) := by
  obtain ⟨j, hj⟩ : ∃ j : Nat, max x.unit (-149) = j - (149 : Nat) := ⟨(max x.unit (-149) + 149).toNat, by omega⟩
  have lo : j = 0 ∨ 2 ^ 23 * (2 ^ j * q) ≤ p * 2 ^ 149 := by
    rcases Nat.eq_zero_or_pos j with h0 | h0
    · exact .inl h0
    · exact .inr (h.lo (by omega))
  have hi : p * 2 ^ 149 < 2 ^ 24 * (2 ^ j * q) := h.hi (by omega)
  have near := nearest_mag32 h.den_pos lo hi env.rm x.neg
  have exact := mag32_roundQuot_eq_iff h.den_pos lo hi env.rm x.neg
  obtain ⟨hn, hn'⟩ := roundQuot_bounds h.den_pos lo hi env.rm x.neg
  have hat := h.roundAt_eq (c := 149) (d := j) (by omega) env.rm
  clear lo hi
  generalize roundQuot env.rm x.neg (p * 2 ^ 149) (2 ^ j * q) = n at near exact hn hn' hat
  have hover : (104 < x.unit ∨ (x.unit = 104 ∧ 0xFFFFFF < (roundAt x x.unit env.rm).1)) ↔ 0x7F800000 ≤ j * 2 ^ 23 + n := by
    rcases Int.lt_trichotomy x.unit 104 with hlt | heq | hgt
    · omega
    · rw [show x.unit = (j : Int) - (149 : Nat) by omega, hat]
      simp only
      omega
    · omega
  refine ⟨j * 2 ^ 23 + n, near, ?_⟩
  have hflush : (0 < n ∧ n < 2 ^ 23 ∧ env.fz = true) ↔ (0 < j * 2 ^ 23 + n ∧ j * 2 ^ 23 + n < 2 ^ 23 ∧ env.fz = true) :=
    and_congr (by omega) (and_congr_left fun _ => by omega)
  have hcode : ((j : Int) - (149 : Nat) + 149).toNat = j := by omega
  simp only [finish_fp32, hj, hat, hover, hflush, hcode, h.tiny_eq, bne_iff_ne, ne_eq, ite_not, exact, apply_ite wordOf]
  rfl
end

/-! ## FP32 words as values (R8, R9) -/

/-- `unpackF` with the layout of FP32 written out. -/
theorem fp32_eq (a : Word) : fp32 a =
    let mag := a.toNat % 2 ^ 31
    if 0x7F800000 < mag then .nan (mag % 2 ^ 23 / 2 ^ 22 == 0)
    else if mag = 0x7F800000 then .inf a.msb
    else if mag / 2 ^ 23 = 0 then .fin a.msb (mag % 2 ^ 23) (-149)
    else .fin a.msb (2 ^ 23 + mag % 2 ^ 23) (-149 + ((mag / 2 ^ 23 : Nat) - 1)) := by
  have hmsb : (a.toNat / 2 ^ 31 % 2 == 1) = a.msb := by
    have := a.isLt
    rw [BitVec.msb_eq_decide, Bool.eq_iff_iff, beq_iff_eq, decide_eq_true_iff]
    omega
  unfold fp32 unpackF
  simp only [FFmt.prec, FFmt.width, FFmt.emin, FFmt.infBits, Nat.add_one_sub_one, hmsb,
    show (FFmt.fp32 == FFmt.e4m3) = false from rfl, show (FFmt.fp32 != FFmt.e4m3) = true from rfl, show (FFmt.fp32 != FFmt.e5m2) = true from rfl,
    Bool.false_and, Bool.true_and, beq_iff_eq, Bool.false_eq_true, if_false]
  exact ite_eq_of_iff decide_eq_true_iff rfl rfl

theorem val32_eq (a : Word) :
    Spec.val32 a = if a.msb then -(Spec.mag32 (a.toNat % 2 ^ 31) : Int) else (Spec.mag32 (a.toNat % 2 ^ 31) : Int) := by
  have := a.isLt
  unfold Spec.val32
  rw [BitVec.msb_eq_decide]
  rcases Nat.lt_or_ge a.toNat (2 ^ 31) with h | h
  · rw [if_pos h, decide_eq_false (Nat.not_le.mpr h), Nat.mod_eq_of_lt h, if_neg Bool.false_ne_true]
  · rw [if_neg (Nat.not_lt.mpr h), decide_eq_true (show 2 ^ (32 - 1) ≤ a.toNat from h), show a.toNat % 2 ^ 31 = a.toNat - 2 ^ 31 by omega, if_pos rfl]

theorem mag32_eq_zero_iff (z : Nat) : Spec.mag32 z = 0 ↔ z = 0 := by
  unfold Spec.mag32
  split
  · exact Iff.rfl
  · exact iff_of_false (Nat.ne_of_gt (Nat.mul_pos (by omega) (Nat.two_pow_pos _))) (by omega)

theorem natAbs_signed (neg : Bool) (n : Nat) : (if neg then -(n : Int) else (n : Int)).natAbs = n := by
  cases neg
  · exact Int.natAbs_natCast n
  · exact (Int.natAbs_neg _).trans (Int.natAbs_natCast n)

/-- `fp32 a` is the finite value `±m · 2^(k − 149)`, which is the spec's. -/
structure Unpacks (a : Word) (m k : Nat) : Prop where
  value : fp32 a = .fin a.msb m ((k : Int) - 149)
  val32 : Spec.val32 a = if a.msb then -((m * 2 ^ k : Nat) : Int) else ((m * 2 ^ k : Nat) : Int)
  bits : m < 2 ^ 24

theorem exists_unpacks {a : Word} (h : Spec.Finite32 a) : ∃ m k, Unpacks a m k := by
  unfold Spec.Finite32 at h
  have hv := fp32_eq a
  have hval := val32_eq a
  simp only [Nat.not_lt.mpr (Nat.le_of_lt h), if_false, Nat.ne_of_lt h] at hv
  generalize a.toNat % 2 ^ 31 = mag at h hv hval
  by_cases hx : mag / 2 ^ 23 = 0
  · rw [if_pos hx] at hv
    have hmag : Spec.mag32 mag = mag % 2 ^ 23 * 2 ^ 0 := by
      rw [Spec.mag32, if_pos (by omega), Nat.mod_eq_of_lt (by omega), Nat.pow_zero, Nat.mul_one]
    exact ⟨mag % 2 ^ 23, 0, hv, hmag ▸ hval, by omega⟩
  · rw [if_neg hx] at hv
    have hmag : Spec.mag32 mag = (2 ^ 23 + mag % 2 ^ 23) * 2 ^ (mag / 2 ^ 23 - 1) := by rw [Spec.mag32, if_neg (by omega)]
    have hexp : (-149 : Int) + ((mag / 2 ^ 23 : Nat) - 1) = ((mag / 2 ^ 23 - 1 : Nat) : Int) - 149 := by omega
    exact ⟨2 ^ 23 + mag % 2 ^ 23, mag / 2 ^ 23 - 1, hexp ▸ hv, hmag ▸ hval, by omega⟩

section
variable {a : Word} {m k : Nat}

theorem Unpacks.natAbs (h : Unpacks a m k) : (Spec.val32 a).natAbs = m * 2 ^ k := by
  rw [h.val32, natAbs_signed]

theorem Unpacks.eq_zero_iff (h : Unpacks a m k) : m = 0 ↔ Spec.val32 a = 0 := by
  rw [← Int.natAbs_eq_zero, h.natAbs, Nat.mul_eq_zero, or_iff_left (Nat.ne_of_gt (Nat.two_pow_pos k))]

theorem Unpacks.mod_eq_zero_iff (h : Unpacks a m k) : m = 0 ↔ a.toNat % 2 ^ 31 = 0 := by
  rw [h.eq_zero_iff, val32_eq, ← Int.natAbs_eq_zero, natAbs_signed, mag32_eq_zero_iff]

theorem Unpacks.beq_negZero (h : Unpacks a m k) : (a == 0x80000000) = (a.msb && m == 0) := by
  rw [Bool.eq_iff_iff, Bool.and_eq_true, beq_iff_eq, beq_iff_eq, h.mod_eq_zero_iff, BitVec.msb_eq_decide, decide_eq_true_iff, ← BitVec.toNat_inj]
  have := a.isLt
  change a.toNat = 2 ^ 31 ↔ _
  omega

theorem Unpacks.beq_posZero (h : Unpacks a m k) : (a == 0) = (!a.msb && m == 0) := by
  rw [Bool.eq_iff_iff, Bool.and_eq_true, beq_iff_eq, beq_iff_eq, h.mod_eq_zero_iff, BitVec.msb_eq_decide, Bool.not_eq_true', decide_eq_false_iff_not,
    ← BitVec.toNat_inj]
  have := a.isLt
  change a.toNat = 0 ↔ _
  omega

/-- A finite word as an addend, in units of 2^−149. -/
theorem Unpacks.termAt_eq (h : Unpacks a m k) : termAt (-149) ⟨a.msb, m, (k : Int) - 149⟩ = Spec.val32 a := by
  rw [h.val32, termAt, show ((k : Int) - 149 - -149).toNat = k by omega]
end

/-! ## NaN operands (R12) -/

theorem fp32_of_nan {a : Word} (h : Spec.Nan32 a) : fp32 a = .nan (Spec.snan32 a) := by
  unfold Spec.Nan32 at h
  have hs : (a.toNat % 2 ^ 31 % 2 ^ 23 / 2 ^ 22 == 0) = (a.toNat / 2 ^ 22 % 2 == 0) := by
    rw [Bool.eq_iff_iff, beq_iff_eq, beq_iff_eq]
    omega
  rw [fp32_eq, Spec.snan32, decide_eq_true h, Bool.true_and, ← hs]
  exact if_pos h

theorem isSnan_fp32 (a : Word) : (fp32 a).isSnan = Spec.snan32 a := by
  by_cases h : 0x7F800000 < a.toNat % 2 ^ 31
  · rw [fp32_of_nan h, FVal.isSnan]
  · rw [Spec.snan32, decide_eq_false h, Bool.false_and, fp32_eq]
    simp only [if_neg h]
    split
    · rfl
    · split
      · rfl
      · rfl

theorem isSnan_negate (x : FVal) : x.negate.isSnan = x.isSnan := by cases x <;> rfl

/-- The canonical NaN, with NV when an operand is signalling. -/
theorem wordOf_nanResult (x y : FVal) : wordOf (nanResult .fp32 [x, y]) = (0x7FC00000, if x.isSnan || y.isSnan then 0x20 else 0) := by
  rw [nanResult, List.any_cons, List.any_cons, List.any_nil, Bool.or_false]
  cases x.isSnan || y.isSnan <;> rfl

section
variable {x y : FVal} (h : (∃ s, x = .nan s) ∨ ∃ s, y = .nan s) (f : FFmt) (env : FEnv)
include h

theorem addVal_of_nan : addVal f env x y = nanResult f [x, y] := by
  rcases h with ⟨s, rfl⟩ | ⟨s, rfl⟩
  · rfl
  · cases x <;> rfl

theorem mulVal_of_nan : mulVal f env x y = nanResult f [x, y] := by
  rcases h with ⟨s, rfl⟩ | ⟨s, rfl⟩
  · rfl
  · cases x <;> rfl

theorem divVal_of_nan : divVal f env x y = nanResult f [x, y] := by
  rcases h with ⟨s, rfl⟩ | ⟨s, rfl⟩
  · rfl
  · cases x <;> rfl
end

/-- FADD, FSUB, FMUL and FDIV of a NaN give the canonical NaN, with NV where one is signalling. -/
theorem arith_of_nan (env : FEnv) {a b : Word} (h : Spec.Nan32 a ∨ Spec.Nan32 b) {r : Word × Word}
    (hr : r = (0x7FC00000, if Spec.snan32 a || Spec.snan32 b then 0x20 else 0)) :
    fadd env a b = r ∧ fsub env a b = r ∧ fmul env a b = r ∧ fdiv env a b = r := by
  have hn : (∃ s, fp32 a = .nan s) ∨ ∃ s, fp32 b = .nan s := h.imp (fun h => ⟨_, fp32_of_nan h⟩) (fun h => ⟨_, fp32_of_nan h⟩)
  have hneg : (∃ s, fp32 a = .nan s) ∨ ∃ s, (fp32 b).negate = .nan s := hn.imp_right fun ⟨s, hb⟩ => ⟨s, by rw [hb, FVal.negate]⟩
  subst hr
  refine ⟨?_, ?_, ?_, ?_⟩
  · rw [fadd, addVal_of_nan hn, wordOf_nanResult, isSnan_fp32, isSnan_fp32]
  · rw [fsub, addVal_of_nan hneg, wordOf_nanResult, isSnan_negate, isSnan_fp32, isSnan_fp32]
  · rw [fmul, mulVal_of_nan hn, wordOf_nanResult, isSnan_fp32, isSnan_fp32]
  · rw [fdiv, divVal_of_nan hn, wordOf_nanResult, isSnan_fp32, isSnan_fp32]

/-! ## Exact sums (R17, R18) -/

theorem minExp_le (ts : List Term) : ∀ t ∈ ts, minExp ts ≤ t.e := by
  fun_induction minExp ts with
  | case1 => exact fun t ht => absurd ht List.not_mem_nil
  | case2 t => exact fun u hu => Int.le_of_eq (by rw [List.mem_singleton.mp hu])
  | case3 t ts hne ih =>
    rw [List.forall_mem_cons]
    exact ⟨Int.min_le_left _ _, fun u hu => Int.le_trans (Int.min_le_right _ _) (ih u hu)⟩

theorem le_minExp (ts : List Term) {s : Int} (hs : s ≤ 0) (h : ∀ t ∈ ts, s ≤ t.e) : s ≤ minExp ts := by
  fun_induction minExp ts with
  | case1 => exact hs
  | case2 t => exact h t (List.mem_singleton.mpr rfl)
  | case3 t ts hne ih =>
    rw [List.forall_mem_cons] at h
    exact Int.le_min.mpr ⟨h.1, ih h.2⟩

/-- An addend in finer units. -/
theorem termAt_scale {s e : Int} {n : Nat} {t : Term} (he : e = s + n) (h : e ≤ t.e) : termAt s t = termAt e t * (2 ^ n : Nat) := by
  have hexp : (t.e - s).toNat = (t.e - e).toNat + n := by omega
  simp only [termAt, hexp, Nat.pow_add, ← Nat.mul_assoc, Int.natCast_mul]
  split
  · rw [Int.neg_mul]
  · rfl

/-- A sum in finer units. -/
theorem sumAt_scale {s e : Int} {n : Nat} (he : e = s + n) (ts : List Term) (h : ∀ t ∈ ts, e ≤ t.e) : sumAt s ts = sumAt e ts * (2 ^ n : Nat) := by
  induction ts with
  | nil => rw [sumAt, sumAt, Int.zero_mul]
  | cons t ts ih =>
    rw [List.forall_mem_cons] at h
    rw [sumAt, sumAt, ih h.2, termAt_scale he h.1, Int.add_mul]

theorem wordOf_signBits (neg : Bool) : wordOf (signBits .fp32 neg, 0) = (if neg then 0x80000000 else 0, 0) := by cases neg <;> rfl

/-- A whole number of units that is the exact value of a quotient. -/
theorem XReal.rational_of_exact {neg : Bool} {m p q i j : Nat} {e : Int} (hq : 0 < q) (hm : m ≠ 0) (he : e = (i : Int) - j)
    (h : m * q * 2 ^ i = p * 2 ^ j) : XReal.Rational ⟨neg, m, e, false⟩ p q :=
  ⟨hq, hm, XReal.denotes_of_eq hq he h, fun hs => absurd hs Bool.false_ne_true⟩

/-- An exact sum of addends in units of 2^−s is rounded once, its zeros signed by R18. -/
theorem finishSum_fp32 (env : FEnv) {ts : List Term} {v : Int} {s : Nat} (hs : ∀ t ∈ ts, -(s : Int) ≤ t.e) (h : sumAt (-s) ts = v) :
    Spec.Sum32 env v s (ts.all fun t => t.neg && t.m == 0) (wordOf (finishSum .fp32 env ts)) := by
  have hle := le_minExp ts (by omega) hs
  obtain ⟨n, hn⟩ : ∃ n : Nat, minExp ts = -(s : Int) + n := ⟨(minExp ts + s).toNat, by omega⟩
  rw [sumAt_scale hn ts (minExp_le ts)] at h
  have hp : (0 : Int) < (2 ^ n : Nat) := Int.natCast_pos.mpr (Nat.two_pow_pos n)
  have hzero : sumAt (minExp ts) ts = 0 ↔ v = 0 := by rw [← h, Int.mul_eq_zero, or_iff_left (Int.ne_of_gt hp)]
  have hneg : sumAt (minExp ts) ts < 0 ↔ v < 0 := by rw [← h, ← Int.zero_mul (2 ^ n : Nat), Int.mul_lt_mul_right hp, Int.zero_mul]
  have habs : v.natAbs = (sumAt (minExp ts) ts).natAbs * 2 ^ n := by rw [← h, Int.natAbs_mul, Int.natAbs_natCast]
  unfold Spec.Sum32
  simp only [finishSum, hzero, hneg]
  by_cases hv : v = 0
  · rw [if_pos hv, if_pos hv, wordOf_signBits]
    rfl
  · rw [if_neg hv, if_neg hv]
    have hne : (sumAt (minExp ts) ts).natAbs ≠ 0 := mt (fun h => hzero.mp (Int.natAbs_eq_zero.mp h)) hv
    refine (XReal.rational_of_exact (i := n) (j := s) (Nat.two_pow_pos s) hne (by omega) ?_).finish_rounds env
    rw [habs]
    exact Nat.mul_right_comm _ _ _

/-- The exact sum of two addends. -/
theorem finishSum_pair (env : FEnv) {t u : Term} {v : Int} {s : Nat} (ht : -(s : Int) ≤ t.e) (hu : -(s : Int) ≤ u.e)
    (h : termAt (-s) t + termAt (-s) u = v) :
    Spec.Sum32 env v s ((t.neg && t.m == 0) && (u.neg && u.m == 0)) (wordOf (finishSum .fp32 env [t, u])) := by
  have hr := finishSum_fp32 env (ts := [t, u]) (v := v) (s := s)
    (List.forall_mem_cons.mpr ⟨ht, fun w hw => by rw [List.mem_singleton.mp hw]; exact hu⟩) (by rw [sumAt, sumAt, sumAt, Int.add_zero, h])
  rwa [List.all_cons, List.all_cons, List.all_nil, Bool.and_true] at hr

/-! ## Quotients -/

theorem XReal.denotes_div (neg : Bool) {N D p q i j : Nat} {e : Int} (hD : 0 < D) (he : e = (i : Int) - j) (h : N * q * 2 ^ i = p * 2 ^ j * D)
    (hq : 0 < q) : XReal.Denotes ⟨neg, N / D, e, N % D != 0⟩ p q := by
  have hN := Nat.div_add_mod' N D
  have hR := Nat.mod_lt N hD
  have hW : 0 < q * 2 ^ i := Nat.mul_pos hq (Nat.two_pow_pos i)
  have key (n : Nat) : n * q * 2 ^ i * D = n * D * (q * 2 ^ i) := by ac_rfl
  have hY : p * 2 ^ j * D = N * (q * 2 ^ i) := by rw [← h, Nat.mul_assoc]
  refine XReal.denotes_of he ?_ ?_ ?_
  · refine Nat.le_of_mul_le_mul_right ?_ hD
    rw [key, hY]
    exact Nat.mul_le_mul_right _ (Nat.div_mul_le_self N D)
  · refine Nat.lt_of_mul_lt_mul_right (a := D) ?_
    rw [key, hY]
    exact Nat.mul_lt_mul_of_pos_right ((Nat.div_lt_iff_lt_mul hD).mp (Nat.lt_add_one (N / D))) hW
  · rw [← Nat.mul_left_inj (Nat.ne_of_gt hD), key, hY, Nat.mul_left_inj (Nat.ne_of_gt hW), bne_eq_false_iff_eq]
    change N % D = 0 ↔ N / D * D = N
    omega

/-- The quotient that FDIV and FRCP round is the exact one, `p / q = m · 2^e / (m' · 2^e')`. -/
theorem divX_rational (neg : Bool) {m m' p q i j : Nat} {e e' : Int} (hq : 0 < q) (hm : m ≠ 0) (hm' : m' ≠ 0) (hb : m' < 2 ^ 24)
    (he : e - e' = (i : Int) - j) (h : m * q * 2 ^ i = p * 2 ^ j * m') : (divX neg m e m' e').Rational p q := by
  have hpos := Nat.pos_of_ne_zero hm'
  have hbits : 2 ^ 24 ≤ m * 2 ^ 64 / m' := by
    rw [Nat.le_div_iff_mul_le hpos]
    have := Nat.pos_of_ne_zero hm
    omega
  have hne : m * 2 ^ 64 / m' ≠ 0 := by omega
  refine ⟨hq, hne, XReal.denotes_div neg (i := i) (j := j + 64) hpos (by omega) ?_ hq, fun _ => hbits⟩
  rw [Nat.pow_add, show m * 2 ^ 64 * q * 2 ^ i = m * q * 2 ^ i * 2 ^ 64 by ac_rfl, h]
  ac_rfl

/-! ## The FP32 words on finite operands (R119, R125) -/

section
variable {a b d : Word} {m m' m'' k k' k'' : Nat} (env : FEnv)

theorem fadd_finite (ha : Unpacks a m k) (hb : Unpacks b m' k') :
    Spec.Sum32 env (Spec.val32 a + Spec.val32 b) 149 (a == 0x80000000 && b == 0x80000000) (fadd env a b) := by
  rw [fadd, ha.value, hb.value, ha.beq_negZero, hb.beq_negZero]
  exact finishSum_pair env (t := ⟨a.msb, m, k - 149⟩) (u := ⟨b.msb, m', k' - 149⟩) (s := 149) (by simp only; omega) (by simp only; omega)
    (congr (congrArg HAdd.hAdd ha.termAt_eq) hb.termAt_eq)

theorem termAt_neg (s : Int) (n : Bool) (m : Nat) (e : Int) : termAt s ⟨!n, m, e⟩ = -termAt s ⟨n, m, e⟩ := by
  cases n
  · rfl
  · exact (Int.neg_neg _).symm

theorem fsub_finite (ha : Unpacks a m k) (hb : Unpacks b m' k') :
    Spec.Sum32 env (Spec.val32 a - Spec.val32 b) 149 (a == 0x80000000 && b == 0) (fsub env a b) := by
  rw [fsub, ha.value, hb.value, ha.beq_negZero, hb.beq_posZero]
  exact finishSum_pair env (t := ⟨a.msb, m, k - 149⟩) (u := ⟨!b.msb, m', k' - 149⟩) (s := 149) (by simp only; omega) (by simp only; omega)
    ((congr (congrArg HAdd.hAdd ha.termAt_eq) ((termAt_neg _ _ _ _).trans (congrArg Neg.neg hb.termAt_eq))).trans Int.sub_eq_add_neg.symm)

/-- A product of two finite words as an addend, in units of 2^−298. -/
theorem Unpacks.termAt_mul (ha : Unpacks a m k) (hb : Unpacks b m' k') :
    termAt (-298) ⟨a.msb != b.msb, m * m', ((k : Int) - 149) + (k' - 149)⟩ = Spec.val32 a * Spec.val32 b := by
  have hexp : ((k : Int) - 149 + (k' - 149) - -298).toNat = k + k' := by omega
  have hmul : m * m' * 2 ^ (k + k') = m * 2 ^ k * (m' * 2 ^ k') := by rw [Nat.pow_add]; ac_rfl
  rw [termAt, hexp, hmul, ha.val32, hb.val32, Int.natCast_mul]
  cases a.msb <;> cases b.msb
  · rfl
  · exact (Int.mul_neg _ _).symm
  · exact (Int.neg_mul _ _).symm
  · exact (Int.neg_mul_neg _ _).symm

theorem fmaVal_finite (f : FFmt) (n n' n'' : Bool) (e e' e'' : Int) :
    fmaVal f env (.fin n m e) (.fin n' m' e') (.fin n'' m'' e'') = finishSum f env [⟨n != n', m * m', e + e'⟩, ⟨n'', m'', e''⟩] := by
  simp only [fmaVal, FVal.isSnan, FVal.isNan, isInfTimesZero, FVal.isInf, FVal.isZero, Bool.or_self, Bool.false_and, Bool.and_false,
    Bool.false_eq_true, if_false]

theorem mul_eq_zero_iff (ha : Unpacks a m k) (hb : Unpacks b m' k') : m * m' = 0 ↔ Spec.val32 a * Spec.val32 b = 0 := by
  rw [Nat.mul_eq_zero, Int.mul_eq_zero, ha.eq_zero_iff, hb.eq_zero_iff]

theorem ffma_finite (ha : Unpacks a m k) (hb : Unpacks b m' k') (hd : Unpacks d m'' k'') :
    Spec.Sum32 env (Spec.val32 a * Spec.val32 b + Spec.val32 d * 2 ^ 149) 298
      (d == 0x80000000 && Spec.val32 a * Spec.val32 b == 0 && (a.msb != b.msb)) (ffma env d a b) := by
  have hz : (Spec.val32 a * Spec.val32 b == 0) = (m * m' == 0) := by
    rw [Bool.eq_iff_iff, beq_iff_eq, beq_iff_eq, mul_eq_zero_iff ha hb]
  rw [ffma, ha.value, hb.value, hd.value, fmaVal_finite, hd.beq_negZero, hz]
  have hterm : termAt (-298) ⟨d.msb, m'', (k'' : Int) - 149⟩ = Spec.val32 d * 2 ^ 149 := by
    rw [termAt_scale (s := -298) (e := -149) (n := 149) (by decide) (by simp only; omega), hd.termAt_eq]
    rfl
  have hr := finishSum_pair env (t := ⟨a.msb != b.msb, m * m', ((k : Int) - 149) + (k' - 149)⟩) (u := ⟨d.msb, m'', (k'' : Int) - 149⟩) (s := 298)
    (by simp only; omega) (by simp only; omega) (congr (congrArg HAdd.hAdd (ha.termAt_mul hb)) hterm)
  rwa [Bool.and_comm, Bool.and_comm (_ != _), ← Bool.and_assoc] at hr

/-- The exact product of two finite words. -/
theorem Unpacks.rational_mul (ha : Unpacks a m k) (hb : Unpacks b m' k') {s : Nat} (hs : s = 298) {neg : Bool} (h0 : m * m' ≠ 0) :
    XReal.Rational ⟨neg, m * m', ((k : Int) - 149) + (k' - 149), false⟩ (Spec.val32 a * Spec.val32 b).natAbs (2 ^ s) := by
  refine XReal.rational_of_exact (i := k + k') (j := s) (Nat.two_pow_pos s) h0 (by omega) ?_
  have regroup (A B W : Nat) : m * m' * W * (A * B) = m * A * (m' * B) * W := by ac_rfl
  rw [Int.natAbs_mul, ha.natAbs, hb.natAbs, Nat.pow_add]
  exact regroup _ _ _

theorem fmul_finite (ha : Unpacks a m k) (hb : Unpacks b m' k') :
    if Spec.val32 a * Spec.val32 b = 0 then fmul env a b = (if a.msb != b.msb then 0x80000000 else 0, 0)
    else Spec.Rounds32 env (a.msb != b.msb) (Spec.val32 a * Spec.val32 b).natAbs (2 ^ 298) (fmul env a b) := by
  have hz := mul_eq_zero_iff ha hb
  rw [fmul, ha.value, hb.value, mulVal]
  by_cases h0 : Spec.val32 a * Spec.val32 b = 0
  · rw [if_pos h0, if_pos (hz.mpr h0), wordOf_signBits]
  · rw [if_neg h0, if_neg (mt hz.mp h0)]
    exact (ha.rational_mul hb (s := 298) rfl (mt hz.mp h0)).finish_rounds env

theorem fdiv_finite (ha : Unpacks a m k) (hb : Unpacks b m' k') (hb0 : Spec.val32 b ≠ 0) :
    if Spec.val32 a = 0 then fdiv env a b = (if a.msb != b.msb then 0x80000000 else 0, 0)
    else Spec.Rounds32 env (a.msb != b.msb) (Spec.val32 a).natAbs (Spec.val32 b).natAbs (fdiv env a b) := by
  have hm' : m' ≠ 0 := mt hb.eq_zero_iff.mp hb0
  rw [fdiv, ha.value, hb.value, divVal, if_neg hm']
  by_cases h0 : Spec.val32 a = 0
  · rw [if_pos h0, if_pos (ha.eq_zero_iff.mpr h0), wordOf_signBits]
  · rw [if_neg h0, if_neg (mt ha.eq_zero_iff.mp h0)]
    refine (divX_rational _ (i := k) (j := k') (Int.natAbs_pos.mpr hb0) (mt ha.eq_zero_iff.mp h0) hm' hb.bits (by omega) ?_).finish_rounds env
    rw [ha.natAbs, hb.natAbs]
    ac_rfl

theorem frcp_finite (ha : Unpacks a m k) (h0 : Spec.val32 a ≠ 0) :
    Spec.Rounds32 env a.msb (2 ^ 149) (Spec.val32 a).natAbs (frcp env a) := by
  have hm : m ≠ 0 := mt ha.eq_zero_iff.mp h0
  rw [frcp, ha.value]
  simp only [if_neg hm]
  refine (divX_rational _ (i := 149) (j := k) (Int.natAbs_pos.mpr h0) Nat.one_ne_zero hm ha.bits (by omega) ?_).finish_rounds env
  rw [ha.natAbs, Nat.one_mul]
  ac_rfl
end

/-! ## Compares (R122) -/

theorem boolWord_eq_truth {c : Bool} {P : Prop} [Decidable P] (h : c = true ↔ P) : boolWord c = Spec.truth P :=
  ite_eq_of_iff h rfl rfl

theorem compare_eq_compare {x y x' y' : Int} (hlt : x < y ↔ x' < y') (hgt : y < x ↔ y' < x') : compare x y = compare x' y' := by
  rcases Int.lt_trichotomy x' y' with h | h | h
  · rw [Int.compare_eq_lt.mpr h, Int.compare_eq_lt.mpr (hlt.mpr h)]
  · rw [Int.compare_eq_eq.mpr h, Int.compare_eq_eq.mpr (by omega)]
  · rw [Int.compare_eq_gt.mpr h, Int.compare_eq_gt.mpr (hgt.mpr h)]

section
variable {a b : Word} {m m' k k' : Nat}

/-- Finite words compare as their values. -/
theorem cmpVal_finite (ha : Unpacks a m k) (hb : Unpacks b m' k') : cmpVal (fp32 a) (fp32 b) = compare (Spec.val32 a) (Spec.val32 b) := by
  rw [ha.value, hb.value]
  have he : min ((k : Int) - 149) (k' - 149) = -149 + (min k k' : Nat) := by omega
  have hp : (0 : Int) < (2 ^ min k k' : Nat) := Int.natCast_pos.mpr (Nat.two_pow_pos _)
  have hx := ha.termAt_eq.symm.trans (termAt_scale he (Int.min_le_left _ _))
  have hy := hb.termAt_eq.symm.trans (termAt_scale he (Int.min_le_right _ _))
  rw [hx, hy]
  exact compare_eq_compare (Int.mul_lt_mul_right hp).symm (Int.mul_lt_mul_right hp).symm

theorem Unpacks.isNan (ha : Unpacks a m k) : (fp32 a).isNan = false := by rw [ha.value, FVal.isNan]
theorem Unpacks.isSnan (ha : Unpacks a m k) : (fp32 a).isSnan = false := by rw [ha.value, FVal.isSnan]

theorem compare_ne_gt {x y : Int} : compare x y ≠ .gt ↔ x ≤ y := by rw [ne_eq, Int.compare_eq_gt, Int.not_lt]
theorem compare_ne_lt {x y : Int} : compare x y ≠ .lt ↔ y ≤ x := by rw [ne_eq, Int.compare_eq_lt, Int.not_lt]

/-- FCMP of finite words answers by the values, with no flag. -/
theorem fcmp_finite (ha : Unpacks a m k) (hb : Unpacks b m' k') :
    fcmp .eq a b = (Spec.truth (Spec.val32 a = Spec.val32 b), 0) ∧ fcmp .ne a b = (Spec.truth (Spec.val32 a ≠ Spec.val32 b), 0) ∧
    fcmp .lt a b = (Spec.truth (Spec.val32 a < Spec.val32 b), 0) ∧ fcmp .le a b = (Spec.truth (Spec.val32 a ≤ Spec.val32 b), 0) ∧
    fcmp .gt a b = (Spec.truth (Spec.val32 b < Spec.val32 a), 0) ∧ fcmp .ge a b = (Spec.truth (Spec.val32 b ≤ Spec.val32 a), 0) := by
  simp only [fcmp, cmpVal_finite ha hb, ha.isNan, hb.isNan, ha.isSnan, hb.isSnan, Bool.or_self, Bool.not_false, Bool.true_and, Bool.false_or]
  exact ⟨Prod.ext (boolWord_eq_truth (beq_iff_eq.trans Int.compare_eq_eq)) rfl,
    Prod.ext (boolWord_eq_truth (bne_iff_ne.trans (not_congr Int.compare_eq_eq))) rfl,
    Prod.ext (boolWord_eq_truth (beq_iff_eq.trans Int.compare_eq_lt)) rfl, Prod.ext (boolWord_eq_truth (bne_iff_ne.trans compare_ne_gt)) rfl,
    Prod.ext (boolWord_eq_truth (beq_iff_eq.trans Int.compare_eq_gt)) rfl, Prod.ext (boolWord_eq_truth (bne_iff_ne.trans compare_ne_lt)) rfl⟩

/-! ## Conversions between FP32 and 32-bit integers (R20, R130) -/

/-- FP32 to a signed word: the integer next to the value, or the limit of its side with NV. -/
theorem cvt_fp32_s32_finite (env : FEnv) (ha : Unpacks a m k) :
    ∃ n, Spec.Nearest env.rm a.msb (fun c => c * 2 ^ 149) (Spec.val32 a).natAbs n ∧ let q : Int := if a.msb then -n else n
      cvt .fp32 .s32 env a = if q < -(2 ^ 31) then (0x80000000, 0x20) else if 2 ^ 31 ≤ q then (0x7FFFFFFF, 0x20)
        else (BitVec.ofInt 32 q, if n * 2 ^ 149 = (Spec.val32 a).natAbs then 0 else 0x02) := by
  have hU : 0 < 2 ^ 149 := Nat.two_pow_pos 149
  refine ⟨_, nearest_roundQuot env.rm a.msb hU, ?_⟩
  have hround := roundAt_zero (m := m) (p := (Spec.val32 a).natAbs) (i := k) (j := 149) (e := (k : Int) - 149) a.msb hU rfl
    (by rw [ha.natAbs]; ac_rfl) env.rm
  have hv : unpackF .fp32 (a.toNat % 2 ^ 32) = .fin a.msb m ((k : Int) - 149) := by rw [Nat.mod_eq_of_lt a.isLt]; exact ha.value
  have hexact := roundQuot_mul_eq_iff env.rm a.msb (X := (Spec.val32 a).natAbs) hU
  have hcvt : cvt .fp32 .s32 env a = cvtToInt .s32 env.rm (unpackF .fp32 (a.toNat % 2 ^ 32)) := rfl
  rw [hcvt, hv]
  simp only [cvtToInt, cvtIntRange, roundInt, hround, hexact]
  refine ite_eq_of_iff Iff.rfl rfl (ite_eq_of_iff Int.lt_iff_add_one_le rfl (Prod.ext rfl ?_))
  exact (ite_eq_of_iff bne_iff_ne rfl rfl).trans (ite_not _ _ _)
end

/-- A non-zero integer converts to FP32 by one rounding. -/
theorem cvtOfInt_fp32 (env : FEnv) {v : Int} (hv : v ≠ 0) : Spec.Rounds32 env (decide (v < 0)) v.natAbs 1 (wordOf (cvtOfInt .fp32 env v)) := by
  rw [cvtOfInt, if_neg hv]
  exact (XReal.rational_of_exact (i := 0) (j := 0) Nat.one_pos (Int.natAbs_ne_zero.mpr hv) rfl (by rw [Nat.mul_one])).finish_rounds env

theorem cvt_int_fp32 (env : FEnv) {a : Word} (ha : a ≠ 0) :
    Spec.Rounds32 env a.msb a.toInt.natAbs 1 (cvt .s32 .fp32 env a) ∧ Spec.Rounds32 env false a.toNat 1 (cvt .n32 .fp32 env a) := by
  have hs : a.toInt ≠ 0 := fun h => ha (BitVec.eq_of_toInt_eq (h.trans rfl))
  have hn : (a.toNat : Int) ≠ 0 := fun h => ha (BitVec.eq_of_toNat_eq (Int.ofNat_eq_zero.mp h))
  constructor
  · rw [BitVec.msb_eq_toInt]
    exact cvtOfInt_fp32 env hs
  · have h := cvtOfInt_fp32 env hn
    rwa [Int.natAbs_natCast, decide_eq_false (Int.not_lt.mpr (Int.natCast_nonneg _))] at h

/-! ## The obligation -/

/-- The quotient with any remainder counted as one, in one division. -/
theorem ceil_eq (X : Nat) {U : Nat} (hU : 0 < U) : (X / U + if X % U = 0 then 0 else 1) = (X + U - 1) / U := by
  have hX := Nat.div_add_mod' X U
  have hR := Nat.mod_lt X hU
  refine (Nat.div_eq_of_lt_le ?_ ?_).symm
  · split <;> simp only [Nat.add_zero, Nat.add_one_mul] <;> omega
  · split <;> simp only [Nat.add_zero, Nat.add_one_mul] <;> omega

/-- Rounding `m · 2^(−k)` to whole units, mode by mode. -/
theorem roundAt_by_mode (neg : Bool) (m k : Nat) :
    let x : XReal := ⟨neg, m, -(k : Int), false⟩
    (∀ rm, (roundAt x 0 rm).2 = decide (m % 2 ^ k ≠ 0)) ∧
    (roundAt x 0 .rtz).1 = m / 2 ^ k ∧
    (roundAt x 0 .rup).1 = (if neg then m / 2 ^ k else (m + 2 ^ k - 1) / 2 ^ k) ∧
    (roundAt x 0 .rdn).1 = (if neg then (m + 2 ^ k - 1) / 2 ^ k else m / 2 ^ k) ∧
    (2 * (m % 2 ^ k) < 2 ^ k → (roundAt x 0 .rne).1 = m / 2 ^ k) ∧
    (2 ^ k < 2 * (m % 2 ^ k) → (roundAt x 0 .rne).1 = m / 2 ^ k + 1) ∧
    (2 * (m % 2 ^ k) = 2 ^ k → (roundAt x 0 .rne).1 % 2 = 0) := by
  have hU : 0 < 2 ^ k := Nat.two_pow_pos k
  have hround := roundAt_zero (m := m) (p := m) (i := 0) (j := k) (e := -(k : Int)) neg hU (by omega) (by rw [Nat.pow_zero, Nat.mul_one])
  have hceil := ceil_eq m hU
  simp only [hround]
  refine ⟨fun rm => ?_, roundQuot_of_downward rfl m _, ?_, ?_, fun h => ?_, fun h => ?_, fun h => ?_⟩
  · rw [Bool.eq_iff_iff, bne_iff_ne, decide_eq_true_iff]
  · cases neg with
    | false => rw [roundQuot_of_upward (by decide) rfl, hceil, if_neg Bool.false_ne_true]
    | true => rw [roundQuot_of_downward rfl, if_pos rfl]
  · cases neg with
    | false => rw [roundQuot_of_downward rfl, if_neg Bool.false_ne_true]
    | true => rw [roundQuot_of_upward (by decide) rfl, hceil, if_pos rfl]
  · rw [roundQuot_rne, if_neg (by omega), Nat.add_zero]
  · rw [roundQuot_rne, if_pos (.inl h)]
  · rw [roundQuot_rne]
    split <;> omega

/-- Settles O14: finite operands unpack to their exact values, every word finishes one exact value, and `finish` forms the code of a quotient of naturals
rounded once, which is next to the value on the scale of FP32 magnitudes. -/
theorem roundingIsToTheNearestOrDirected : Obligations.RoundingIsToTheNearestOrDirected := by
  refine ⟨fun neg m k _ => roundAt_by_mode neg m k, fun env a b d ha hb hd => ?_, fun env a ha => cvt_int_fp32 env ha,
    fun env a b h r hr => arith_of_nan env h hr⟩
  obtain ⟨m, k, ha⟩ := exists_unpacks ha
  obtain ⟨m', k', hb⟩ := exists_unpacks hb
  obtain ⟨m'', k'', hd⟩ := exists_unpacks hd
  obtain ⟨heq, hne, hlt, hle, hgt, hge⟩ := fcmp_finite ha hb
  exact ⟨fadd_finite env ha hb, fsub_finite env ha hb, ffma_finite env ha hb hd, fmul_finite env ha hb, fdiv_finite env ha hb, frcp_finite env ha,
    heq, hne, hlt, hle, hgt, hge, cvt_fp32_s32_finite env ha⟩

end Sys2Proof.Machine

/-! SUPPORT and PROOF. The integer results of the model as the naturals and integers of the spec's tables, the words of each shape as one performed write, and O6 to O10. -/

namespace Sys2Proof

open Machine (boolWord smin smax nmin nmax selBits fieldPos fieldWidth clzNat ctzNat popNat byteOf revByte wordOfBytes)

/-! ## Bit vectors as numbers -/

theorem ofNat_toNat_self {n : Nat} (x : BitVec n) : BitVec.ofNat n x.toNat = x := by rw [BitVec.ofNat_toNat, BitVec.setWidth_eq]

/-- A concatenation as a number: the first part above the second. -/
theorem toNat_append_eq {m n : Nat} (x : BitVec m) (y : BitVec n) : (x ++ y).toNat = x.toNat * 2 ^ n + y.toNat := by
  rw [BitVec.toNat_append, ← Nat.shiftLeft_add_eq_or_of_lt y.isLt, Nat.shiftLeft_eq]

theorem append_eq_ofNat {m n : Nat} (x : BitVec m) (y : BitVec n) : x ++ y = BitVec.ofNat (m + n) (x.toNat * 2 ^ n + y.toNat) := by
  rw [← toNat_append_eq, ofNat_toNat_self]

/-- Sign extension as a number: from the top bit on, `2^n` less. -/
theorem signExtend_eq_ofInt {n : Nat} (v : Nat) (x : BitVec (n + 1)) :
    x.signExtend v = BitVec.ofInt v (if x.toNat < 2 ^ n then (x.toNat : Int) else (x.toNat : Int) - (2 ^ (n + 1) : Nat)) := by
  have h : 2 * x.toNat < 2 ^ (n + 1) ↔ x.toNat < 2 ^ n := by omega
  rw [BitVec.signExtend, BitVec.toInt_eq_toNat_cond]
  exact congrArg (BitVec.ofInt v) (Machine.ite_eq_of_iff h rfl rfl)

/-- The product with a power of two, cut to the word, is a shift. -/
theorem ofNat_mul_two_pow {n : Nat} (x : BitVec n) (k : Nat) : BitVec.ofNat n (x.toNat * 2 ^ k) = x <<< k := by
  apply BitVec.eq_of_toNat_eq
  rw [BitVec.toNat_ofNat, BitVec.toNat_shiftLeft, Nat.shiftLeft_eq]

theorem ofNat_div_two_pow {n : Nat} (x : BitVec n) (k : Nat) : BitVec.ofNat n (x.toNat / 2 ^ k) = x >>> k := by
  rw [← Nat.shiftRight_eq_div_pow, ← BitVec.toNat_ushiftRight, ofNat_toNat_self]

theorem sum_bits_succ (p : Nat → Bool) (n : Nat) :
    ((List.range (n + 1)).map fun k => if p k then 2 ^ k else 0).sum = 2 ^ n * (p n).toNat + ((List.range n).map fun k => if p k then 2 ^ k else 0).sum := by
  rw [List.range_succ, List.map_append, List.sum_append, List.map_singleton, List.sum_singleton, Nat.add_comm]
  cases p n <;> simp

theorem sum_bits_lt (p : Nat → Bool) (n : Nat) : ((List.range n).map fun k => if p k then 2 ^ k else 0).sum < 2 ^ n := by
  induction n with
  | zero => exact Nat.one_pos
  | succ n ih =>
    have hbit := Nat.mul_le_mul_left (2 ^ n) (Bool.toNat_le (p n))
    rw [sum_bits_succ, Nat.pow_succ]
    omega

/-- A number given bit by bit has these bits. -/
theorem testBit_sum_bits (p : Nat → Bool) (n i : Nat) :
    ((List.range n).map fun k => if p k then 2 ^ k else 0).sum.testBit i = (decide (i < n) && p i) := by
  induction n with
  | zero => exact Nat.zero_testBit i
  | succ n ih =>
    rw [sum_bits_succ, Nat.testBit_two_pow_mul_add _ (sum_bits_lt p n), ih, Nat.testBit_bool_toNat]
    rcases Nat.lt_trichotomy i n with h | h | h
    · simp [h, Nat.lt_succ_of_lt h]
    · simp [h]
    · simp [show ¬i < n by omega, show ¬i < n + 1 by omega, show i - n ≠ 0 by omega]

/-! ## Three-register results (R100, R101) -/

theorem Spec.add_eq : Spec.add = fun _ a b => a + b := by
  funext _ a b
  rw [Spec.add, BitVec.ofNat_add, ofNat_toNat_self, ofNat_toNat_self]

theorem Spec.sub_eq : Spec.sub = fun _ a b => a - b := by
  funext _ a b
  rw [Spec.sub, Int.sub_eq_add_neg, BitVec.ofInt_add, BitVec.ofInt_neg, BitVec.ofInt_toInt, BitVec.ofInt_toInt, BitVec.sub_eq_add_neg]

theorem Spec.mul_eq : Spec.mul = fun _ a b => a * b := by
  funext _ a b
  rw [Spec.mul, BitVec.ofNat_mul, ofNat_toNat_self, ofNat_toNat_self]

theorem Spec.mac_eq : Spec.mac = fun d a b => d + a * b := by
  funext d a b
  rw [Spec.mac, BitVec.ofNat_add, BitVec.ofNat_mul, ofNat_toNat_self, ofNat_toNat_self, ofNat_toNat_self]

theorem Spec.shl_eq : Spec.shl = fun _ a b => Machine.shl a b := by
  funext _ a b
  rw [Spec.shl, Machine.shl]
  split
  · exact ofNat_mul_two_pow a _
  · exact (BitVec.shiftLeft_eq_zero (by omega)).symm

theorem Spec.shr_eq : Spec.shr = fun _ a b => Machine.shr a b := by
  funext _ a b
  rw [Spec.shr, Machine.shr]
  split
  · exact ofNat_div_two_pow a _
  · exact (BitVec.ushiftRight_eq_zero (by omega)).symm

theorem Spec.sra_eq : Spec.sra = fun _ a b => Machine.sra a b := by
  funext _ a b
  rw [Machine.sra, ← BitVec.ofInt_toInt (x := BitVec.sshiftRight _ _), BitVec.toInt_sshiftRight, Int.shiftRight_eq_div_pow]
  exact congrArg (fun u => BitVec.ofInt 32 (a.toInt / u)) (Int.natCast_pow 2 _).symm

theorem Spec.min_eq : Spec.min = fun _ a b => smin a b := by
  funext _ a b
  simp only [Spec.min, smin, BitVec.sle_iff_toInt_le]

theorem Spec.max_eq : Spec.max = fun _ a b => smax a b := by
  funext _ a b
  simp only [Spec.max, smax, BitVec.sle_iff_toInt_le]

theorem Spec.minn_eq : Spec.minn = fun _ a b => nmin a b := by
  funext _ a b
  simp only [Spec.minn, nmin, BitVec.ule_iff_toNat_le]

theorem Spec.maxn_eq : Spec.maxn = fun _ a b => nmax a b := by
  funext _ a b
  simp only [Spec.maxn, nmax, BitVec.ule_iff_toNat_le]

/-! Compares: `boolWord_eq_truth` for each condition. -/

theorem Spec.ceq_eq : Spec.ceq = fun _ a b => boolWord (a == b) :=
  funext fun _ => funext fun _ => funext fun _ => (Machine.boolWord_eq_truth (beq_iff_eq.trans BitVec.toNat_inj.symm)).symm

theorem Spec.cne_eq : Spec.cne = fun _ a b => boolWord (a != b) :=
  funext fun _ => funext fun _ => funext fun _ => (Machine.boolWord_eq_truth (bne_iff_ne.trans BitVec.toNat_ne_iff_ne.symm)).symm

theorem Spec.clt_eq : Spec.clt = fun _ a b => boolWord (a.slt b) :=
  funext fun _ => funext fun _ => funext fun _ => (Machine.boolWord_eq_truth BitVec.slt_iff_toInt_lt).symm

theorem Spec.cle_eq : Spec.cle = fun _ a b => boolWord (a.sle b) :=
  funext fun _ => funext fun _ => funext fun _ => (Machine.boolWord_eq_truth BitVec.sle_iff_toInt_le).symm

theorem Spec.cltn_eq : Spec.cltn = fun _ a b => boolWord (a.ult b) :=
  funext fun _ => funext fun _ => funext fun _ => (Machine.boolWord_eq_truth BitVec.ult_iff_toNat_lt).symm

theorem Spec.clen_eq : Spec.clen = fun _ a b => boolWord (a.ule b) :=
  funext fun _ => funext fun _ => funext fun _ => (Machine.boolWord_eq_truth BitVec.ule_iff_toNat_le).symm

/-! ## The IXT results (R104 to R106) -/

/-- Bits 63:32 of a 64-bit product as a division. -/
theorem extractLsb'_ofInt (z : Int) : (BitVec.ofInt 64 z).extractLsb' 32 32 = BitVec.ofInt 32 (z / 2 ^ 32) := by
  apply BitVec.eq_of_toNat_eq
  rw [BitVec.extractLsb'_toNat, BitVec.toNat_ofInt, BitVec.toNat_ofInt, Nat.shiftRight_eq_div_pow]
  omega

theorem Spec.mulh_eq : Spec.mulh = fun _ a b => Machine.mulh a b := by
  funext _ a b
  rw [Spec.mulh, Machine.mulh, BitVec.signExtend, BitVec.signExtend, ← BitVec.ofInt_mul, extractLsb'_ofInt]

theorem Spec.mulhn_eq : Spec.mulhn = fun _ a b => Machine.mulhn a b := by
  funext _ a b
  rw [Spec.mulhn, Machine.mulhn, ← BitVec.ofNat_toNat, ← BitVec.ofNat_toNat, ← BitVec.ofNat_mul, ← BitVec.ofInt_natCast 64, extractLsb'_ofInt,
    ← BitVec.ofInt_natCast]
  rfl

theorem Spec.sat_eq (x : Int) : Spec.sat x = BitVec.ofInt 32 (Machine.clampInt (-2147483648) 2147483647 x) := by
  rw [Spec.sat, Machine.clampInt]
  congr 1
  split
  · omega
  · split <;> omega

theorem Spec.adds_eq : Spec.adds = fun _ a b => Machine.adds a b := funext fun _ => funext fun _ => funext fun _ => Spec.sat_eq _
theorem Spec.subs_eq : Spec.subs = fun _ a b => Machine.subs a b := funext fun _ => funext fun _ => funext fun _ => Spec.sat_eq _

theorem Spec.rol_eq : Spec.rol = fun _ a b => Machine.rol a b := by
  funext _ a b
  have hn : b.toNat % 32 < 32 := Nat.mod_lt _ (by decide)
  rw [Spec.rol, Machine.rol]
  generalize b.toNat % 32 = n at hn
  have hlow : a.toNat / 2 ^ (32 - n) < 2 ^ n := by
    rw [Nat.div_lt_iff_lt_mul (Nat.two_pow_pos _), ← Nat.pow_add, Nat.add_sub_cancel' (Nat.le_of_lt hn)]
    exact a.isLt
  rw [BitVec.rotateLeft_def, Nat.mod_eq_of_lt hn, ← Nat.shiftLeft_eq, Nat.shiftLeft_add_eq_or_of_lt hlow, BitVec.ofNat_or, Nat.shiftLeft_eq,
    ofNat_mul_two_pow, ofNat_div_two_pow]

theorem fieldWidth_eq (b : Word) : fieldWidth b = Spec.width b := by
  rw [fieldWidth, BitVec.extractLsb'_toNat, Nat.shiftRight_eq_div_pow]
  rfl

theorem Spec.bfxn_eq : Spec.bfxn = fun _ a b => Machine.bfxn a b := by
  funext _ a b
  rw [Machine.bfxn, fieldWidth_eq]
  rfl

theorem Spec.bfx_eq : Spec.bfx = fun _ a b => Machine.bfx a b := by
  funext _ a b
  simp only [Machine.bfx, fieldWidth_eq]
  rfl

/-- The bits of a number with a field replaced. -/
theorem testBit_replace {x p w f : Nat} (hf : f < 2 ^ w) (i : Nat) :
    (x - x / 2 ^ p % 2 ^ w * 2 ^ p + f * 2 ^ p).testBit i = if i < p then x.testBit i else if i < p + w then f.testBit (i - p) else x.testBit i := by
  have hlow : x % 2 ^ p < 2 ^ p := Nat.mod_lt _ (Nat.two_pow_pos p)
  have hx : x = (x / 2 ^ (p + w) * 2 ^ w + x / 2 ^ p % 2 ^ w) * 2 ^ p + x % 2 ^ p := by
    rw [Nat.pow_add, ← Nat.div_div_eq_div_mul, Nat.div_add_mod', Nat.div_add_mod']
  have hsum : x - x / 2 ^ p % 2 ^ w * 2 ^ p + f * 2 ^ p = 2 ^ p * (2 ^ w * (x / 2 ^ (p + w)) + f) + x % 2 ^ p := by
    rw [Nat.add_mul] at hx
    rw [Nat.mul_add, ← Nat.mul_comm (x / 2 ^ (p + w)), Nat.mul_comm (2 ^ p), Nat.mul_comm (2 ^ p) f]
    omega
  rw [hsum, Nat.testBit_two_pow_mul_add _ hlow, Nat.testBit_two_pow_mul_add _ hf, Nat.testBit_mod_two_pow, Nat.testBit_div_two_pow]
  by_cases hp : i < p
  · rw [if_pos hp, if_pos hp, decide_eq_true hp, Bool.true_and]
  · have hw : i - p < w ↔ i < p + w := by omega
    rw [if_neg hp, if_neg hp, show i - p - w + (p + w) = if i < p + w then p + w else i by split <;> omega]
    simp only [hw]
    split <;> rfl

/-- A field replaced by arithmetic is the field cleared by a mask and the new one ORed in. -/
theorem ofNat_replace (d : Word) {p w f : Nat} (hf : f < 2 ^ w) :
    BitVec.ofNat 32 (d.toNat - d.toNat / 2 ^ p % 2 ^ w * 2 ^ p + f * 2 ^ p) =
      (d &&& ~~~BitVec.ofNat 32 ((2 ^ w - 1) * 2 ^ p)) ||| BitVec.ofNat 32 (f * 2 ^ p) := by
  refine BitVec.eq_of_getLsbD_eq fun i hi => ?_
  simp only [BitVec.getLsbD_or, BitVec.getLsbD_and, BitVec.getLsbD_not, BitVec.getLsbD_ofNat, Nat.testBit_mul_two_pow, Nat.testBit_two_pow_sub_one, hi,
    testBit_replace hf, decide_true, Bool.true_and, BitVec.testBit_toNat]
  rcases Nat.lt_or_ge i p with hlo | hlo
  · simp [hlo, Nat.not_le.mpr hlo]
  · rcases Nat.lt_or_ge i (p + w) with hin | hhi
    · simp [hlo, hin, Nat.not_lt.mpr hlo, show i - p < w by omega]
    · have hzero : f.testBit (i - p) = false := Nat.testBit_lt_two_pow (Nat.lt_of_lt_of_le hf (Nat.pow_le_pow_right (by decide) (by omega)))
      simp [hlo, hzero, Nat.not_lt.mpr hlo, Nat.not_lt.mpr hhi, show ¬i - p < w by omega]

theorem Spec.bfi_eq : Spec.bfi = Machine.bfi := by
  funext d a b
  rw [Machine.bfi, fieldWidth_eq]
  exact ofNat_replace d (Nat.mod_lt _ (Nat.two_pow_pos _))

theorem Spec.divs_eq : Spec.divs = Machine.divs := by
  funext a b
  have hzero : b.toInt = 0 ↔ b = 0 := by rw [← BitVec.toInt_inj]; rfl
  simp only [Spec.divs, Machine.divs, hzero]
  split
  · rfl
  · split
    · next h => obtain ⟨rfl, rfl⟩ := h; decide
    · exact Prod.ext (BitVec.eq_of_toInt_eq (by rw [BitVec.toInt_ofInt, BitVec.toInt_sdiv])) (by rw [← BitVec.toInt_srem, BitVec.ofInt_toInt])

theorem Spec.divn_eq : Spec.divn = Machine.divn := by
  funext a b
  have hzero : b.toNat = 0 ↔ b = 0 := by rw [← BitVec.toNat_inj]; rfl
  simp only [Spec.divn, Machine.divn, hzero, ← BitVec.toNat_udiv, ← BitVec.toNat_umod, ofNat_toNat_self]
  rfl

/-! ## The INTF results (R108) -/

theorem Spec.neg_eq : Spec.neg = Machine.negWord := by
  funext a
  rw [Spec.neg, BitVec.ofInt_neg, BitVec.ofInt_toInt, Machine.negWord]

theorem Spec.abs_eq : Spec.abs = Machine.absWord := by
  funext a
  rw [Spec.abs, Machine.absWord, BitVec.msb_eq_toInt]
  by_cases h : a.toInt < 0
  · rw [Int.ofNat_natAbs_of_nonpos (Int.le_of_lt h), BitVec.ofInt_neg, BitVec.ofInt_toInt, decide_eq_true h, if_pos rfl]
  · rw [Int.natAbs_of_nonneg (Int.not_lt.mp h), BitVec.ofInt_toInt, decide_eq_false h, if_neg Bool.false_ne_true]

/-- Zeros on top of the low m bits are counted. -/
theorem clzNat_add {a : Word} {m : Nat} (h : ∀ i, m ≤ i → a.getLsbD i = false) (k : Nat) : clzNat a (m + k) = k + clzNat a m := by
  induction k with
  | zero => rw [Nat.add_zero, Nat.zero_add]
  | succ k ih => rw [← Nat.add_assoc, clzNat, h _ (Nat.le_add_right m k), if_neg Bool.false_ne_true, ih, Nat.add_right_comm, Nat.add_comm 1]

theorem Spec.clz_eq : Spec.clz = Machine.clz := by
  funext a
  rw [Spec.clz, Machine.clz]
  by_cases h0 : a.toNat = 0
  · have hz := clzNat_add (a := a) (m := 0) (fun i _ => by rw [BitVec.getLsbD, h0, Nat.zero_testBit]) 32
    rw [if_pos h0, hz]
    rfl
  · have hlog : a.toNat.log2 < 32 := (Nat.log2_lt h0).mpr a.isLt
    have hz := clzNat_add (a := a) (m := a.toNat.log2 + 1) (fun i hi => Nat.testBit_lt_two_pow ((Nat.log2_lt h0).mp hi)) (31 - a.toNat.log2)
    have htop : clzNat a (a.toNat.log2 + 1) = 0 := if_pos (Nat.testBit_log2 h0)
    rw [htop, show a.toNat.log2 + 1 + (31 - a.toNat.log2) = 32 by omega] at hz
    rw [if_neg h0, hz, Nat.add_zero]

theorem add_ctzNat (a : Word) (i n : Nat) : i + ctzNat a i n = ((List.range' i n).find? fun k => a.getLsbD k).getD (i + n) := by
  induction n generalizing i with
  | zero => rfl
  | succ n ih =>
    rw [ctzNat, List.range'_succ, List.find?_cons]
    cases a.getLsbD i
    · simp only [Bool.false_eq_true, if_false, ← Nat.add_assoc, ih, Nat.add_right_comm]
    · rfl

theorem Spec.ctz_eq : Spec.ctz = Machine.ctz := by
  funext a
  rw [Spec.ctz, Machine.ctz, List.range_eq_range', ← Nat.zero_add (ctzNat a 0 32), add_ctzNat]

theorem popNat_eq (a : Word) (n : Nat) : popNat a n = ((List.range n).filter fun i => a.getLsbD i).length := by
  induction n with
  | zero => rfl
  | succ n ih =>
    rw [popNat, ih, List.range_succ, List.filter_append, List.length_append, Nat.add_comm]
    cases h : a.getLsbD n <;> simp [h]

theorem Spec.popc_eq : Spec.popc = Machine.popc := by
  funext a
  rw [Spec.popc, Machine.popc, popNat_eq]

theorem Spec.brev_eq : Spec.brev = Machine.brev := by
  funext a
  refine BitVec.eq_of_getLsbD_eq fun i hi => ?_
  rw [Spec.brev, Machine.brev, BitVec.getLsbD_ofNat, testBit_sum_bits fun i => a.getLsbD (31 - i), BitVec.getLsbD_reverse, BitVec.getMsbD,
    decide_eq_true hi, Bool.true_and]

theorem toNat_byteOf (a : Word) (i : Nat) : (byteOf a i).toNat = Spec.byteN a i := by
  rw [byteOf, BitVec.extractLsb'_toNat, Nat.shiftRight_eq_div_pow, Nat.pow_mul]
  rfl

theorem wordOfBytes_eq (b0 b1 b2 b3 : Byte) :
    wordOfBytes b0 b1 b2 b3 = BitVec.ofNat 32 (b0.toNat + b1.toNat * 2 ^ 8 + b2.toNat * 2 ^ 16 + b3.toNat * 2 ^ 24) := by
  rw [wordOfBytes, append_eq_ofNat, toNat_append_eq, toNat_append_eq]
  congr 1
  omega

theorem Spec.bswap_eq : Spec.bswap = Machine.bswap := by
  funext a
  have := a.isLt
  rw [Machine.bswap, wordOfBytes_eq]
  simp only [toNat_byteOf, Spec.byteN, Spec.bswap]
  congr 1
  omega

theorem Spec.sextb_eq : Spec.sextb = Machine.sextb := by
  funext a
  rw [Spec.sextb, Machine.sextb, signExtend_eq_ofInt, BitVec.toNat_setWidth]
  rfl

theorem Spec.sexth_eq : Spec.sexth = Machine.sexth := by
  funext a
  rw [Spec.sexth, Machine.sexth, signExtend_eq_ofInt, BitVec.toNat_setWidth]
  rfl

theorem Spec.zextb_eq : Spec.zextb = Machine.zextb := by
  funext a
  rw [Spec.zextb, Machine.zextb, ← BitVec.ofNat_toNat, BitVec.toNat_setWidth]

theorem Spec.zexth_eq : Spec.zexth = Machine.zexth := by
  funext a
  rw [Spec.zexth, Machine.zexth, ← BitVec.ofNat_toNat, BitVec.toNat_setWidth]

/-! ## PRMT (R140) -/

theorem toNat_revByte (v : Byte) : (revByte v).toNat = Spec.revN v.toNat := by
  refine Nat.eq_of_testBit_eq fun i => ?_
  have hbit (i : Nat) : v.toNat / 2 ^ (7 - i) % 2 * 2 ^ i = if v.getLsbD (7 - i) then 2 ^ i else 0 := by
    rw [BitVec.getLsbD, Nat.testBit_eq_decide_div_mod_eq]
    rcases Nat.mod_two_eq_zero_or_one (v.toNat / 2 ^ (7 - i)) with h | h <;> simp [h]
  simp only [Spec.revN, hbit]
  rw [testBit_sum_bits fun i => v.getLsbD (7 - i), ← BitVec.getLsbD, revByte, BitVec.getLsbD_reverse, BitVec.getMsbD]

theorem toNat_signByte (v : Byte) : (if v.msb then 0xFF else 0 : Byte).toNat = if 128 ≤ v.toNat then 255 else 0 := by
  rw [BitVec.msb_eq_decide, apply_ite BitVec.toNat]
  exact Machine.ite_eq_of_iff decide_eq_true_iff rfl rfl

theorem toNat_prmtByte (a b : Word) (c : Byte) : (Machine.prmtByte a b c).toNat = Spec.prmtByte a b c.toNat := by
  have hrev : c.getLsbD 5 = decide (c.toNat / 32 % 2 = 1) := Nat.testBit_eq_decide_div_mod_eq
  have hsel : (if c.toNat % 8 < 4 then byteOf a (c.toNat % 8) else byteOf b (c.toNat % 8 - 4)).toNat =
      if c.toNat % 8 < 4 then Spec.byteN a (c.toNat % 8) else Spec.byteN b (c.toNat % 8 - 4) := by
    rw [apply_ite BitVec.toNat, toNat_byteOf, toNat_byteOf]
  simp only [Machine.prmtByte, Spec.prmtByte, hrev, ← hsel, decide_eq_true_eq, ← toNat_signByte]
  rw [apply_ite BitVec.toNat, toNat_revByte]
  rcases c.toNat / 8 % 4 with _ | _ | _ | _ <;> rfl

theorem Spec.prmt_eq : Spec.prmt = Machine.prmt := by
  funext d a b
  rw [Machine.prmt, wordOfBytes_eq]
  simp only [toNat_prmtByte, toNat_byteOf]
  rfl

/-! ## Immediates (R75) -/

theorem Spec.imm9_eq (i : BitVec 9) : Spec.imm9 i = Machine.imm9 i := by
  funext wide
  cases wide with
  | none => rfl
  | some p => exact (append_eq_ofNat p i).symm

theorem Spec.cmpS_eq (i : BitVec 6) : Spec.cmpS i = Machine.immCmpS i := by
  funext wide
  cases wide with
  | none => rfl
  | some p =>
    have hlt : p.toNat < 2 ^ 22 ↔ p.toNat * 2 ^ 6 + i.toNat < 2 ^ 28 := by omega
    have hsext := signExtend_eq_ofInt (n := 28) 32 (p ++ i)
    rw [toNat_append_eq] at hsext
    exact (congrArg (BitVec.ofInt 32) (Machine.ite_eq_of_iff hlt rfl rfl)).trans hsext.symm

theorem Spec.cmpN_eq (i : BitVec 6) : Spec.cmpN i = Machine.immCmpN i := by
  funext wide
  cases wide with
  | none => exact BitVec.ofNat_toNat 32 i
  | some p => rw [Machine.immCmpN, ← BitVec.ofNat_toNat, toNat_append_eq]; rfl

/-- A payload of MOVI whose bits 22:16 are 0 (R75). -/
theorem Spec.imm16_eq (i : BitVec 16) {wide : Option (BitVec 23)} (h : ∀ p, wide = some p → p.toNat < 2 ^ 16) :
    Spec.imm16 i wide = Machine.imm16 i wide := by
  cases wide with
  | none => rfl
  | some p =>
    rw [Machine.imm16, append_eq_ofNat, BitVec.toNat_setWidth, Nat.mod_eq_of_lt (h p rfl)]
    rfl

theorem wideMoviBad_eq_none {wide : Option (BitVec 23)} (h : ∀ p, wide = some p → p.toNat < 2 ^ 16) : Machine.wideMoviBad wide = none := by
  cases wide with
  | none => rfl
  | some p =>
    have hp := h p rfl
    rw [Machine.wideMoviBad, if_pos]
    apply BitVec.eq_of_toNat_eq
    rw [BitVec.extractLsb'_toNat, Nat.shiftRight_eq_div_pow, Nat.div_eq_of_lt hp]
    rfl

theorem wideMoviBad_eq_some {p : BitVec 23} (h : 2 ^ 16 ≤ p.toNat) : Machine.wideMoviBad (some p) = some p := by
  have hlt := p.isLt
  rw [Machine.wideMoviBad, if_neg]
  intro h0
  have h0 := congrArg BitVec.toNat h0
  rw [BitVec.extractLsb'_toNat, Nat.shiftRight_eq_div_pow] at h0
  change p.toNat / 2 ^ 16 % 2 ^ 7 = 0 at h0
  omega

/-- The word of a wide-immediate HINT, extended to FVAL (R75). -/
theorem setWidth_packHint_wide (p : BitVec 23) : (packHint 0 p).setWidth 64 = BitVec.ofNat 64 (0xFE000000 + p.toNat) := by
  rw [← BitVec.ofNat_toNat, packHint, toNat_append_eq, toNat_append_eq]
  rfl

end Sys2Proof

namespace Sys2Proof.Machine

/-! ## Which shape each instruction has, with the result of the spec's table

In each case the instruction's meaning is its shape by definition; what there is to say is the equation of its result. -/

theorem exec_of_laneHpOp {i : Instr} {o : RegHP} {g : Word → Word → Word → Word} (h : laneHpOp i = some (o, g)) (s : State) : exec i s = laneHP o s g := by
  unfold laneHpOp at h
  split at h <;> cases h
  · rw [Spec.add_eq]; rfl
  · rw [Spec.sub_eq]; rfl
  · rw [Spec.mul_eq]; rfl
  · rw [Spec.mac_eq]; rfl
  · rfl
  · rfl
  · rfl
  · rfl
  · rw [Spec.shl_eq]; rfl
  · rw [Spec.shr_eq]; rfl
  · rw [Spec.sra_eq]; rfl
  · rw [Spec.min_eq]; rfl
  · rw [Spec.max_eq]; rfl
  · rw [Spec.minn_eq]; rfl
  · rw [Spec.maxn_eq]; rfl
  · rfl
  · rw [Spec.ceq_eq]; rfl
  · rw [Spec.cne_eq]; rfl
  · rw [Spec.clt_eq]; rfl
  · rw [Spec.cle_eq]; rfl
  · rw [Spec.cltn_eq]; rfl
  · rw [Spec.clen_eq]; rfl
  · rw [Spec.prmt_eq]; rfl

theorem exec_of_laneRegOp {i : Instr} {o : Reg3} {g : Word → Word → Word → Word} (h : laneRegOp i = some (o, g)) (s : State) : exec i s = laneRegF o s g := by
  unfold laneRegOp at h
  split at h <;> cases h
  · rw [Spec.mulh_eq]; rfl
  · rw [Spec.mulhn_eq]; rfl
  · rw [Spec.adds_eq]; rfl
  · rw [Spec.subs_eq]; rfl
  · rw [Spec.rol_eq]; rfl
  · rw [Spec.bfx_eq]; rfl
  · rw [Spec.bfxn_eq]; rfl
  · rw [Spec.bfi_eq]; rfl
  · rfl
  · rfl

theorem exec_of_groupRegOp {i : Instr} {o : Reg3} {g : Word → Word → Word → Word} (h : groupRegOp i = some (o, g)) (s : State) : exec i s = groupReg o s g := by
  unfold groupRegOp at h
  split at h <;> cases h
  · rw [Spec.add_eq]; rfl
  · rw [Spec.sub_eq]; rfl
  · rw [Spec.mul_eq]; rfl
  · rw [Spec.mac_eq]; rfl
  · rfl
  · rfl
  · rfl
  · rfl
  · rw [Spec.shl_eq]; rfl
  · rw [Spec.shr_eq]; rfl
  · rw [Spec.sra_eq]; rfl
  · rw [Spec.min_eq]; rfl
  · rw [Spec.max_eq]; rfl
  · rw [Spec.minn_eq]; rfl
  · rw [Spec.maxn_eq]; rfl
  · rfl
  · rw [Spec.ceq_eq]; rfl
  · rw [Spec.cne_eq]; rfl
  · rw [Spec.clt_eq]; rfl
  · rw [Spec.cle_eq]; rfl
  · rw [Spec.cltn_eq]; rfl
  · rw [Spec.clen_eq]; rfl
  · rw [Spec.mulh_eq]; rfl
  · rw [Spec.mulhn_eq]; rfl
  · rw [Spec.adds_eq]; rfl
  · rw [Spec.subs_eq]; rfl
  · rw [Spec.rol_eq]; rfl
  · rw [Spec.bfx_eq]; rfl
  · rw [Spec.bfxn_eq]; rfl
  · rw [Spec.bfi_eq]; rfl
  · rfl
  · rfl

theorem exec_of_lanePairOp {i : Instr} {o : Reg3} {g : Word → Word → Word × Word} (h : lanePairOp i = some (o, g)) (s : State) : exec i s = lanePair o s g := by
  unfold lanePairOp at h
  split at h <;> cases h
  · rw [Spec.divs_eq]; rfl
  · rw [Spec.divn_eq]; rfl

theorem exec_of_groupPairOp {i : Instr} {o : Reg3} {g : Word → Word → Word × Word} (h : groupPairOp i = some (o, g)) (s : State) : exec i s = groupPair o s g := by
  unfold groupPairOp at h
  split at h <;> cases h
  · rw [Spec.divs_eq]; rfl
  · rw [Spec.divn_eq]; rfl

theorem exec_of_laneFunOp {i : Instr} {o : FunHP} {g : Word → Word} (h : laneFunOp i = some (o, g)) (s : State) : exec i s = laneFun o s g := by
  unfold laneFunOp at h
  split at h <;> cases h
  · rfl
  · rfl
  · rw [Spec.neg_eq]; rfl
  · rw [Spec.abs_eq]; rfl
  · rw [Spec.clz_eq]; rfl
  · rw [Spec.ctz_eq]; rfl
  · rw [Spec.popc_eq]; rfl
  · rw [Spec.brev_eq]; rfl
  · rw [Spec.bswap_eq]; rfl
  · rw [Spec.sextb_eq]; rfl
  · rw [Spec.sexth_eq]; rfl
  · rw [Spec.zextb_eq]; rfl
  · rw [Spec.zexth_eq]; rfl

theorem exec_of_groupFunOp {i : Instr} {o : Reg2} {g : Word → Word} (h : groupFunOp i = some (o, g)) (s : State) : exec i s = groupFun o s g := by
  unfold groupFunOp at h
  split at h <;> cases h
  · rfl
  · rfl
  · rw [Spec.neg_eq]; rfl
  · rw [Spec.abs_eq]; rfl
  · rw [Spec.clz_eq]; rfl
  · rw [Spec.ctz_eq]; rfl
  · rw [Spec.popc_eq]; rfl
  · rw [Spec.brev_eq]; rfl
  · rw [Spec.bswap_eq]; rfl
  · rw [Spec.sextb_eq]; rfl
  · rw [Spec.sexth_eq]; rfl
  · rw [Spec.zextb_eq]; rfl
  · rw [Spec.zexth_eq]; rfl

theorem exec_of_laneImmOp {i : Instr} {d a : Reg} {pm : Pm} {k : Option (BitVec 23) → Word} {g : Word → Word → Word → Word} (h : laneImmOp i = some (d, a, pm, k, g))
    (s : State) : ∃ r : Word → Word → Word, (g = fun _ x y => r x y) ∧ exec i s = laneImm d a pm k s r := by
  unfold laneImmOp at h
  split at h <;> cases h
  · exact ⟨_, Spec.add_eq, by rw [Spec.imm9_eq]; rfl⟩
  · exact ⟨_, rfl, by rw [Spec.imm9_eq]; rfl⟩
  · exact ⟨_, rfl, by rw [Spec.imm9_eq]; rfl⟩
  · exact ⟨_, rfl, by rw [Spec.imm9_eq]; rfl⟩
  · exact ⟨_, Spec.ceq_eq, by rw [Spec.cmpS_eq]; rfl⟩
  · exact ⟨_, Spec.cne_eq, by rw [Spec.cmpS_eq]; rfl⟩
  · exact ⟨_, Spec.clt_eq, by rw [Spec.cmpS_eq]; rfl⟩
  · exact ⟨_, Spec.cle_eq, by rw [Spec.cmpS_eq]; rfl⟩
  · exact ⟨_, Spec.cltn_eq, by rw [Spec.cmpN_eq]; rfl⟩
  · exact ⟨_, Spec.clen_eq, by rw [Spec.cmpN_eq]; rfl⟩

theorem exec_of_groupImmOp {i : Instr} {d a : Reg} {k : Option (BitVec 23) → Word} {g : Word → Word → Word → Word} (h : groupImmOp i = some (d, a, k, g))
    (s : State) : ∃ r : Word → Word → Word, (g = fun _ x y => r x y) ∧ exec i s = groupImm d a k s r := by
  unfold groupImmOp at h
  split at h <;> cases h
  · exact ⟨_, Spec.add_eq, by rw [Spec.imm9_eq]; rfl⟩
  · exact ⟨_, rfl, by rw [Spec.imm9_eq]; rfl⟩
  · exact ⟨_, rfl, by rw [Spec.imm9_eq]; rfl⟩
  · exact ⟨_, rfl, by rw [Spec.imm9_eq]; rfl⟩
  · exact ⟨_, Spec.ceq_eq, by rw [Spec.cmpS_eq]; rfl⟩
  · exact ⟨_, Spec.cne_eq, by rw [Spec.cmpS_eq]; rfl⟩
  · exact ⟨_, Spec.clt_eq, by rw [Spec.cmpS_eq]; rfl⟩
  · exact ⟨_, Spec.cle_eq, by rw [Spec.cmpS_eq]; rfl⟩
  · exact ⟨_, Spec.cltn_eq, by rw [Spec.cmpN_eq]; rfl⟩
  · exact ⟨_, Spec.clen_eq, by rw [Spec.cmpN_eq]; rfl⟩

theorem exec_of_laneShiftOp {i : Instr} {o : ShiftPM} {g : Word → Word → Word → Word} (h : laneShiftOp i = some (o, g)) (s : State) : exec i s = laneShift o s (g 0) := by
  unfold laneShiftOp at h
  split at h <;> cases h
  · rw [Spec.shl_eq]; rfl
  · rw [Spec.shr_eq]; rfl
  · rw [Spec.sra_eq]; rfl
  · rw [Spec.rol_eq]; rfl

theorem exec_of_groupShiftOp {i : Instr} {o : ShiftG} {g : Word → Word → Word → Word} (h : groupShiftOp i = some (o, g)) (s : State) : exec i s = groupShift o s (g 0) := by
  unfold groupShiftOp at h
  split at h <;> cases h
  · rw [Spec.shl_eq]; rfl
  · rw [Spec.shr_eq]; rfl
  · rw [Spec.sra_eq]; rfl
  · rw [Spec.rol_eq]; rfl

/-! ## A word that writes registers only -/

theorem Swell.setS_ents (w : Swell) (r : Reg) (x : Word) : (w.setS r x).ents = w.ents := by unfold Swell.setS; split <;> rfl
theorem Swell.setS_uid (w : Swell) (r : Reg) (x : Word) : (w.setS r x).uid = w.uid := by unfold Swell.setS; split <;> rfl

/-- A ready word whose body leaves the split table alone is performed, and its fragment goes on. -/
theorem performed_of_ents {s : State} {w : Swell} {f : Frag} {fm : Form} {regs : List Nat} (h : Ready s w f fm regs) (hb : fm.brk = false)
    (body : Swell → Frag → Swell) (hu : (body w f).uid = w.uid) (he : (body w f).ents = w.ents) :
    ∃ t, issueSwell fm regs s body = .next t ∧ Performed s t (body w f) (f.onward s.now) := by
  have hent : (body w f).ent s.cur.ent = f := by rw [Swell.ent, he]; exact h.swellAt.2
  have hp := performed_issueSwell h hb body hu (congrArg Frag.pc hent)
  rwa [hent] at hp

/-- A lane-scope write of one V register. -/
theorem performed_setV {s : State} {w : Swell} {f : Frag} {fm : Form} {regs : List Nat} (h : Ready s w f fm regs) (hb : fm.brk = false)
    (m : Swell → Frag → Word) (d : Reg) (x : Swell → Frag → Row) :
    ∃ t, issueSwell fm regs s (fun w f => w.setV (m w f) d (x w f)) = .next t ∧ Performed s t (w.setV (m w f) d (x w f)) (f.onward s.now) :=
  performed_of_ents h hb _ rfl rfl

/-- A group-scope write of one S register. -/
theorem performed_setS {s : State} {w : Swell} {f : Frag} {fm : Form} {regs : List Nat} (h : Ready s w f fm regs) (hb : fm.brk = false)
    (d : Reg) (x : Swell → Frag → Word) :
    ∃ t, issueSwell fm regs s (fun w f => w.setS d (x w f)) = .next t ∧ Performed s t (w.setS d (x w f)) (f.onward s.now) :=
  performed_of_ents h hb _ (Swell.setS_uid ..) (Swell.setS_ents ..)

/-- Settles O6: each word is its shape with the result of the table, and the shape is one masked write. -/
theorem integerWordsCompute : Obligations.IntegerWordsCompute := by
  refine ⟨fun i o g s w f hop h => ?_, fun i o g s w f hop h => ?_⟩
  · rw [Answers, exec_of_laneHpOp hop]
    exact performed_setV h rfl _ _ _
  · rw [Answers, exec_of_laneRegOp hop]
    exact performed_setV h rfl _ _ _

/-- Settles O7: each word is `groupReg` with the result of the table, which is one write of an S register. -/
theorem groupIntegerWordsCompute : Obligations.GroupIntegerWordsCompute := by
  intro i o g s w f hop h
  rw [Answers, exec_of_groupRegOp hop]
  exact performed_setS h rfl _ _

/-- Settles O8: quotient and remainder are those of the rule, and both shapes write the pair from sources read before. -/
theorem divisionWritesQuotientAndRemainder : Obligations.DivisionWritesQuotientAndRemainder := by
  refine ⟨fun i o g s w f hop h => ?_, fun i o g s w f hop h => ?_, by decide⟩
  · rw [Answers, exec_of_lanePairOp hop]
    exact performed_of_ents h rfl _ rfl rfl
  · rw [Answers, exec_of_groupPairOp hop]
    exact performed_of_ents h rfl _ ((Swell.setS_uid ..).trans (Swell.setS_uid ..)) ((Swell.setS_ents ..).trans (Swell.setS_ents ..))

/-- Settles O9: each word is `laneFun` or `groupFun` with the result of the table. -/
theorem oneOperandIntegerWordsCompute : Obligations.OneOperandIntegerWordsCompute := by
  refine ⟨fun i o g s w f hop h => ?_, fun i o g s w f hop h => ?_⟩
  · rw [Answers, exec_of_laneFunOp hop]
    exact performed_setV h rfl _ _ _
  · rw [Answers, exec_of_groupFunOp hop]
    exact performed_setS h rfl _ _

/-! ## MOVI (R111) -/

theorem exec_movi (o : MoviPM) (s : State) : exec (.movi o) s = execMovi o s := rfl
theorem exec_moviGroup (o : MoviG) (s : State) : exec (.moviGroup o) s = execMoviGroup o s := rfl

section
variable {s : State} {w : Swell} {f : Frag}

/-- With a payload that it takes MOVI is a masked write of the joined immediate. -/
theorem execMovi_of_lt {o : MoviPM} (h : Ready s w f { wide := true, writes := [o.d] } [o.d.toNat])
    (hp : ∀ p, f.hints.wide = some p → p.toNat < 2 ^ 16) :
    execMovi o s = issueSwell { wide := true, writes := [o.d] } [o.d.toNat] s fun w f =>
      w.setV (lanesActive w f o.pm) o.d (rowOf fun _ => Spec.imm16 o.imm f.hints.wide) := by
  have h0 : Ready s w f { wide := true, writes := [o.d] } [] := ⟨h.toRuns, h.hints, fun _ hr => absurd hr List.not_mem_nil⟩
  rw [execMovi, issueSwell, issue_ready h0, issue_ready h, wideMoviBad_eq_none hp, h.regRange_eq_none, Spec.imm16_eq o.imm hp]

theorem execMoviGroup_of_lt {o : MoviG} (h : Ready s w f { wide := true } []) (hp : ∀ p, f.hints.wide = some p → p.toNat < 2 ^ 16) :
    execMoviGroup o s = issueSwell { wide := true } [] s fun w f => w.setS o.d (Spec.imm16 o.imm f.hints.wide) := by
  rw [execMoviGroup, issueSwell, issue_ready h, issue_ready h, wideMoviBad_eq_none hp, Spec.imm16_eq o.imm hp]

/-- With a bit of p[22:16] set MOVI takes ILLEGAL with the HINT word (R75). -/
theorem execMovi_of_le {o : MoviPM} {p : BitVec 23} (h : Ready s w f { wide := true } []) (hw : f.hints.wide = some p) (hp : 2 ^ 16 ≤ p.toNat)
    (ho : f.outst = []) :
    execMovi o s = .next (s.takeFault s.cur (plainFault .illegal (BitVec.ofNat 64 (0xFE000000 + p.toNat)))) := by
  have h0 : Ready s w f { wide := true, writes := [o.d] } [] := ⟨h.toRuns, h.hints, h.range⟩
  rw [execMovi, issue_ready h0, hw, wideMoviBad_eq_some hp, settle_fault h.toRuns ho, setWidth_packHint_wide]

theorem execMoviGroup_of_le {o : MoviG} {p : BitVec 23} (h : Ready s w f { wide := true } []) (hw : f.hints.wide = some p) (hp : 2 ^ 16 ≤ p.toNat)
    (ho : f.outst = []) :
    execMoviGroup o s = .next (s.takeFault s.cur (plainFault .illegal (BitVec.ofNat 64 (0xFE000000 + p.toNat)))) := by
  rw [execMoviGroup, issue_ready h, hw, wideMoviBad_eq_some hp, settle_fault h.toRuns ho, setWidth_packHint_wide]

end

/-- Settles O10: the immediate and shift words are their shapes with the immediate of R75 and the result of the table; MOVI writes its joined immediate, or
takes ILLEGAL when a bit of p[22:16] is set. -/
theorem immediateWordsCompute : Obligations.ImmediateWordsCompute := by
  refine ⟨fun i d a pm k g s w f hop h => ?_, fun i d a k g s w f hop h => ?_, fun i o g s w f hop h => ?_, fun i o g s w f hop h => ?_, fun _ => rfl,
    fun s w f => ⟨fun o h hp => ?_, fun o h hp => ?_, fun o p h hw hp ho => execMovi_of_le h hw hp ho,
      fun o p h hw hp ho => execMoviGroup_of_le h hw hp ho⟩⟩
  · obtain ⟨r, rfl, hexec⟩ := exec_of_laneImmOp hop s
    rw [Answers, hexec]
    exact performed_setV h rfl _ _ _
  · obtain ⟨r, rfl, hexec⟩ := exec_of_groupImmOp hop s
    rw [Answers, hexec]
    exact performed_setS h rfl _ _
  · rw [Answers, exec_of_laneShiftOp hop, BitVec.ofNat_toNat]
    exact performed_setV h rfl _ _ _
  · rw [Answers, exec_of_groupShiftOp hop, BitVec.ofNat_toNat]
    exact performed_setS h rfl _ _
  · rw [Answers, exec_movi, execMovi_of_lt h hp]
    exact performed_setV h rfl _ _ _
  · rw [Answers, exec_moviGroup, execMoviGroup_of_lt h hp]
    exact performed_setS h rfl _ _

end Sys2Proof.Machine
/-! SUPPORT and PROOF. The shape of each floating-point word, lanes moved by a computed number, register numbers computed at issue, the neighbour index as a number, and O11 to O13 and O15 to O18. -/

namespace Sys2Proof.Machine

/-! ## Which shape each floating-point word has

The results are those of the model, so in each case the instruction's meaning is its shape by definition. -/

theorem exec_of_laneFloatOp {i : Instr} {o : RegHP} {g : FEnv → Word → Word → Word → Word × Word} (h : laneFloatOp i = some (o, g)) (s : State) :
    exec i s = laneHPF o s g := by
  unfold laneFloatOp at h
  split at h <;> cases h <;> rfl

theorem exec_of_laneFloatRegOp {i : Instr} {o : Reg3} {g : Bool → FEnv → Word → Word → Word → Word × Word} (h : laneFloatRegOp i = some (o, g)) (s : State) :
    exec i s = laneRegFF o s g := by
  unfold laneFloatRegOp at h
  split at h <;> cases h <;> rfl

theorem exec_of_groupFloatOp {i : Instr} {o : Reg3} {g : FEnv → Word → Word → Word → Word × Word} (h : groupFloatOp i = some (o, g)) (s : State) :
    exec i s = groupRegF o s g := by
  unfold groupFloatOp at h
  split at h <;> cases h <;> rfl

theorem exec_of_laneFloatFunOp {i : Instr} {o : FunHP} {g : FEnv → Word → Word → Word × Word} (h : laneFloatFunOp i = some (o, g)) (s : State) :
    exec i s = laneFunF o s g := by
  unfold laneFloatFunOp at h
  split at h <;> cases h <;> rfl

theorem exec_of_groupFloatFunOp {i : Instr} {o : Reg2} {g : FEnv → Word → Word → Word × Word} (h : groupFloatFunOp i = some (o, g)) (s : State) :
    exec i s = groupFunF o s g := by
  unfold groupFloatFunOp at h
  split at h <;> cases h <;> rfl

theorem exec_cvtBs8 (o : CvtBlkPM) (s : State) : exec (.cvtBs8 o) s = laneBlock 8 o s := rfl
theorem exec_cvtBs4 (o : CvtBlkPM) (s : State) : exec (.cvtBs4 o) s = laneBlock 4 o s := rfl

/-! ## A word that writes a register and flags -/

section
variable {s : State} {w : Swell} {f : Frag} {fm : Form} {regs : List Nat}

/-- A lane-scope write of one V register with flags ORed into SCFG (R114). -/
theorem performed_setV_orFlags (h : Ready s w f fm regs) (hb : fm.brk = false) (m : Swell → Frag → Word) (d : Reg) (x : Swell → Frag → Row)
    (fl : Swell → Frag → Word) :
    ∃ t, issueSwell fm regs s (fun w f => (w.setV (m w f) d (x w f)).orFlags (fl w f)) = .next t ∧
      Performed s t ((w.setV (m w f) d (x w f)).orFlags (fl w f)) (f.onward s.now) :=
  performed_of_ents h hb _ rfl rfl

/-- A group-scope write of one S register with flags ORed into SCFG (R115). -/
theorem performed_setS_orFlags (h : Ready s w f fm regs) (hb : fm.brk = false) (d : Reg) (x fl : Swell → Frag → Word) :
    ∃ t, issueSwell fm regs s (fun w f => (w.setS d (x w f)).orFlags (fl w f)) = .next t ∧
      Performed s t ((w.setS d (x w f)).orFlags (fl w f)) (f.onward s.now) :=
  performed_of_ents h hb _ (Swell.setS_uid ..) (Swell.setS_ents ..)

end

/-- Settles O11: each word is `laneHPF` or `laneRegFF` with its result, which is one masked write with flags. -/
theorem floatWordsCompute : Obligations.FloatWordsCompute := by
  refine ⟨fun i o g s w f hop h => ?_, fun i o g s w f hop h => ?_⟩
  · rw [Answers, exec_of_laneFloatOp hop]
    exact performed_setV_orFlags h rfl _ _ _ _
  · rw [Answers, exec_of_laneFloatRegOp hop]
    exact performed_setV_orFlags h rfl _ _ _ _

/-- Settles O12: each word is `groupRegF` or `groupFunF` with its result, which is one write of an S register with flags. -/
theorem groupFloatWordsCompute : Obligations.GroupFloatWordsCompute := by
  refine ⟨fun i o g s w f hop h => ?_, fun i o g s w f hop h => ?_⟩
  · rw [Answers, exec_of_groupFloatOp hop]
    exact performed_setS_orFlags h rfl _ _ _
  · rw [Answers, exec_of_groupFloatFunOp hop]
    exact performed_setS_orFlags h rfl _ _ _

/-- Settles O13: each word of one operand is `laneFunF` with its result, each block conversion is `laneBlock`, and both are one masked write with flags. -/
theorem oneOperandFloatWordsCompute : Obligations.OneOperandFloatWordsCompute := by
  refine ⟨fun i o g s w f hop h => ?_, fun wd i o s w f hop h => ?_⟩
  · rw [Answers, exec_of_laneFloatFunOp hop]
    exact performed_setV_orFlags h rfl _ _ _ _
  · have hexec : exec i s = laneBlock wd o s := by
      rcases hop with ⟨rfl, rfl⟩ | ⟨rfl, rfl⟩
      · exact exec_cvtBs8 o s
      · exact exec_cvtBs4 o s
    rw [Answers, hexec]
    exact performed_setV_orFlags h rfl _ _ _ _

/-! ## Lanes by number (R134, R135, R137) -/

theorem exec_shflIdx (o : Reg3) (s : State) : exec (.shflIdx o) s = execShflIdx o s := rfl
theorem exec_shflUp (o : ShflKeep) (s : State) : exec (.shflUp o) s = execShflUp o s := rfl
theorem exec_shflDn (o : ShflKeep) (s : State) : exec (.shflDn o) s = execShflDn o s := rfl
theorem exec_shflXor (o : ShflXor) (s : State) : exec (.shflXor o) s = execShflXor o s := rfl
theorem exec_bcast (o : Reg3) (s : State) : exec (.bcast o) s = execBcast o s := rfl
theorem exec_vext (o : Reg3) (s : State) : exec (.vext o) s = execVext o s := rfl
theorem exec_vins (o : Reg3) (s : State) : exec (.vins o) s = execVins o s := rfl
theorem exec_msk (o : Reg2) (s : State) : exec (.msk o) s = execMsk o s := rfl
theorem exec_unmsk (o : Reg2) (s : State) : exec (.unmsk o) s = execUnmsk o s := rfl

@[simp] theorem laneMod_val (l : Fin 32) : laneMod l.val = l := Fin.ext (Nat.mod_eq_of_lt l.isLt)

/-- A lane that is read by a number below 32. -/
theorem getElem!_eq_laneMod (x : Row) {k n : Nat} (h : k = n % 32) : x[k]! = x[laneMod n] := by
  subst h
  exact getElem!_pos x _ (Nat.mod_lt n (by decide))

/-- The numbers of the lanes, rising. -/
theorem map_val_finRange (n : Nat) : (List.finRange n).map Fin.val = List.range n :=
  List.ext_getElem (by rw [List.length_map, List.length_finRange, List.length_range]) fun i _ _ => by
    rw [List.getElem_map, List.getElem_finRange, List.getElem_range]
    rfl

/-- A sum of different powers of 2 over the lanes has a lane's bit when the lane's power is in the sum. -/
theorem testBit_sum_lanes (p : Fin 32 → Bool) (i : Fin 32) : ((List.finRange 32).map fun l => if p l then 2 ^ l.val else 0).sum.testBit i.val = p i := by
  have hrange : ((List.finRange 32).map fun l => if p l then 2 ^ l.val else 0) = (List.range 32).map fun k => if p (laneMod k) then 2 ^ k else 0 := by
    rw [← map_val_finRange, List.map_map]
    exact List.map_congr_left fun l _ => by simp
  rw [hrange, testBit_sum_bits fun k => p (laneMod k), laneMod_val, decide_eq_true i.isLt, Bool.true_and]

theorem getLsbD_foldl_or_twoPow (ls : List (Fin 32)) (m : Word) (i : Fin 32) :
    (ls.foldl (fun m l => m ||| BitVec.twoPow 32 l.val) m).getLsbD i.val = (m.getLsbD i.val || decide (i ∈ ls)) := by
  induction ls generalizing m with
  | nil => simp
  | cons l ls ih =>
    rw [List.foldl_cons, ih, BitVec.getLsbD_or, BitVec.getLsbD_twoPow, Bool.or_assoc]
    simp [Fin.ext_iff, eq_comm (a := l.val)]

/-- The mask of a list of lanes has the bits of these lanes. -/
theorem getLsbD_maskOf (ls : List (Fin 32)) (i : Fin 32) : (maskOf ls).getLsbD i.val = decide (i ∈ ls) := by
  rw [maskOf, getLsbD_foldl_or_twoPow]
  simp

theorem mem_lanesOf {m : Word} {l : Fin 32} : l ∈ lanesOf m ↔ m.getLsbD l.val = true := by simp [lanesOf]

/-- The mask of the lanes of m with a property, as the sum of their powers of 2 (R137). -/
theorem maskOf_filter_lanesOf (m : Word) (p : Fin 32 → Bool) :
    maskOf ((lanesOf m).filter p) = BitVec.ofNat 32 ((List.finRange 32).map fun l => if m.getLsbD l.val && p l then 2 ^ l.val else 0).sum := by
  refine BitVec.eq_of_getLsbD_eq fun i hi => ?_
  have hmask := getLsbD_maskOf ((lanesOf m).filter p) ⟨i, hi⟩
  have hsum := testBit_sum_lanes (fun l => m.getLsbD l.val && p l) ⟨i, hi⟩
  rw [BitVec.getLsbD_ofNat, decide_eq_true hi, Bool.true_and, hsum, hmask]
  simp [mem_lanesOf]

section
variable {s : State} {w : Swell} {f : Frag} {d a : Reg} {regs : List Nat}

/-- A ready shuffle is one masked write; `x` says which word each lane takes. -/
theorem performed_shuffle (h : Ready s w f { pmx := true, writes := [d] } regs) (src : Swell → Fin 32 → Option (Fin 32)) (x : Fin 32 → Word)
    (hx : ∀ l, x l = match src w l with | some t => (w.vreg a)[t] | none => (w.vreg d)[l]) :
    ∃ t, shuffle d regs a src s = .next t ∧ Performed s t (w.setV (lanesActive w f f.pmx) d (rowOf x)) (f.onward s.now) := by
  rw [funext hx]
  exact performed_setV h rfl _ _ _

end

/-- Settles O15: a shuffle takes each lane's word from its source lane, the other moves are one write, and the mask of MSK is the sum of the rule. -/
theorem laneMovesMoveLanes : Obligations.LaneMovesMoveLanes := by
  intro s w f act
  refine ⟨fun o h => ?_, fun o h => ?_, fun o h => ?_, fun o h => ?_, fun o h => ?_, fun o h => ?_, fun o h => ?_, fun o h => ?_, fun o h => ?_⟩
  · rw [Answers, exec_shflIdx]
    exact performed_shuffle h _ _ fun l => getElem!_eq_laneMod _ rfl
  · rw [Answers, exec_shflUp]
    refine performed_shuffle h _ _ fun l => ?_
    rcases Nat.lt_or_ge l.val o.c.toNat with hlt | hge
    · cases hk : o.keep
      · simpa [Nat.not_le.mpr hlt] using getElem!_eq_laneMod (w.vreg o.a) (k := l.val + 32 - o.c.toNat) (n := l.val + 32 - o.c.toNat) (by omega)
      · simp [hlt, Nat.not_le.mpr hlt]
    · simpa [hge, Nat.not_lt.mpr hge] using getElem!_eq_laneMod (w.vreg o.a) (k := l.val - o.c.toNat) (n := l.val + 32 - o.c.toNat) (by omega)
  · rw [Answers, exec_shflDn]
    refine performed_shuffle h _ _ fun l => ?_
    rcases Nat.lt_or_ge 31 (l.val + o.c.toNat) with hgt | hle
    · cases hk : o.keep
      · simpa [Nat.not_lt.mpr hgt] using getElem!_eq_laneMod (w.vreg o.a) (k := l.val + o.c.toNat - 32) (n := l.val + o.c.toNat) (by omega)
      · simp [hgt, Nat.not_lt.mpr hgt]
    · simpa [Nat.lt_succ_of_le hle, Nat.not_lt.mpr hle] using getElem!_eq_laneMod (w.vreg o.a) (k := l.val + o.c.toNat) (n := l.val + o.c.toNat) (by omega)
  · rw [Answers, exec_shflXor]
    exact performed_shuffle h _ _ fun l => getElem!_eq_laneMod _ (Nat.mod_eq_of_lt (Nat.xor_lt_two_pow (n := 5) l.isLt o.c.isLt)).symm
  · rw [Answers, exec_bcast, getElem!_eq_laneMod _ rfl]
    exact performed_setV h rfl _ _ _
  · rw [Answers, exec_vext, getElem!_eq_laneMod _ rfl]
    exact performed_setS h rfl _ _
  · rw [Answers, exec_vins]
    exact performed_setV h rfl _ _ _
  · rw [Answers, exec_msk, ← maskOf_filter_lanesOf]
    exact performed_setS h rfl _ _
  · rw [Answers, exec_unmsk]
    simp only [← boolWord_eq_truth Iff.rfl]
    exact performed_setV h rfl _ _ _

/-! ## Register numbers computed at issue (R137, R138) -/

theorem exec_vmovx (o : Reg3) (s : State) : exec (.vmovx o) s = execVmovx o s := rfl
theorem exec_vmovxw (o : Reg3) (s : State) : exec (.vmovxw o) s = execVmovxw o s := rfl

theorem regRange_cons_of_lt {n r : Nat} (rs : List Nat) (h : r < n) : regRange n (r :: rs) = regRange n rs := by
  rw [regRange, List.find?_cons_of_neg (by simpa using h), regRange]

theorem regRange_cons_of_le {n r : Nat} (rs : List Nat) (h : n ≤ r) : regRange n (r :: rs) = some r := by
  rw [regRange, List.find?_cons_of_pos (by simpa using h)]

section
variable {s : State} {w : Swell} {f : Frag} {o : Reg3}

/-- With the computed index below the count VMOVX is a masked write of the register that it names. -/
theorem execVmovx_of_lt (h : Ready s w f { pmx := true, writes := [o.d] } [o.d.toNat]) (hj : o.a.toNat + (w.sreg o.b).toNat < w.n) :
    execVmovx o s = issueSwell { pmx := true, writes := [o.d] } [o.d.toNat] s fun w f =>
      w.setV (lanesActive w f f.pmx) o.d (w.vreg (BitVec.ofNat 7 (o.a.toNat + (w.sreg o.b).toNat))) := by
  rw [execVmovx, issueSwell, issue_ready h, issue_ready h]
  simp only [if_neg (Nat.not_le.mpr hj)]

theorem execVmovx_of_le (h : Ready s w f { pmx := true, writes := [o.d] } [o.d.toNat]) (hj : w.n ≤ o.a.toNat + (w.sreg o.b).toNat) (ho : f.outst = []) :
    execVmovx o s = .next (s.takeFault s.cur (plainFault .regrange (BitVec.ofNat 64 (o.a.toNat + (w.sreg o.b).toNat)))) := by
  rw [execVmovx, issue_ready h]
  simp only [if_pos hj, settle_fault h.toRuns ho]

/-- With the computed index below the count VMOVXW is performed: a masked write of the register that it names, whose held values are dropped (R69). -/
theorem execVmovxw_of_lt (h : Ready s w f { pmx := true } [o.a.toNat]) (hj : o.d.toNat + (w.sreg o.b).toNat < w.n) :
    execVmovxw o s = .next (((s.updSwell s.cur.swell fun _ =>
      w.setV (lanesActive w f f.pmx) (BitVec.ofNat 7 (o.d.toNat + (w.sreg o.b).toNat)) (w.vreg o.a)).dropHeld s.cur.key [o.d.toNat + (w.sreg o.b).toNat]).endUnit
        s.cur { pmx := true } (nextPc f.pc)) := by
  have h0 : Ready s w f { pmx := true } [] := ⟨h.toRuns, h.hints, fun _ hr => absurd hr List.not_mem_nil⟩
  rw [execVmovxw, issue_ready h0]
  simp only [regRange_cons_of_lt _ hj, h.regRange_eq_none, Done.settle]

theorem execVmovxw_of_le (h : Ready s w f { pmx := true } []) (hj : w.n ≤ o.d.toNat + (w.sreg o.b).toNat) (ho : f.outst = []) :
    execVmovxw o s = .next (s.takeFault s.cur (plainFault .regrange (BitVec.ofNat 64 (o.d.toNat + (w.sreg o.b).toNat)))) := by
  rw [execVmovxw, issue_ready h]
  simp only [regRange_cons_of_le _ hj, settle_fault h.toRuns ho]

/-- Dropping held values reaches the operand latch of the fragment's core and nothing else. -/
theorem dropHeld_sameOutside (s : State) (id : FragId) (rs : List Nat) : SameOutside s (s.dropHeld id.key rs) id where
  mem _ := by simp [State.dropHeld]
  scratch c _ := by
    simp only [State.dropHeld, State.core_updCore]
    split <;> rfl
  cores c := by
    simp only [State.dropHeld, State.core_updCore]
    split <;> rfl
  swells _ _ := rfl
  rest := rfl

/-- A body that replaces the swell, leaves the split table alone and drops held values, its unit ended. -/
theorem performed_dropHeld {fm : Form} (h : Runs s w f) (hb : fm.brk = false) (w' : Swell) (hu : w'.uid = w.uid) (he : w'.ents = w.ents) (rs : List Nat) :
    Performed s (((s.updSwell s.cur.swell fun _ => w').dropHeld s.cur.key rs).endUnit s.cur fm (nextPc f.pc)) w' (f.onward s.now) where
  outside := ((sameOutside_updSwell s s.cur _).trans (dropHeld_sameOutside _ s.cur rs)).trans (endUnit_sameOutside _ s.cur fm _)
  swell := by
    have hent : w'.ent s.cur.ent = f := by rw [Swell.ent, he]; exact h.swellAt.2
    have hw := State.swellAt_updSwell s s.cur.swell (fun _ => w') w h.swellAt.1 (hu.trans h.uid)
    have hend := endUnit_swell (s := (s.updSwell s.cur.swell fun _ => w').dropHeld s.cur.key rs) (fm := fm) (pc := nextPc f.pc) hw hb
    rw [hent] at hend
    simpa [State.dropHeld, Frag.onward] using hend

end

/-- Settles O16: below the count each word is a masked write of or from the register that the index names; at or above it the index is what FVAL names. -/
theorem computedRegisterIndexIsChecked : Obligations.ComputedRegisterIndexIsChecked := by
  intro o s w f _
  refine ⟨fun hj h => ?_, fun hj h => ?_, fun hj h ho => execVmovx_of_le h hj ho, fun hj h ho => execVmovxw_of_le h hj ho⟩
  · rw [Answers, exec_vmovx, execVmovx_of_lt h hj]
    exact performed_setV h rfl _ _ _
  · refine ⟨_, execVmovxw_of_lt h hj, ?_⟩
    refine performed_dropHeld h.toRuns ?_ _ ?_ ?_ _ <;> rfl

/-! ## Neighbour indices (R141, R143, R144) -/

theorem exec_nbrget (o : NbrGetOp) (s : State) : exec (.nbrget o) s = execNbrget o s := rfl
theorem exec_nbrset (o : NbrSetOp) (s : State) : exec (.nbrset o) s = execNbrset o s := rfl

/-- The low 16 bits of a word with bit 14 cleared, as a number (R144). -/
theorem setWidth_and_clear_bit14 (x : Word) :
    x.setWidth 16 &&& 0xBFFF = BitVec.ofNat 16 (x.toNat % 2 ^ 14 + x.toNat / 2 ^ 15 % 2 * 2 ^ 15) := by
  have hreplace := congrArg (BitVec.setWidth 16) (ofNat_replace x (p := 14) (w := 1) (f := 0) (by decide))
  rw [BitVec.setWidth_or, BitVec.setWidth_and] at hreplace
  calc x.setWidth 16 &&& 0xBFFF
      = (BitVec.ofNat 32 (x.toNat - x.toNat / 2 ^ 14 % 2 ^ 1 * 2 ^ 14 + 0 * 2 ^ 14)).setWidth 16 := by rw [hreplace]; exact (BitVec.or_zero).symm
    _ = _ := by
      apply BitVec.eq_of_toNat_eq
      rw [BitVec.toNat_setWidth, BitVec.toNat_ofNat, BitVec.toNat_ofNat]
      omega

/-- Bit 15, DS, cleared (R142). -/
theorem and_clear_ds (x : BitVec 16) : x &&& 0x7FFF = BitVec.ofNat 16 (x.toNat % 2 ^ 15) := by
  apply BitVec.eq_of_toNat_eq
  have hlt : x.toNat % 2 ^ 15 < 2 ^ 16 := by omega
  rw [BitVec.toNat_and, BitVec.toNat_ofNat, Nat.mod_eq_of_lt hlt]
  exact Nat.and_two_pow_sub_one_eq_mod x.toNat 15

/-- A ready word that replaces neighbour indices and leaves the split table alone; `x` says what each lane's index becomes. -/
theorem performed_nbr {s : State} {w : Swell} {f : Frag} {fm : Form} {regs : List Nat} (h : Ready s w f fm regs) (hb : fm.brk = false)
    (body : Swell → Frag → Swell) (hu : (body w f).uid = w.uid) (he : (body w f).ents = w.ents) (v : Swell) (nbr : Vector (BitVec 16) 32)
    (hbody : body w f = { v with nbr := nbr }) (x : Fin 32 → BitVec 16) (hx : ∀ l : Fin 32, nbr[l] = x l) :
    ∃ t, issueSwell fm regs s body = .next t ∧
      ∃ nbr : Vector (BitVec 16) 32, Performed s t { v with nbr := nbr } (f.onward s.now) ∧ ∀ l : Fin 32, nbr[l] = x l := by
  obtain ⟨t, ht, hp⟩ := performed_of_ents h hb body hu he
  exact ⟨t, ht, nbr, hbody ▸ hp, hx⟩

/-- Settles O17: NBRGET is one masked write, and NBRSET replaces the neighbour indices of the active lanes alone. -/
theorem neighbourIndexIsReadAndWritten : Obligations.NeighbourIndexIsReadAndWritten := by
  intro s w f
  refine ⟨fun o h => ?_, fun o h => ?_⟩
  · simp only [BitVec.ofNat_toNat]
    rw [Answers, exec_nbrget]
    exact performed_setV h rfl _ _ _
  · rw [Answers, exec_nbrset]
    refine performed_nbr h rfl _ rfl rfl w _ rfl _ fun l => ?_
    rw [Fin.getElem_fin, Vector.getElem_ofFn, setWidth_and_clear_bit14]

/-! ## Derivatives (R143) -/

theorem exec_derivative {i : Instr} {o : FunHP} {pair : Vector (BitVec 16) 32 → Word → Fin 32 → Option (Fin 32 × Fin 32)}
    (h : (i = .ddx o ∧ pair = quadDx) ∨ (i = .ddy o ∧ pair = quadDy) ∨ (i = .ddxc o ∧ pair = quadDxc) ∨ (i = .ddyc o ∧ pair = quadDyc)) (s : State) :
    exec i s = derivative pair o s := by
  rcases h with ⟨rfl, rfl⟩ | ⟨rfl, rfl⟩ | ⟨rfl, rfl⟩ | ⟨rfl, rfl⟩ <;> rfl

/-- Settles O18: a derivative is one masked write with flags that also replaces the neighbour indices of the active lanes without a pair. -/
theorem derivativesSubtractAcrossThePair : Obligations.DerivativesSubtractAcrossThePair := by
  intro i o pair s w f hi h act r
  rw [Answers, exec_derivative hi]
  refine performed_nbr h rfl _ rfl rfl _ _ rfl _ fun l => ?_
  rw [Fin.getElem_fin, Vector.getElem_ofFn, and_clear_ds]
  simp [act]

end Sys2Proof.Machine

/-! SUPPORT and PROOF. Addresses in a window as numbers, words whose body is a jump or a fault, the entry to the handler, and O19, O23 to O25 and O28 to O32. -/

namespace Sys2Proof.Machine

/-! ## Addresses within a window (R148) -/

/-- A PC joined from its window and 32 bits, as a number. -/
theorem windowJoin_ofInt (pc : Pc) (x : Int) : windowJoin pc (BitVec.ofInt 32 x) = Spec.inWindow pc x := by
  have hx : (BitVec.ofInt 32 x).toNat = (x % 2 ^ 32).toNat := BitVec.toNat_ofInt ..
  have hw : (pc.extractLsb' 32 24).toNat = pc.toNat / 2 ^ 32 := by
    rw [BitVec.extractLsb'_toNat, Nat.shiftRight_eq_div_pow]
    omega
  rw [windowJoin, append_eq_ofNat, hx, hw, Spec.inWindow]

theorem windowJoin_toNat (pc : Pc) (x : Word) : windowJoin pc x = Spec.inWindow pc x.toNat := by
  rw [← windowJoin_ofInt, BitVec.ofInt_natCast, ofNat_toNat_self]

theorem setWidth_add_ofNat (pc : Pc) (n : Nat) : pc.setWidth 32 + BitVec.ofNat 32 n = BitVec.ofNat 32 (pc.toNat + n) := by
  rw [← BitVec.ofNat_toNat, BitVec.ofNat_add]

theorem nextPc_eq (pc : Pc) : nextPc pc = Spec.inWindow pc (pc.toNat + 4) :=
  calc nextPc pc = windowJoin pc (BitVec.ofInt 32 (pc.toNat + 4 : Nat)) := by
        rw [BitVec.ofInt_natCast, ← setWidth_add_ofNat]; rfl
    _ = _ := windowJoin_ofInt ..

/-- The target of a branch word by R75 and R148. -/
theorem branchTarget_eq (f : Frag) (off : BitVec 18) (wide : Option (BitVec 23)) : branchTarget f off wide = Spec.target f.pc off wide := by
  have hpc : f.pc.setWidth 32 = BitVec.ofInt 32 f.pc.toNat := by rw [BitVec.ofInt_natCast, BitVec.ofNat_toNat]
  cases wide with
  | none =>
    have hoff : branchOffset off none = BitVec.ofInt 32 (4 * off.toInt) := by
      rw [branchOffset, BitVec.signExtend, Int.mul_comm, BitVec.ofInt_mul]
      rfl
    rw [branchTarget, hoff, hpc, ← BitVec.ofInt_add, windowJoin_ofInt, Spec.target]
  | some p =>
    have hoff : branchOffset off (some p) = BitVec.ofInt 32 (4 * (p.toNat * 2 ^ 18 + off.toNat : Nat)) := by
      rw [branchOffset, ← BitVec.ofNat_toNat, toNat_append_eq, Int.mul_comm, BitVec.ofInt_mul, BitVec.ofInt_natCast]
      rfl
    rw [branchTarget, hoff, hpc, ← BitVec.ofInt_add, windowJoin_ofInt, Spec.target]

theorem onward_eq (f : Frag) (now : Nat) : f.onward now = f.afterUnit now (Spec.inWindow f.pc (f.pc.toNat + 4)) := by
  rw [Frag.onward, nextPc_eq]

/-- The low two bits of a word as a number. -/
theorem extractLsb'_two_eq_zero_iff {n : Nat} (x : BitVec n) : x.extractLsb' 0 2 = 0 ↔ x.toNat % 4 = 0 := by
  rw [← BitVec.toNat_inj, BitVec.extractLsb'_toNat]
  simp

/-! ## Performed and faulting words -/

/-- An update of a resident swell is the update by its value. -/
theorem updSwell_eq_const {s : State} {sw : SwellId} {w : Swell} (h : s.swellAt sw = some w) (g : Swell → Swell) :
    s.updSwell sw g = s.updSwell sw fun _ => g w := by
  rw [State.updSwell, State.updSwell, h]

section
variable {s : State} {w : Swell} {f : Frag} {fm : Form} {regs : List Nat}

theorem performed_endUnit (h : Runs s w f) (hb : fm.brk = false) (pc : Pc) : Performed s (s.endUnit s.cur fm pc) w (f.afterUnit s.now pc) where
  outside := endUnit_sameOutside s s.cur fm pc
  swell := by rw [endUnit_swell h.swellAt.1 hb, h.swellAt.2]

/-- A change of the swell that leaves the split table alone, its unit ended. -/
theorem performed_updSwell (h : Runs s w f) (hb : fm.brk = false) (g : Swell → Swell) (hu : (g w).uid = w.uid) (he : (g w).ents = w.ents) (pc : Pc) :
    Performed s ((s.updSwell s.cur.swell g).endUnit s.cur fm pc) (g w) (f.afterUnit s.now pc) := by
  have hent : (g w).ent s.cur.ent = f := by rw [Swell.ent, he]; exact h.swellAt.2
  rw [updSwell_eq_const h.swellAt.1, ← hent]
  exact performed_settle h hb (g w) hu pc

theorem issue_eq_of_fault (h : Ready s w f fm regs) (ho : f.outst = []) {body : Swell → Frag → Done} {r : FaultRec} (hbody : body w f = .fault s r) :
    issue fm regs s body = .next (s.takeFault s.cur r) := by
  rw [issue_ready h, hbody, settle_fault h.toRuns ho]

end

/-! ## Branches (R148) -/

theorem exec_bra (off : BitVec 18) (s : State) : exec (.bra off) s = execBra off s := rfl
theorem exec_brz (o : BranchOp) (s : State) : exec (.brz o) s = execBrz o s := rfl
theorem exec_brnz (o : BranchOp) (s : State) : exec (.brnz o) s = execBrnz o s := rfl
theorem exec_call (o : BranchOp) (s : State) : exec (.call o) s = execCall o s := rfl
theorem exec_jmpx (r : Reg) (s : State) : exec (.jmpx r) s = execJmpx r s := rfl

/-- A word of a branch form that leaves the swell alone and goes to a PC. -/
theorem performed_branch {s : State} {w : Swell} {f : Frag} {fm : Form} (h : Ready s w f fm []) (hb : fm.brk = false) {body : Swell → Frag → Done} {pc : Pc}
    (hbody : body w f = .jump s pc ∨ (body w f = .next s ∧ pc = Spec.inWindow f.pc (f.pc.toNat + 4))) :
    ∃ t, issue fm [] s body = .next t ∧ Performed s t w (f.afterUnit s.now pc) := by
  refine ⟨_, issue_ready h body, ?_⟩
  rcases hbody with hj | ⟨hn, rfl⟩
  · rw [hj]
    exact performed_endUnit h.toRuns hb pc
  · rw [hn, ← nextPc_eq]
    exact performed_endUnit h.toRuns hb _

/-- Settles O19: a taken branch ends its unit at the target, which is the sum modulo the window, and one not taken at the next word. -/
theorem branchesGoWhereTheRuleSays : Obligations.BranchesGoWhereTheRuleSays := by
  intro s w f
  refine ⟨fun off h => ?_, fun o h => ⟨?_, ?_, ?_⟩, fun r h h4 => ?_, fun r h h4 ho => ?_, onward_eq f s.now⟩
  · rw [Answers, exec_bra, ← branchTarget_eq]
    exact performed_branch h rfl (.inl rfl)
  · rw [Answers, exec_brz, ← branchTarget_eq]
    by_cases hc : w.sreg o.c = 0
    · exact performed_branch h rfl (.inl (by simp only [hc, if_true]))
    · exact performed_branch h rfl (.inr (by simp only [hc, if_false, and_self]))
  · rw [Answers, exec_brnz, ← branchTarget_eq]
    by_cases hc : w.sreg o.c = 0
    · exact performed_branch h rfl (.inr (by simp only [hc, ne_eq, not_true_eq_false, if_false, if_true, and_self]))
    · exact performed_branch h rfl (.inl (by simp only [hc, ne_eq, not_false_eq_true, if_false, if_true]))
  · rw [Answers, exec_call, ← branchTarget_eq, ← setWidth_add_ofNat]
    exact ⟨_, issue_ready h _, performed_updSwell h.toRuns rfl _ (Swell.setS_uid ..) (Swell.setS_ents ..) _⟩
  · rw [Answers, exec_jmpx, ← windowJoin_toNat]
    have h2 := (extractLsb'_two_eq_zero_iff _).mpr h4
    exact performed_branch h rfl (.inl (by simp only [h2, ne_eq, not_true_eq_false, if_false]))
  · have h2 := mt (extractLsb'_two_eq_zero_iff _).mp h4
    rw [exec_jmpx, ← windowJoin_toNat, BitVec.ofNat_toNat]
    exact issue_eq_of_fault h ho (by simp only [ne_eq, h2, not_false_eq_true, if_true])

/-! ## Format, configuration and priority (R157) -/

theorem exec_setf (r : Reg) (s : State) : exec (.setf r) s = execSetf r s := rfl
theorem exec_getf (r : Reg) (s : State) : exec (.getf r) s = execGetf r s := rfl
theorem exec_setc (r : Reg) (s : State) : exec (.setc r) s = execSetc r s := rfl
theorem exec_getc (r : Reg) (s : State) : exec (.getc r) s = execGetc r s := rfl
theorem exec_setpri (r : Reg) (s : State) : exec (.setpri r) s = execSetpri r s := rfl

theorem setWidth_eq_ofNat_mod {n : Nat} (x : BitVec n) (m : Nat) : x.setWidth m = BitVec.ofNat m (x.toNat % 2 ^ m) := by
  rw [← BitVec.toNat_setWidth, ofNat_toNat_self]

theorem setWidth_setWidth_eq_ofNat {n : Nat} (x : BitVec n) (m k : Nat) : (x.setWidth m).setWidth k = BitVec.ofNat k (x.toNat % 2 ^ m) := by
  rw [← BitVec.toNat_setWidth, BitVec.ofNat_toNat]

theorem Swell.setEnt_setEnt (w : Swell) (e : Nat) (f g : Frag) : (w.setEnt e f).setEnt e g = w.setEnt e g := by
  have hents : (w.ents.setIfInBounds e f).setIfInBounds e g = w.ents.setIfInBounds e g := Vector.setIfInBounds_setIfInBounds ..
  rw [Swell.setEnt, Swell.setEnt, Swell.setEnt, hents]

theorem Swell.ent_setEnt_same (w : Swell) {e : Nat} (he : e < 8) (f : Frag) : (w.setEnt e f).ent e = f := by
  rw [Swell.ent_setEnt, if_pos ⟨rfl, he⟩]

theorem Swell.ent_setEnt_other (w : Swell) {e i : Nat} (hi : i ≠ e) (f : Frag) : (w.setEnt e f).ent i = w.ent i := by
  rw [Swell.ent_setEnt, if_neg fun h => hi h.1]

section
variable {s : State} {w : Swell} {f : Frag} {fm : Form} {regs : List Nat}

/-- A word that changes its own fragment's entry and leaves its PC alone. -/
theorem performed_setEnt (h : Ready s w f fm regs) (hb : fm.brk = false) (g : Swell → Frag → Frag) (hpc : (g w f).pc = f.pc) :
    ∃ t, issueSwell fm regs s (fun w f => w.setEnt s.cur.ent (g w f)) = .next t ∧ Performed s t w ((g w f).onward s.now) := by
  have hent := w.ent_setEnt_same h.ent_lt (g w f)
  obtain ⟨t, ht, houtside, hswell⟩ := performed_issueSwell h hb (fun w f => w.setEnt s.cur.ent (g w f)) rfl (by rw [hent, hpc])
  rw [hent, Swell.setEnt_setEnt] at hswell
  exact ⟨t, ht, houtside, hswell⟩

end

/-- Settles O23: SETF changes the entry, the others a register or a field of the swell, all with the bits of the rule. -/
theorem formatAndConfigurationWords : Obligations.FormatAndConfigurationWords := by
  intro r s w f h
  refine ⟨?_, ?_, ?_, ?_, ?_⟩
  · rw [Answers, exec_setf, ← setWidth_eq_ofNat_mod]
    exact performed_setEnt h rfl (fun w f => { f with fmt := (w.sreg r).setWidth 12 }) rfl
  · rw [Answers, exec_getf, BitVec.ofNat_toNat]
    exact performed_setS h rfl _ _
  · rw [Answers, exec_setc, ← setWidth_setWidth_eq_ofNat]
    exact performed_of_ents h rfl _ rfl rfl
  · rw [Answers, exec_getc, ← setWidth_setWidth_eq_ofNat]
    exact performed_setS h rfl _ _
  · rw [Answers, exec_setpri, ← setWidth_setWidth_eq_ofNat]
    exact performed_of_ents h rfl _ rfl rfl

/-! ## Regions and continuations (R47, R53, R159) -/

theorem exec_nop (s : State) : exec .nop s = execNop s := rfl
theorem exec_yield (s : State) : exec .yield s = execYield s := rfl
theorem exec_cont (r : Reg) (s : State) : exec (.cont r) s = execCont r s := rfl
theorem exec_region (s : State) : exec .region s = execRegion s := rfl
theorem exec_resume (r : Reg) (s : State) : exec (.resume r) s = execResume r s := rfl

/-- The entry of a fragment at the first word of a region with a number (R47, R52). -/
def Frag.inRegion (g : Frag) (n : Word) : Frag :=
  { g with rep := g.pc, region := n, breakDue := true, denied := g.denied.filter fun x => x.inCont != g.inCont || x.super != (g.priv != 0) || x.rep == g.pc }

theorem Swell.newRegion_setEnt (w : Swell) {e : Nat} (he : e < 8) (g : Frag) :
    (w.setEnt e g).newRegion e = { w with region := w.region + 1 }.setEnt e (g.inRegion (w.region + 1)) := by
  have hdenied : (fun x : Denial => !x.here g || x.rep == g.pc) = fun x => x.inCont != g.inCont || x.super != (g.priv != 0) || x.rep == g.pc := by
    funext x
    rw [Denial.here, Bool.not_and]
    rfl
  unfold Swell.newRegion
  simp only [Swell.ent_setEnt_same w he, hdenied]
  exact Swell.setEnt_setEnt { w with region := w.region + 1 } e g _

/-- Ending a unit behind which a region begins, with nothing awaited. -/
theorem endUnit_swell_brk {s : State} {id : FragId} {fm : Form} {pc : Pc} {w : Swell} (h : s.swellAt id.swell = some w) (hb : fm.brk = true) (he : id.ent < 8)
    (ho : (w.ent id.ent).outst = []) :
    (s.endUnit id fm pc).swellAt id.swell =
      some ({ w with region := w.region + 1 }.setEnt id.ent (((w.ent id.ent).afterUnit s.now pc).inRegion (w.region + 1))) := by
  have hu := (State.uid_of_swellAt s id.swell w h).1
  have hawaits : ((w.ent id.ent).afterUnit s.now pc).awaits = false := by simp [Frag.awaits, Frag.afterUnit, ho]
  rw [← Swell.newRegion_setEnt w he]
  simp only [State.endUnit, hb, if_true]
  rw [updSwell_eq_const h]
  simp only [hawaits, Bool.false_eq_true, if_false]
  exact State.swellAt_updSwell s id.swell (fun _ => _) w h hu

section
variable {s : State} {w : Swell} {f : Frag} {fm : Form}

/-- A change of the swell behind which a region begins, its unit ended; `v` is the swell but for the fragment's entry `g`. -/
theorem performed_updSwell_brk (h : Runs s w f) (hb : fm.brk = true) (u : Swell → Swell) (v : Swell) (g : Frag) (hu : u w = v.setEnt s.cur.ent g)
    (huid : v.uid = w.uid) (ho : g.outst = []) (pc : Pc) :
    Performed s ((s.updSwell s.cur.swell u).endUnit s.cur fm pc) { v with region := v.region + 1 } ((g.afterUnit s.now pc).inRegion (v.region + 1)) := by
  have hent : (u w).ent s.cur.ent = g := by rw [hu, Swell.ent_setEnt_same v h.ent_lt]
  have hw := State.swellAt_updSwell s s.cur.swell u w h.swellAt.1 (by rw [hu, Swell.setEnt_uid, huid]; exact h.uid)
  have hswell := endUnit_swell_brk (pc := pc) hw hb h.ent_lt (by rw [hent, ho])
  rw [hent, hu, State.updSwell_now] at hswell
  exact ⟨(sameOutside_updSwell s s.cur _).trans (endUnit_sameOutside _ s.cur fm pc),
    hswell.trans (congrArg some (Swell.setEnt_setEnt { v with region := v.region + 1 } s.cur.ent g _))⟩

end

/-! ## Words aligned to four bytes -/

/-- The two lowest bits cleared. -/
theorem and_not_three {n : Nat} (x : BitVec n) : x &&& ~~~3#n = BitVec.ofNat n (x.toNat / 4 * 4) := by
  have hdiv : x.toNat / 4 = (x >>> 2).toNat := by rw [BitVec.toNat_ushiftRight, Nat.shiftRight_eq_div_pow]
  rw [hdiv, show 4 = 2 ^ 2 from rfl, ofNat_mul_two_pow]
  apply BitVec.eq_of_getLsbD_eq
  intro i hi
  have h3 : (3#n)[i] = decide (i < 2) := by
    rw [← BitVec.getLsbD_eq_getElem, BitVec.getLsbD_ofNat, decide_eq_true hi, Bool.true_and]
    exact Nat.testBit_two_pow_sub_one 2 i
  by_cases h2 : i < 2
  · simp [hi, h3, h2]
  · simp [hi, h3, h2, Nat.add_sub_cancel' (Nat.le_of_not_lt h2)]

theorem contWord_eq (x : Word) : contWord x = BitVec.ofNat 32 (x.toNat / 4 * 4) := and_not_three x

theorem fvecPc_eq (v : Addr) : fvecPc v = BitVec.ofNat 56 (v.toNat / 4 * 4) := by
  rw [fvecPc, and_not_three, BitVec.toNat_setWidth]
  apply BitVec.eq_of_toNat_eq
  rw [BitVec.toNat_ofNat, BitVec.toNat_ofNat]
  omega

theorem Swell.setEnt_ent (w : Swell) (e : Nat) : w.setEnt e (w.ent e) = w := by
  have hents : w.ents.setIfInBounds e (w.ent e) = w.ents := by
    rw [Swell.ent]
    apply Vector.ext
    intro i hi
    rw [Vector.getElem_setIfInBounds]
    split
    · next hei => subst hei; simp [hi]
    · rfl
  rw [Swell.setEnt, hents]

theorem Runs.eq_setEnt {s : State} {w : Swell} {f : Frag} (h : Runs s w f) : w = w.setEnt s.cur.ent f := by rw [← h.swellAt.2, Swell.setEnt_ent]

/-- RESUME at user privilege to an aligned word leaves the continuation and goes to the word in the launch's window. -/
theorem execResume_of_aligned {r : Reg} {s : State} {w : Swell} {f : Frag} (h : Ready s w f { brk := true } []) (hp : f.priv = 0)
    (h4 : (w.sreg r).toNat % 4 = 0) :
    execResume r s = .next ((s.updSwell s.cur.swell fun w => { w with contMark := false }.setEnt s.cur.ent (w.ent s.cur.ent).leaveCont).endUnit s.cur
      { brk := true } (w.window ++ w.sreg r)) := by
  rw [execResume, issue_ready h]
  simp only [hp, (extractLsb'_two_eq_zero_iff _).mpr h4, ne_eq, not_true_eq_false, if_false, Done.settle]

/-- Settles O24: NOP, YIELD and CONT are single updates; behind REGION and RESUME a region of the next number begins. -/
theorem nopYieldContRegionResume : Obligations.NopYieldContRegionResume := by
  intro r s w f h ho
  have hbrk : Ready s w f { brk := true } [] := ⟨h.toRuns, h.hints, h.range⟩
  refine ⟨?_, ?_, ?_, ?_, fun hp h4 => ?_, fun hp h4 => ?_⟩
  · rw [Answers, exec_nop]
    exact performed_of_ents h rfl _ rfl rfl
  · obtain ⟨t, ht, hperf⟩ := performed_setEnt h rfl (fun _ f => { f with readyAt := s.now }) rfl
    have hready : ({ f with readyAt := s.now } : Frag).onward s.now = { f.onward s.now with readyAt := s.now } :=
      congrArg (fun n => { f.onward s.now with readyAt := n }) (ite_self s.now)
    rw [Answers, exec_yield]
    exact ⟨t, ht, hready ▸ hperf⟩
  · rw [Answers, exec_cont, ← contWord_eq]
    exact performed_of_ents h rfl _ rfl rfl
  · rw [Answers, exec_region]
    exact ⟨_, issue_ready hbrk _, performed_updSwell_brk h.toRuns rfl _ w f h.eq_setEnt rfl ho _⟩
  · have hpc : w.window ++ w.sreg r = BitVec.ofNat 56 (w.window.toNat * 2 ^ 32 + (w.sreg r).toNat) := append_eq_ofNat ..
    have hleave : { w with contMark := false }.setEnt s.cur.ent (w.ent s.cur.ent).leaveCont = { w with contMark := false }.setEnt s.cur.ent f.leaveCont := by
      rw [h.swellAt.2]
    rw [Answers, exec_resume, execResume_of_aligned hbrk hp h4, ← hpc]
    exact ⟨_, rfl, performed_updSwell_brk h.toRuns rfl _ { w with contMark := false } f.leaveCont hleave rfl ho _⟩
  · have h2 := mt (extractLsb'_two_eq_zero_iff _).mp h4
    rw [exec_resume, ← toNat_append_eq, BitVec.ofNat_toNat]
    exact issue_eq_of_fault hbrk ho (by simp only [hp, h2, ne_eq, not_true_eq_false, not_false_eq_true, if_false, if_true])

/-! ## Entry to the handler (R55 to R58) -/

/-- The entry of a fragment that has entered the handler at an address. -/
def Frag.handling (f : Frag) (vec : Pc) (now : Nat) : Frag :=
  { f with priv := 1, st := 5, pc := vec, rep := vec, hints := ⟨none, []⟩, wkind := 0, waddr := 0, wval := 0, wait := none, age := 0,
           walkWait := [], walkFail := [], lastMma := none, readyAt := now }

/-- A swell whose fragment in entry e has entered the handler. -/
def Swell.handling (w : Swell) (e : Nat) (vec : Pc) (now : Nat) (cause : Word) (fval : Addr) : Swell :=
  { w with fcause := cause, fpc := (w.ent e).unitPc.setWidth 64, fval := fval, frec := (w.ent e).region, busy := true,
           busyEnt := BitVec.ofNat 3 e }.setEnt e ((w.ent e).handling vec now)

theorem enterHandler_eq (s : State) (id : FragId) (cause : Word) (fval : Addr) :
    s.enterHandler id cause fval = s.updSwell id.swell fun w => w.handling id.ent (fvecPc ((s.ctx w.ctx).fvecNow s.now)) s.now cause fval := rfl

theorem Swell.ent_handling_same (w : Swell) {e : Nat} (he : e < 8) (vec : Pc) (now : Nat) (cause : Word) (fval : Addr) :
    (w.handling e vec now cause fval).ent e = (w.ent e).handling vec now := Swell.ent_setEnt_same _ he _

theorem Swell.ent_handling_other (w : Swell) {e i : Nat} (hi : i ≠ e) (vec : Pc) (now : Nat) (cause : Word) (fval : Addr) :
    (w.handling e vec now cause fval).ent i = w.ent i := Swell.ent_setEnt_other _ hi _

/-- The fragment that runs enters the handler. -/
theorem handlerEntered_enterHandler {s : State} {w : Swell} {f : Frag} (h : Runs s w f) (cause : Nat) (fval : Addr) :
    HandlerEntered s (s.enterHandler s.cur (BitVec.ofNat 32 cause) fval) w f cause fval.toNat where
  outside := sameOutside_updSwell s s.cur _
  swell := by
    have hw := State.swellAt_updSwell s s.cur.swell (fun w => w.handling s.cur.ent (fvecPc ((s.ctx w.ctx).fvecNow s.now)) s.now (BitVec.ofNat 32 cause) fval) w
      h.swellAt.1 h.uid
    rw [enterHandler_eq]
    refine ⟨_, hw, ?_⟩
    rw [Swell.ent_handling_same w h.ent_lt, h.swellAt.2, ← fvecPc_eq, ofNat_toNat_self, BitVec.ofNat_toNat]
    have hfpc : f.unitPc = f.hints.first.getD f.pc := rfl
    rw [← hfpc, ← h.swellAt.2]
    exact ⟨rfl, rfl, rfl, rfl, rfl, rfl, rfl, rfl, rfl, rfl, rfl, rfl, rfl, rfl, rfl, rfl, rfl, fun e he => Swell.ent_handling_other w he .., rfl⟩

/-- A precise fault while no handler runs (R58), with the fields of FCAUSE (R57). -/
theorem handlerEntered_takeFault {s : State} {w : Swell} {f : Frag} {r : FaultRec} (h : Runs s w f) (hr : r.code ≠ .xlate) (hl : r.lane < 32)
    (hb : w.busy = false) :
    HandlerEntered s (s.takeFault s.cur r) w f
      (r.code.num + 2 ^ 8 * r.lane + 2 ^ 13 * (s.cur.ent % 8) + 2 ^ 16 * ((if r.write then 1 else 0) + (if r.fetch then 2 else 0))) r.fval.toNat := by
  have htake : s.takeFault s.cur r = s.takePrecise s.cur r := by
    unfold State.takeFault
    split
    · contradiction
    · rfl
  have hcause : fcauseWord false false r.detail s.cur.ent r.lane r.code.num = BitVec.ofNat 32
      (r.code.num + 2 ^ 8 * r.lane + 2 ^ 13 * (s.cur.ent % 8) + 2 ^ 16 * ((if r.write then 1 else 0) + (if r.fetch then 2 else 0))) := by
    have hd : r.detail < 256 := by unfold FaultRec.detail; split <;> split <;> decide
    rw [← FaultRec.detail, fcauseWord, Nat.mod_eq_of_lt hl, Nat.mod_eq_of_lt hd]
    congr 1
    simp only [Bool.false_eq_true, if_false]
    omega
  rw [htake, State.takePrecise, h.frag]
  simp only [hb, Bool.false_eq_true, if_false, hcause]
  exact handlerEntered_enterHandler h _ _

/-! ## Traps (R161) -/

theorem exec_trap (imm : BitVec 14) (s : State) : exec (.trap imm) s = execTrap imm s := rfl
theorem exec_bkpt (s : State) : exec .bkpt s = execBkpt s := rfl

/-- Settles O25: both words are a fault with nothing performed, and that fault enters the handler. -/
theorem trapsEnterTheHandler : Obligations.TrapsEnterTheHandler := by
  intro s w f h ho
  have htrap (imm : BitVec 14) : exec (.trap imm) s = .next (s.takeFault s.cur (plainFault .trap (BitVec.ofNat 64 imm.toNat))) := by
    rw [exec_trap, BitVec.ofNat_toNat]
    exact issue_eq_of_fault h ho rfl
  have hbkpt : exec .bkpt s = .next (s.takeFault s.cur (plainFault .bkpt 0)) := by
    rw [exec_bkpt]
    exact issue_eq_of_fault h ho rfl
  refine ⟨htrap, hbkpt, fun hb => ⟨fun imm => ⟨_, htrap imm, ?_⟩, _, hbkpt, ?_⟩⟩
  · have hval : (BitVec.ofNat 64 imm.toNat).toNat = imm.toNat := Nat.mod_eq_of_lt (Nat.lt_trans imm.isLt (by decide))
    have hentered := handlerEntered_takeFault (r := plainFault .trap (BitVec.ofNat 64 imm.toNat)) h.toRuns nofun (Nat.zero_lt_succ _) hb
    rwa [plainFault, hval] at hentered
  · exact handlerEntered_takeFault (r := plainFault .bkpt 0) h.toRuns nofun (Nat.zero_lt_succ _) hb

/-! ## Words of the wrong privilege (R156) -/

theorem exec_eret (s : State) : exec .eret s = execEret s := rfl
theorem exec_tlbiPage (r : Reg) (s : State) : exec (.tlbiPage r) s = execTlbiPage r s := rfl
theorem exec_tlbiCtx (s : State) : exec .tlbiCtx s = execTlbiCtx s := rfl
theorem exec_fuse (s : State) : exec .fuse s = execFuse s := rfl
theorem exec_split (o : BranchOp) (s : State) : exec (.split o) s = execSplit o s := rfl

theorem setWidth_packReg_gsys (d a fn : BitVec 7) : (packReg 0x70 d a fn 0).setWidth 64 = BitVec.ofNat 64 (Spec.gsysWord d.toNat a.toNat fn.toNat) := by
  rw [← BitVec.ofNat_toNat, packReg, toNat_append_eq, toNat_append_eq, toNat_append_eq, toNat_append_eq, Spec.gsysWord]
  have hop : (0x70 : BitVec 7).toNat = 0x70 := rfl
  have hx : (0 : BitVec 4).toNat = 0 := rfl
  exact congrArg (BitVec.ofNat 64) (by omega)

theorem setWidth_packBra (op c : BitVec 7) (off : BitVec 18) :
    (packBra op c off).setWidth 64 = BitVec.ofNat 64 (op.toNat * 2 ^ 25 + c.toNat * 2 ^ 18 + off.toNat) := by
  rw [← BitVec.ofNat_toNat, packBra, toNat_append_eq, toNat_append_eq]
  exact congrArg (BitVec.ofNat 64) (by omega)

/-- A GSYS word that takes ILLEGAL takes it with its own word. -/
theorem issue_eq_of_illegalGsys {s : State} {w : Swell} {f : Frag} {fm : Form} {regs : List Nat} (h : Ready s w f fm regs) (ho : f.outst = [])
    {body : Swell → Frag → Done} {d a fn : BitVec 7} (hbody : body w f = illegalWord s (packReg 0x70 d a fn 0)) :
    issue fm regs s body = .next (s.takeFault s.cur (plainFault .illegal (BitVec.ofNat 64 (Spec.gsysWord d.toNat a.toNat fn.toNat)))) := by
  rw [issue_eq_of_fault h ho hbody, setWidth_packReg_gsys]

theorem execEret_of_user {s : State} {w : Swell} {f : Frag} (h : Ready s w f {} []) (ho : f.outst = []) (hp : f.priv = 0) :
    execEret s = .next (s.takeFault s.cur (plainFault .illegal (BitVec.ofNat 64 (Spec.gsysWord 0 0 13)))) :=
  issue_eq_of_illegalGsys h ho (d := 0) (a := 0) (fn := 13) (if_pos hp)

/-- Settles O29: the check of the privilege comes first in each word, and its fault names the word. -/
theorem privilegeIsChecked : Obligations.PrivilegeIsChecked := by
  intro s w f r o ho
  refine ⟨fun h hp => ⟨?_, ?_, ?_⟩, fun h hp => ⟨?_, ?_⟩, fun h hp => ?_⟩
  · exact execEret_of_user h ho hp
  · exact issue_eq_of_illegalGsys h ho (d := 0) (a := r) (fn := 16) (if_pos hp)
  · exact issue_eq_of_illegalGsys h ho (d := 1) (a := 0) (fn := 16) (if_pos hp)
  · have hbrk : Ready s w f { brk := true } [] := ⟨h.toRuns, h.hints, h.range⟩
    exact issue_eq_of_illegalGsys hbrk ho (d := 0) (a := r) (fn := 9) (if_pos hp)
  · rw [exec_fuse]
    exact (issue_eq_of_fault h ho (if_pos hp)).trans (by rw [setWidth_packBra]; rfl)
  · rw [exec_split]
    exact (issue_eq_of_fault h ho (if_pos hp)).trans (by rw [setWidth_packBra]; rfl)

/-! ## ERET (R162) -/

/-- The entry of a fragment that has returned from the handler to an address in a region. -/
def Frag.returned (f : Frag) (pc : Pc) (region : Word) (now : Nat) : Frag :=
  { f with pc := pc, rep := pc, region := region, st := 0, priv := 0, hints := ⟨none, []⟩, breakDue := false, age := 0, lastMma := none, readyAt := now,
           denied := f.denied.filter fun x => !x.super }

/-- A swell whose fragment in entry e has returned from the handler. -/
def Swell.returned (w : Swell) (e : Nat) (now : Nat) : Swell :=
  { w with busy := false }.setEnt e ((w.ent e).returned (w.fpc.setWidth 56) w.frec now)

theorem returnHandler_eq (s : State) (id : FragId) :
    s.returnHandler id = ((s.updSwell id.swell fun w => w.returned id.ent s.now).takeHeld id.swell).lookPending id.swell := rfl

theorem Swell.ent_returned_same (w : Swell) {e : Nat} (he : e < 8) (now : Nat) :
    (w.returned e now).ent e = (w.ent e).returned (w.fpc.setWidth 56) w.frec now := Swell.ent_setEnt_same _ he _

theorem Swell.ent_returned_other (w : Swell) {e i : Nat} (hi : i ≠ e) (now : Nat) : (w.returned e now).ent i = w.ent i := Swell.ent_setEnt_other _ hi _

/-- An entry whose fault is held (R59). -/
def Swell.holds (w : Swell) (e : Nat) : Bool := (w.ent e).valid && (w.ent e).st == 4

theorem Swell.holds_iff (w : Swell) (e : Nat) : w.holds e = true ↔ (w.ent e).valid = true ∧ (w.ent e).st = 4 := by
  rw [Swell.holds, Bool.and_eq_true, beq_iff_eq]

/-- Behind the return the returning entry holds no fault and the others hold what they held. -/
theorem Swell.holds_returned (w : Swell) {e : Nat} (he : e < 8) (now i : Nat) : (w.returned e now).holds i = true ↔ i ≠ e ∧ w.holds i = true := by
  by_cases hi : i = e
  · subst hi
    simp [Swell.holds, Swell.ent_returned_same w he, Frag.returned]
  · simp [Swell.holds, Swell.ent_returned_other w hi, hi]

theorem takeHeld_of_none {s : State} {sw : SwellId} {u : Swell} (h : s.swellAt sw = some u) (hn : ∀ e < 8, u.holds e ≠ true) : s.takeHeld sw = s := by
  have hfind : ((List.range 8).find? fun e => (u.ent e).valid && (u.ent e).st == 4) = none :=
    List.find?_eq_none.mpr fun e he => hn e (List.mem_range.mp he)
  rw [State.takeHeld, h]
  simp only [hfind]

/-- The entry of a fragment whose held fault is about to be taken. -/
def Frag.unheld (f : Frag) : Frag := { f with heldFault := none, st := 0 }

/-- The lowest entry with a held fault enters the handler for it. -/
theorem takeHeld_of_lowest {s : State} {sw : SwellId} {u : Swell} (h : s.swellAt sw = some u) {e : Nat} (he : e < 8) (hh : u.holds e = true)
    (hlow : ∀ i < e, u.holds i ≠ true) {r : FaultRec} (hr : (u.ent e).heldFault = some r) :
    ∃ vec cause, (s.takeHeld sw).swellAt sw = some ((u.setEnt e (u.ent e).unheld).handling e vec s.now cause r.fval) := by
  have hfind : ((List.range 8).find? fun e => (u.ent e).valid && (u.ent e).st == 4) = some e :=
    List.find?_range_eq_some.mpr ⟨hh, List.mem_range.mpr he, fun i hi => (Bool.not_eq_true' _).mpr (Bool.not_eq_true _ ▸ hlow i hi)⟩
  have hu := (State.uid_of_swellAt s sw u h).1
  have hset : (s.updFrag ⟨sw.key, sw.uid, e⟩ Frag.unheld).swellAt sw = some (u.setEnt e (u.ent e).unheld) := State.swellAt_updSwell s sw _ u h hu
  rw [State.takeHeld, h]
  simp only [hfind, hr]
  rw [enterHandler_eq, ← State.updFrag_now s ⟨sw.key, sw.uid, e⟩ Frag.unheld]
  exact ⟨_, _, State.swellAt_updSwell _ sw _ _ hset hu⟩

theorem mem_insertDue (t : Nat) (e : Internal) (l : List (Nat × Internal)) : (t, e) ∈ insertDue t e l := by
  induction l with
  | nil => exact List.mem_singleton.mpr rfl
  | cons x l ih =>
    rw [insertDue]
    split
    · exact List.mem_cons_self
    · exact List.mem_cons_of_mem _ ih

/-- An event that is posted unless it is to come, comes; nothing but the events changes. -/
theorem postOnce_eq (s : State) (n : Nat) (e : Internal) : ∃ d, s.postOnce n e = { s with due := d } ∧ ∃ k, (k, e) ∈ d := by
  unfold State.postOnce
  split
  · next h =>
    obtain ⟨x, hx, he⟩ := List.any_eq_true.mp h
    exact ⟨s.due, rfl, x.1, by rw [← beq_iff_eq.mp he]; exact hx⟩
  · exact ⟨_, rfl, _, mem_insertDue ..⟩

/-- Only the events change when a pending fault is looked at, and only if there is one (R60). -/
theorem lookPending_eq {s : State} {sw : SwellId} {u : Swell} (h : s.swellAt sw = some u) :
    ∃ d, s.lookPending sw = { s with due := d } ∧ (u.pend.late = false → u.pend.engine = false → d = s.due) ∧
      (u.pend.late = true ∨ u.pend.engine = true → ∃ n, (n, .asyncFaultDelivery sw) ∈ d) := by
  rw [State.lookPending, h]
  simp only [Bool.or_eq_true]
  split
  · next hp =>
    obtain ⟨d, hd, hmem⟩ := postOnce_eq s 0 (.asyncFaultDelivery sw)
    refine ⟨d, hd, fun hl he => ?_, fun _ => hmem⟩
    simp [hl, he] at hp
  · next hp => exact ⟨s.due, rfl, fun _ _ => rfl, fun hp' => absurd hp' hp⟩

theorem lookPending_swellAt (s : State) (sw : SwellId) : (s.lookPending sw).swellAt sw = s.swellAt sw := by
  cases h : s.swellAt sw with
  | none => rw [State.lookPending, h]; exact h
  | some u =>
    obtain ⟨d, hd, -⟩ := lookPending_eq h
    rw [hd]
    exact h

theorem latchWord_swellAt (s : State) (id : FragId) (fm : Form) (sw : SwellId) : (s.latchWord id fm).swellAt sw = s.swellAt sw := rfl

/-- Settles O28: ERET is the return of the entry, after which the lowest held fault is taken and a pending one looked at. -/
theorem eretReturnsFromTheHandler : Obligations.EretReturnsFromTheHandler := by
  intro s w f h
  have hret := State.swellAt_updSwell s s.cur.swell (fun w => w.returned s.cur.ent s.now) w h.swellAt.1 h.uid
  have hexec (hp : f.priv ≠ 0) : exec .eret s = .next ((s.returnHandler s.cur).latchWord s.cur {}) := by
    rw [exec_eret, execEret, issue_ready h, if_neg hp, Done.settle]
  refine ⟨fun hp hst => ⟨_, hexec hp, ?_⟩, fun hp e he hne hv hst hlow r hr => ⟨_, hexec hp, ?_⟩, fun hp ho => execEret_of_user h ho hp⟩
  · have hnone (e : Nat) (he : e < 8) : (w.returned s.cur.ent s.now).holds e ≠ true := fun hh => by
      obtain ⟨hne, hheld⟩ := (Swell.holds_returned w h.ent_lt s.now e).mp hh
      exact hst e he hne ((Swell.holds_iff w e).mp hheld).2
    obtain ⟨d, hd, hsame, hcomes⟩ := lookPending_eq hret
    rw [returnHandler_eq, takeHeld_of_none hret hnone, hd]
    refine ⟨?_, fun hl he => (hsame hl he).trans (State.updSwell_due ..), hcomes, (f.returned (w.fpc.setWidth 56) w.frec s.now), ?_, ?_⟩
    · have hout := sameOutside_upd s s.cur (fun w => w.returned s.cur.ent s.now) fun l => holdLatch l (slotOfKey s.cur.key) s.cur.ent {}
      have hdue : ((s.updSwell s.cur.swell fun w => w.returned s.cur.ent s.now).latchWord s.cur {}).due = s.due := State.updSwell_due ..
      rw [← hdue]
      exact hout
    · rw [latchWord_swellAt, ← h.swellAt.2]
      exact hret
    · exact ⟨(BitVec.ofNat_toNat 56 w.fpc).symm, rfl, rfl, rfl, rfl, rfl, rfl, rfl, rfl⟩
  · have hent := Swell.ent_returned_other w hne s.now
    have hheld : (w.returned s.cur.ent s.now).holds e = true := (Swell.holds_returned w h.ent_lt s.now e).mpr ⟨hne, (Swell.holds_iff w e).mpr ⟨hv, hst⟩⟩
    have hlow' (i : Nat) (hi : i < e) : (w.returned s.cur.ent s.now).holds i ≠ true := fun hh => by
      obtain ⟨hne, hheld⟩ := (Swell.holds_returned w h.ent_lt s.now i).mp hh
      exact hlow i hi hne ((Swell.holds_iff w i).mp hheld)
    obtain ⟨vec, cause, hswell⟩ := takeHeld_of_lowest hret he hheld hlow' (by rw [hent, hr])
    rw [hent] at hswell
    rw [returnHandler_eq]
    refine ⟨_, (latchWord_swellAt ..).trans ((lookPending_swellAt ..).trans hswell), ?_⟩
    rw [Swell.ent_handling_same _ he, Swell.ent_handling_other _ hne.symm, Swell.ent_setEnt_other _ hne.symm, Swell.ent_returned_same w h.ent_lt]
    have hset := Swell.ent_setEnt_same (w.returned s.cur.ent s.now) he (w.ent e).unheld
    have hfpc : (w.ent e).unheld.unitPc.setWidth 64 = BitVec.ofNat 64 (w.ent e).unitPc.toNat := (BitVec.ofNat_toNat 64 (w.ent e).unitPc).symm
    have hfrec := congrArg Frag.region hset
    have hheldFault := congrArg Frag.heldFault hset
    exact ⟨rfl, rfl, rfl, hfrec.trans rfl, (congrArg (fun f => f.unitPc.setWidth 64) hset).trans hfpc, rfl, rfl, hheldFault.trans rfl, rfl,
      (BitVec.ofNat_toNat 56 w.fpc).symm⟩

/-! ## System registers (R163, R164) -/

theorem exec_srd (o : SrdOp) (s : State) : exec (.srd o) s = execSrd o s := rfl
theorem exec_swr (o : SwrOp) (s : State) : exec (.swr o) s = execSwr o s := rfl

theorem toNat_hiWord (v : Addr) : (hiWord v).toNat = v.toNat / 2 ^ 32 := by
  rw [hiWord, BitVec.extractLsb'_toNat, Nat.shiftRight_eq_div_pow]
  omega

theorem toNat_loWord (v : Addr) : (loWord v).toNat = v.toNat % 2 ^ 32 := BitVec.toNat_setWidth ..

theorem loWord_eq (v : Addr) : loWord v = BitVec.ofNat 32 (v.toNat % 2 ^ 32) := by rw [← toNat_loWord, ofNat_toNat_self]

theorem hiWord_eq (v : Addr) : hiWord v = BitVec.ofNat 32 (v.toNat / 2 ^ 32) := by rw [← toNat_hiWord, ofNat_toNat_self]

/-- The high half of a PC, which has 24 bits. -/
theorem extractLsb'_high_eq (pc : Pc) : (pc.extractLsb' 32 24).setWidth 32 = BitVec.ofNat 32 (pc.toNat / 2 ^ 32) := by
  rw [← BitVec.ofNat_toNat, BitVec.extractLsb'_toNat, Nat.shiftRight_eq_div_pow]
  exact congrArg (BitVec.ofNat 32) (by omega)

/-- SRD's value for each row of the table that the privilege may read, row by row. -/
theorem sysRead_sysRegs (s : State) (id : FragId) (w : Swell) (f : Frag) :
    ∀ y ∈ Spec.sysRegs s id w f, (y.2.1 = true → f.priv ≠ 0) → sysRead s id w f y.1 = some (BitVec.ofNat 32 y.2.2) := by
  have hrep : f.rep.setWidth 32 = BitVec.ofNat 32 (f.rep.toNat % 2 ^ 32) := setWidth_eq_ofNat_mod f.rep 32
  simp only [Spec.sysRegs, List.forall_mem_cons, ← loWord_eq, ← hiWord_eq, ← hrep, ← extractLsb'_high_eq, BitVec.ofNat_toNat, BitVec.setWidth_eq]
  refine ⟨fun _ => rfl, fun _ => rfl, fun _ => rfl, fun _ => rfl, fun _ => rfl, fun _ => rfl, fun h => if_neg (h trivial),
    fun h => if_neg (h trivial), fun _ => rfl, fun _ => rfl,
    fun _ => rfl, fun _ => rfl, fun _ => rfl, fun _ => rfl, fun _ => rfl, fun _ => rfl, fun _ => rfl, fun _ => rfl, fun _ => rfl, fun _ => rfl,
    fun _ => rfl, fun _ => rfl, fun _ => rfl, fun _ => rfl, fun _ => rfl, fun _ => rfl, fun _ => rfl, nofun⟩

/-- A number beyond the table, and FVEC at user privilege, are not read. -/
theorem sysRead_eq_none (s : State) (id : FragId) (w : Swell) {f : Frag} {n : Nat} (h : 0x1B ≤ n ∨ (f.priv = 0 ∧ (n = 6 ∨ n = 7))) :
    sysRead s id w f n = none := by
  rcases h with h | ⟨hp, rfl | rfl⟩
  · obtain ⟨k, rfl⟩ := Nat.exists_eq_add_of_le' h
    rfl
  · exact if_pos hp
  · exact if_pos hp

/-- Settles O30: a listed number is one write of S[d] with the row's value, and any other is ILLEGAL with the word. -/
theorem systemRegistersReadAsListed : Obligations.SystemRegistersReadAsListed := by
  intro o s w f h
  refine ⟨fun n sup x hmem hn hsup => ?_, fun ho hn => ?_⟩
  · have hread := sysRead_sysRegs s s.cur w f (n, sup, x) hmem hsup
    rw [Answers, exec_srd, execSrd, issue_ready h, hn, hread]
    exact ⟨_, rfl, performed_updSwell h.toRuns rfl _ (Swell.setS_uid ..) (Swell.setS_ents ..) _⟩
  · refine issue_eq_of_illegalGsys h ho (d := o.d) (a := o.n) (fn := 10) ?_
    rw [sysRead_eq_none s s.cur w hn]

/-- The bits of an address that a PC has, 55:2. -/
theorem pcBits_eq (x : Addr) : pcBits x = BitVec.ofNat 64 (x.toNat % 2 ^ 56 / 4 * 4) := by
  have hmask : (0x00FFFFFFFFFFFFFC#64 : Addr) = 0x00FFFFFFFFFFFFFF#64 &&& ~~~3#64 := by decide
  have hlow : (x &&& 0x00FFFFFFFFFFFFFF#64).toNat = x.toNat % 2 ^ 56 := by
    rw [BitVec.toNat_and]
    exact Nat.and_two_pow_sub_one_eq_mod x.toNat 56
  rw [pcBits, hmask, ← BitVec.and_assoc, and_not_three, hlow]

/-- A write of FVEC as a number: bits 55:2 of what is written. -/
theorem setFvec_eq (c : Ctx) (now : Nat) (v : Addr) :
    c.setFvec now v = { c with fvec := BitVec.ofNat 64 (v.toNat % 2 ^ 56 / 4 * 4), fvecWas := some (now, c.fvecNow now) } := by
  have hv : (fvecPc v).setWidth 64 = BitVec.ofNat 64 (v.toNat % 2 ^ 56 / 4 * 4) := by
    rw [fvecPc_eq, ← BitVec.ofNat_toNat, BitVec.toNat_ofNat]
    exact congrArg (BitVec.ofNat 64) (by omega)
  rw [Ctx.setFvec, hv]

/-- An address with its low half replaced, and with its high half replaced. -/
theorem toNat_hiWord_append (v : Addr) (x : Word) : (hiWord v ++ x).toNat = v.toNat / 2 ^ 32 * 2 ^ 32 + x.toNat := by rw [toNat_append_eq, toNat_hiWord]

theorem toNat_append_loWord (x : Word) (v : Addr) : (x ++ loWord v).toNat = x.toNat * 2 ^ 32 + v.toNat % 2 ^ 32 := by rw [toNat_append_eq, toNat_loWord]

/-- The only numbers that are written, and at which privilege. -/
theorem sysWrite_eq_none (s : State) (id : FragId) (w : Swell) {f : Frag} {n : Reg} (x : Word)
    (h : n ≠ 0x08 ∧ (f.priv = 0 ∨ (n ≠ 0x02 ∧ n ≠ 0x03 ∧ n ≠ 0x06 ∧ n ≠ 0x07))) : sysWrite s id w f n.toNat x = none := by
  have hne {k : Reg} (hk : n ≠ k) : n.toNat ≠ k.toNat := fun hn => hk (BitVec.eq_of_toNat_eq hn)
  obtain ⟨h8, hp | ⟨h2, h3, h6, h7⟩⟩ := h
  · unfold sysWrite
    split
    · exact if_pos hp
    · exact if_pos hp
    · exact if_pos hp
    · exact if_pos hp
    · next hn => exact absurd hn (hne h8)
    · rfl
  · unfold sysWrite
    split
    · next hn => exact absurd hn (hne h2)
    · next hn => exact absurd hn (hne h3)
    · next hn => exact absurd hn (hne h6)
    · next hn => exact absurd hn (hne h7)
    · next hn => exact absurd hn (hne h8)
    · rfl

section
variable {s t : State} {w : Swell} {f : Frag} {o : SwrOp}

/-- A write that the privilege may make, its unit ended. -/
theorem exec_swr_of_some (h : Ready s w f {} []) (hw : sysWrite s s.cur w f o.n.toNat (w.sreg o.a) = some t) :
    exec (.swr o) s = .next (t.endUnit s.cur {} (nextPc f.pc)) := by
  rw [exec_swr, execSwr, issue_ready h, hw]
  rfl

/-- A write of a field of the swell. -/
theorem answers_swr_swell (h : Ready s w f {} []) (g : Swell → Swell) (hu : (g w).uid = w.uid) (he : (g w).ents = w.ents)
    (hw : sysWrite s s.cur w f o.n.toNat (w.sreg o.a) = some (s.updSwell s.cur.swell g)) :
    Answers (.swr o) s fun t => Performed s t (g w) (f.onward s.now) :=
  ⟨_, exec_swr_of_some h hw, performed_updSwell h.toRuns rfl g hu he _⟩

/-- A write of a field of the context. -/
theorem answers_swr_ctx (h : Ready s w f {} []) (k : Nat) (g : Ctx → Ctx)
    (hw : sysWrite s s.cur w f o.n.toNat (w.sreg o.a) = some (s.updCtx k g)) :
    Answers (.swr o) s fun t => Performed (s.updCtx k g) t w (f.onward s.now) := by
  have hruns : Runs (s.updCtx k g) w f := ⟨h.frag, h.running⟩
  exact ⟨_, exec_swr_of_some h hw, performed_endUnit hruns rfl _⟩

end

/-- Settles O31: each number that is written changes one field of the swell or of the context, and any other is ILLEGAL with the word. -/
theorem systemRegistersWriteAsListed : Obligations.SystemRegistersWriteAsListed := by
  intro o s w f h
  refine ⟨fun hn => ?_, fun hn hp => ?_, fun hn hp => ?_, fun hn hp => ?_, fun hn hp => ?_, fun ho hn => ?_⟩
  · rw [← contWord_eq]
    exact answers_swr_swell h (fun v => { v with cont := contWord (w.sreg o.a) }) rfl rfl (by rw [hn]; rfl)
  · simp only [← toNat_hiWord_append, ← pcBits_eq]
    exact answers_swr_swell h (fun v => { v with fpc := pcBits (hiWord v.fpc ++ w.sreg o.a) }) rfl rfl (by rw [hn]; exact if_neg hp)
  · simp only [← toNat_append_loWord, ← pcBits_eq]
    exact answers_swr_swell h (fun v => { v with fpc := pcBits (w.sreg o.a ++ loWord v.fpc) }) rfl rfl (by rw [hn]; exact if_neg hp)
  · simp only [← toNat_hiWord_append, ← setFvec_eq]
    exact answers_swr_ctx h w.ctx (fun c => c.setFvec s.now (hiWord c.fvec ++ w.sreg o.a)) (by rw [hn]; exact if_neg hp)
  · simp only [← toNat_append_loWord, ← setFvec_eq]
    exact answers_swr_ctx h w.ctx (fun c => c.setFvec s.now (w.sreg o.a ++ loWord c.fvec)) (by rw [hn]; exact if_neg hp)
  · refine issue_eq_of_illegalGsys h ho (d := o.n) (a := o.a) (fn := 11) ?_
    rw [sysWrite_eq_none s s.cur w _ hn]

/-! ## Caches without dirty bytes -/

theorem kvGet_map {α β : Type} (m : KV α) (g : α → β) (k : Nat) : kvGet (m.map fun x => (x.1, g x.2)) k = (kvGet m k).map g := by
  induction m with
  | nil => rfl
  | cons x m ih =>
    rw [List.map_cons, kvGet, kvGet, ih]
    split <;> rfl

theorem mem_of_kvGet {α : Type} {m : KV α} {k : Nat} {v : α} (h : kvGet m k = some v) : (k, v) ∈ m := by
  induction m with
  | nil => exact absurd h nofun
  | cons x m ih =>
    rw [kvGet] at h
    split at h
    · next hk =>
      obtain rfl := Option.some.inj h
      exact hk ▸ List.mem_cons_self
    · exact List.mem_cons_of_mem _ (ih h)

/-- No L1 and no partition of a die holds dirty bytes. -/
structure NoDirty (s : State) : Prop where
  l1 : ∀ x ∈ s.cores, ∀ l ∈ x.2.l1, l.dirty = 0
  parts : ∀ x ∈ s.dies, ∀ l ∈ x.2.partition, l.dirty = 0

theorem NoDirty.core {s : State} (h : NoDirty s) (c : Nat) : ∀ l ∈ (s.core c).l1, l.dirty = 0 := by
  rw [State.core]
  cases hc : kvGet s.cores c with
  | none => exact nofun
  | some x => exact h.l1 _ (mem_of_kvGet hc)

theorem NoDirty.die {s : State} (h : NoDirty s) (d : Nat) : ∀ l ∈ (s.die d).partition, l.dirty = 0 := by
  rw [State.die]
  cases hd : kvGet s.dies d with
  | none => exact nofun
  | some x => exact h.parts _ (mem_of_kvGet hd)

/-- Lines that are chosen for their dirty bytes are none. -/
theorem filter_dirty_eq_nil {ls : List CacheLine} (h : ∀ l ∈ ls, l.dirty = 0) (p : CacheLine → Bool) : (ls.filter fun x => p x && x.dirty != 0) = [] := by
  rw [List.filter_eq_nil_iff]
  intro l hl
  simp [h l hl]

theorem l1Release_of_clean {s : State} {c : Nat} (h : ∀ l ∈ (s.core c).l1, l.dirty = 0) (p : PageClass → Bool) : l1Release s c p = s := by
  rw [l1Release, filter_dirty_eq_nil h fun x => p x.cls, List.foldl_nil]

theorem partsClean_of_clean {s : State} {d : Nat} (h : ∀ l ∈ (s.die d).partition, l.dirty = 0) : partsClean s d = s := by
  rw [partsClean, filter_dirty_eq_nil h fun x => x.cls == .swm, List.foldl_nil]

/-- With no dirty bytes there is nothing to flush before a removal. -/
theorem flushStores_of_noDirty {s : State} (h : NoDirty s) (ctx d : Nat) : flushStores s ctx d = s := by
  have hfold : s.cores.foldl (fun s x => if x.2.ctx == some ctx then l1Release s x.1 fun _ => true else s) s = s := by
    refine List.foldlRecOn (motive := fun t => t = s) _ _ rfl fun t ht x _ => ?_
    rw [ht, l1Release_of_clean (h.core x.1), ite_self]
  rw [flushStores, hfold, partsClean_of_clean (h.die d)]

theorem l1Flush_of_clean {s : State} {c : Nat} (h : ∀ l ∈ (s.core c).l1, l.dirty = 0) (line : Nat) : l1Flush s c line = l1Drop s c line := by
  have hclean : l1Clean s c line = s := by
    unfold l1Clean
    split
    · rfl
    · next x hx => exact if_pos (h x (List.mem_of_find?_eq_some hx))
  rw [l1Flush, hclean]

/-- A write of no bytes at a home does nothing. -/
theorem homeMerge_zero (s : State) (line : Nat) (data : Bytes) : homeMerge s line 0 data = s := by
  have hbit (i : Nat) : ¬(0 : BitVec 256).getLsbD i = true := by
    have hfalse : (0 : BitVec 256).getLsbD i = false := BitVec.getLsbD_zero
    rw [hfalse]
    exact Bool.false_ne_true
  have hword (i : Nat) : (0 : BitVec 256).extractLsb' (4 * i) 4 = 0 := BitVec.extractLsb'_zero
  have hbytes : maskedBytes 0 data = [] := by rw [maskedBytes, List.filter_eq_nil_iff.mpr fun i _ => hbit i, List.map_nil]
  have hwords : maskWords line 0 = [] := by
    rw [maskWords, List.filter_eq_nil_iff.mpr fun i _ => mt decide_eq_true_iff.mp (not_not_intro (hword i)), List.map_nil]
  rw [homeMerge, hbytes, hwords, if_pos rfl, List.foldl_nil, List.foldl_nil]

theorem partEvict_of_clean {s : State} {d : Nat} {x : CacheLine} (hd : x.dirty = 0) (hc : (x.cls == .swm) = true) : partEvict s d x = partDrop s d x.line := by
  have hcoh : (x.cls == .coh) = false := by rw [beq_iff_eq.mp hc]; rfl
  simp only [partEvict, writeHome, carryHome, hd, if_true, hcoh, Bool.false_eq_true, if_false, homeMerge_zero]

/-! ## Copies given up (R351) -/

/-- Nothing has changed but that lines have left L1s. -/
structure L1Dropped (s t : State) : Prop where
  tlb : ∀ c, (t.core c).tlb = (s.core c).tlb
  l1 : ∀ c, ∀ l ∈ (t.core c).l1, l ∈ (s.core c).l1
  rest : t = { s with cores := t.cores }

/-- Nothing has changed of a machine but its dies, whose walkers hold what they held. -/
structure PartsDropped (s t : State) : Prop where
  walk : ∀ d, (t.die d).walkCache = (s.die d).walkCache
  rest : t = { s with dies := t.dies }

theorem L1Dropped.refl (s : State) : L1Dropped s s := ⟨fun _ => rfl, fun _ _ h => h, rfl⟩

theorem L1Dropped.trans {s t u : State} (h : L1Dropped s t) (k : L1Dropped t u) : L1Dropped s u where
  tlb c := (k.tlb c).trans (h.tlb c)
  l1 c l hl := h.l1 c l (k.l1 c l hl)
  rest := by rw [k.rest, h.rest]

theorem PartsDropped.refl (s : State) : PartsDropped s s := ⟨fun _ => rfl, rfl⟩

theorem PartsDropped.trans {s t u : State} (h : PartsDropped s t) (k : PartsDropped t u) : PartsDropped s u where
  walk d := (k.walk d).trans (h.walk d)
  rest := by rw [k.rest, h.rest]

theorem l1Dropped_l1Drop (s : State) (c line : Nat) : L1Dropped s (l1Drop s c line) where
  tlb _ := by
    rw [l1Drop, State.core_updCore]
    split <;> rfl
  l1 _ l hl := by
    rw [l1Drop, State.core_updCore] at hl
    split at hl
    · exact (List.mem_filter.mp hl).1
    · exact hl
  rest := rfl

theorem partsDropped_partDrop (s : State) (d line : Nat) : PartsDropped s (partDrop s d line) where
  walk _ := by
    rw [partDrop, State.die_updDie]
    split <;> rfl
  rest := rfl

theorem l1Dropped_l1FlushAll {s : State} (h : ∀ c, ∀ l ∈ (s.core c).l1, l.dirty = 0) (c : Nat) : L1Dropped s (l1FlushAll s c) := by
  refine List.foldlRecOn (motive := L1Dropped s) _ _ (L1Dropped.refl s) fun t ht x _ => ?_
  rw [l1Flush_of_clean fun l hl => h c l (ht.l1 c l hl)]
  exact ht.trans (l1Dropped_l1Drop t c x.line)

/-- The L1s of a context's cores, given up when nothing is dirty. -/
theorem l1Dropped_foldl {s : State} (h : ∀ c, ∀ l ∈ (s.core c).l1, l.dirty = 0) (ctx : Nat) :
    L1Dropped s (s.cores.foldl (fun s x => if x.2.ctx == some ctx then l1FlushAll s x.1 else s) s) := by
  refine List.foldlRecOn (motive := L1Dropped s) _ _ (L1Dropped.refl s) fun t ht x _ => ?_
  split
  · exact ht.trans (l1Dropped_l1FlushAll (fun c l hl => h c l (ht.l1 c l hl)) x.1)
  · exact ht

/-- The SWM copies of every die, given up when nothing is dirty. -/
theorem partsDropped_foldl {s : State} (h : ∀ x ∈ s.dies, ∀ l ∈ x.2.partition, l.dirty = 0) :
    PartsDropped s (s.dies.foldl (fun s x => (x.2.partition.filter fun y => y.cls == .swm).foldl (fun s y => partEvict s x.1 y) s) s) := by
  refine List.foldlRecOn (motive := PartsDropped s) _ _ (PartsDropped.refl s) fun t ht x hx => ?_
  refine List.foldlRecOn (motive := PartsDropped s) _ _ ht fun u hu y hy => ?_
  obtain ⟨hmem, hswm⟩ := List.mem_filter.mp hy
  rw [partEvict_of_clean (h x hx y hmem) hswm]
  exact hu.trans (partsDropped_partDrop u x.1 y.line)

/-! ## TLBI (R165) -/

/-- The entries of TLBs and walkers that a removal names have gone; but for lines of caches and the contexts' own translations nothing else has changed. -/
structure Removed (s t : State) (gone : TlbEnt → Bool) (goneWalk : WalkEnt → Bool) : Prop where
  tlb : ∀ c, (t.core c).tlb = (s.core c).tlb.filter fun x => !gone x
  clusterTlb : ∀ c, (t.cluster c).tlb = (s.cluster c).tlb.filter fun x => !gone x
  walk : ∀ d, (t.die d).walkCache = (s.die d).walkCache.filter fun x => !goneWalk x
  rest : t = { s with cores := t.cores, clusters := t.clusters, dies := t.dies, ctxs := t.ctxs }

theorem removed_refl (s : State) : Removed s s (fun _ => false) (fun _ => false) where
  tlb _ := (List.filter_eq_self.mpr fun _ _ => rfl).symm
  clusterTlb _ := (List.filter_eq_self.mpr fun _ _ => rfl).symm
  walk _ := (List.filter_eq_self.mpr fun _ _ => rfl).symm
  rest := rfl

theorem removed_tlbiRemove (s : State) (ctx : Nat) (va : Option Addr) : Removed s (tlbiRemove s ctx va) (tlbiHits ctx va) (tlbiHitsWalk ctx va) where
  tlb c := by
    have hget := kvGet_map s.cores (fun x => { x with tlb := x.tlb.filter fun t => !tlbiHits ctx va t }) c
    rw [State.core, tlbiRemove, State.updCtx, State.setCtx, hget, State.core]
    cases kvGet s.cores c <;> rfl
  clusterTlb c := by
    have hget := kvGet_map s.clusters (fun x => { x with tlb := x.tlb.filter fun t => !tlbiHits ctx va t }) c
    rw [State.cluster, tlbiRemove, State.updCtx, State.setCtx, hget, State.cluster]
    cases kvGet s.clusters c <;> rfl
  walk d := by
    have hget := kvGet_map s.dies (fun x => { x with walkCache := x.walkCache.filter fun t => !tlbiHitsWalk ctx va t }) d
    rw [State.die, tlbiRemove, State.updCtx, State.setCtx, hget, State.die]
    cases kvGet s.dies d <;> rfl
  rest := rfl

theorem noDirty_tlbiRemove {s : State} (h : NoDirty s) (ctx : Nat) (va : Option Addr) : NoDirty (tlbiRemove s ctx va) where
  l1 := List.forall_mem_map.mpr h.l1
  parts := List.forall_mem_map.mpr h.parts

theorem Removed.l1Dropped {s t u : State} {gone : TlbEnt → Bool} {goneWalk : WalkEnt → Bool} (h : Removed s t gone goneWalk) (k : L1Dropped t u) :
    Removed s u gone goneWalk where
  tlb c := (k.tlb c).trans (h.tlb c)
  clusterTlb c := by
    rw [← h.clusterTlb c, k.rest]
    rfl
  walk d := by
    rw [← h.walk d, k.rest]
    rfl
  rest := by rw [k.rest, h.rest]

theorem Removed.partsDropped {s t u : State} {gone : TlbEnt → Bool} {goneWalk : WalkEnt → Bool} (h : Removed s t gone goneWalk) (k : PartsDropped t u) :
    Removed s u gone goneWalk where
  tlb c := by
    rw [← h.tlb c, k.rest]
    rfl
  clusterTlb c := by
    rw [← h.clusterTlb c, k.rest]
    rfl
  walk d := (k.walk d).trans (h.walk d)
  rest := by rw [k.rest, h.rest]

theorem Removed.freshCopies {s t : State} {gone : TlbEnt → Bool} {goneWalk : WalkEnt → Bool} (h : Removed s t gone goneWalk) (hd : NoDirty t) (ctx : Nat) :
    Removed s (freshCopies t ctx) gone goneWalk := by
  have hl := l1Dropped_foldl hd.core ctx
  have hdies := congrArg State.dies hl.rest
  exact (h.l1Dropped hl).partsDropped (partsDropped_foldl (hdies ▸ hd.parts))

/-- Nothing of the memory system is under way for any swell, and no cache is dirty. -/
structure Idle (s : State) : Prop extends NoDirty s where
  msgs : s.msgs = []
  outst : ∀ x ∈ s.swells, ∀ e, (x.2.ent e).outst = []

theorem tlbiOps_of_idle {s : State} (h : ∀ x ∈ s.swells, ∀ e, (x.2.ent e).outst = []) (ctx : Nat) (hit : Addr → Bool) : tlbiOps s ctx hit = [] := by
  rw [tlbiOps, List.flatMap_eq_nil_iff]
  intro x hx
  split
  · rw [List.flatMap_eq_nil_iff]
    intro f hf
    obtain ⟨i, hi, rfl⟩ := List.mem_iff_getElem.mp hf
    have hent : x.2.ents.toList[i] = x.2.ent i := by
      have hi8 : i < 8 := by simpa using hi
      simp [Swell.ent, hi8]
    rw [hent, h x hx i]
    rfl
  · rfl

theorem tlbiWait_of_idle {s : State} (h : Idle s) (id : FragId) (ctx : Nat) (va : Option Addr) (t : TlbiWait) :
    tlbiWait s id ctx va t = .next (freshCopies s ctx) := by
  have hquiet : tlbiQuiet s ctx t (tlbiHitsVa t.span va) = true := by
    rw [tlbiQuiet, tlbiOps_of_idle h.outst, h.msgs]
    rfl
  rw [tlbiWait, if_pos hquiet]

/-- With nothing under way TLBI removes the translations at once and goes on. -/
theorem tlbi_of_none {s : State} (h : Idle s) (id : FragId) {f : Frag} (ho : f.outst = []) (hf : f.tlbi = none) (ctx : Nat) (va : Option Addr) :
    tlbi s id f ctx va = .next (freshCopies (tlbiRemove s ctx va) ctx) := by
  have hready : relReady s id f = true := by
    rw [relReady, mergeWaits, ho, h.msgs]
    rfl
  have hmerges : mergesOf s ctx = false := by
    rw [mergesOf, h.msgs]
    rfl
  have hremoved : Idle (tlbiRemove s ctx va) := ⟨noDirty_tlbiRemove h.toNoDirty ctx va, h.msgs, h.outst⟩
  simp only [tlbi, hf, hready, Bool.not_true, Bool.false_eq_true, if_false, flushStores_of_noDirty h.toNoDirty, hmerges]
  exact tlbiWait_of_idle hremoved ..

/-- A fragment that has made its removal goes on when nothing is under way. -/
theorem tlbi_of_some {s : State} (h : Idle s) (id : FragId) {f : Frag} (hf : f.tlbi ≠ none) (ctx : Nat) (va : Option Addr) :
    tlbi s id f ctx va = .next (freshCopies s ctx) := by
  obtain ⟨t, ht⟩ := Option.ne_none_iff_exists'.mp hf
  rw [tlbi, ht]
  exact tlbiWait_of_idle h id ctx va t

theorem tlbiHits_page (ctx : Nat) (va : Addr) : tlbiHits ctx (some va) = fun x => x.covers ctx va.toNat := by
  funext x
  rw [tlbiHits, TlbEnt.covers, ← Bool.and_assoc, Bool.and_self]

theorem tlbiHits_ctx (ctx : Nat) : tlbiHits ctx none = fun x => x.ctx == ctx := funext fun _ => Bool.and_true _

theorem tlbiHitsWalk_ctx (ctx : Nat) : tlbiHitsWalk ctx none = fun x => x.ctx == ctx := funext fun _ => Bool.and_true _

section
variable {s t : State} {w : Swell} {f : Frag} {i : Instr} {gone : TlbEnt → Bool} {goneWalk : WalkEnt → Bool}

/-- A TLBI word that comes to a state without the removed entries ends its unit there. -/
theorem answers_removed (h : Runs s w f) (hexec : exec i s = .next ((Done.next t).settle s.cur {} f.pc)) (hr : Removed s t gone goneWalk) :
    Answers i s fun t => ((∀ c, (t.core c).tlb = (s.core c).tlb.filter fun x => !gone x) ∧
      (∀ c, (t.cluster c).tlb = (s.cluster c).tlb.filter fun x => !gone x) ∧
      t.swellAt s.cur.swell = some (w.setEnt s.cur.ent (f.onward s.now)) ∧ (∀ a, byteAt t.mem a = byteAt s.mem a)) ∧
      ∀ d, (t.die d).walkCache = (s.die d).walkCache.filter fun x => !goneWalk x := by
  have hcur : t.cur = s.cur := by rw [hr.rest]
  have hnow : t.now = s.now := by rw [hr.rest]
  have hmem : t.mem = s.mem := by rw [hr.rest]
  have hruns : Runs t w f := ⟨by rw [hcur, hr.rest]; exact h.frag, h.running⟩
  obtain ⟨houtside, hswell⟩ := performed_endUnit (fm := {}) hruns rfl (nextPc f.pc)
  rw [hcur, hnow] at hswell
  rw [hcur] at houtside
  refine ⟨_, hexec, ⟨fun c => ?_, fun c => ?_, hswell, fun a => ?_⟩, fun d => ?_⟩
  · rw [Done.settle, houtside.cores c]
    exact hr.tlb c
  · rw [Done.settle, houtside.rest]
    exact hr.clusterTlb c
  · rw [Done.settle, houtside.mem a, hmem]
  · rw [Done.settle, houtside.rest]
    exact hr.walk d

end

/-- The bits of an address above its canonical ones (R7). -/
theorem extractLsb'_top_eq_zero_iff (va : Addr) : va.extractLsb' 56 8 = 0 ↔ va.toNat < 2 ^ 56 := by
  rw [← BitVec.toNat_inj, BitVec.extractLsb'_toNat, Nat.shiftRight_eq_div_pow]
  have hzero : (0 : BitVec 8).toNat = 0 := rfl
  omega

theorem exec_tlbiCtx_of_super {s : State} {w : Swell} {f : Frag} (h : Ready s w f {} []) (hp : f.priv ≠ 0) :
    exec .tlbiCtx s = .next ((tlbi s s.cur f w.ctx none).settle s.cur {} f.pc) := by
  rw [exec_tlbiCtx, execTlbiCtx, issue_ready h, if_neg hp]

theorem exec_tlbiPage_of_super {s : State} {w : Swell} {f : Frag} {r : Reg} (h : Ready s w f {} []) (hp : f.priv ≠ 0) (hva : (w.spair r).toNat < 2 ^ 56) :
    exec (.tlbiPage r) s = .next ((tlbi s s.cur f w.ctx (some (w.spair r))).settle s.cur {} f.pc) := by
  have htop := (extractLsb'_top_eq_zero_iff _).mpr hva
  rw [exec_tlbiPage, execTlbiPage, issue_ready h]
  simp only [if_neg hp, htop, ne_eq, not_true_eq_false, if_false]

/-- Settles O32: with nothing under way and nothing dirty a TLBI word only filters the TLBs and walkers, and drops clean copies. -/
theorem tlbiRemovesTranslations : Obligations.TlbiRemovesTranslations := by
  intro s w f r h hp hmsgs houtst hl1 hparts
  have hidle : Idle s := ⟨⟨hl1, hparts⟩, hmsgs, houtst⟩
  have ho : f.outst = [] := by
    rw [← h.swellAt.2]
    exact houtst _ (mem_of_kvGet (State.uid_of_swellAt _ _ _ h.swellAt.1).2) s.cur.ent
  have hremove (va : Option Addr) := (removed_tlbiRemove s w.ctx va).freshCopies (noDirty_tlbiRemove hidle.toNoDirty w.ctx va) w.ctx
  have hstay := (removed_refl s).freshCopies hidle.toNoDirty w.ctx
  refine ⟨fun hf => ⟨?_, fun hva => ?_⟩, fun hf => ⟨?_, fun hva => ?_⟩, fun hva ho => ?_⟩
  · have hr := hremove none
    rw [tlbiHits_ctx, tlbiHitsWalk_ctx] at hr
    exact answers_removed h.toRuns (by rw [exec_tlbiCtx_of_super h hp, tlbi_of_none hidle s.cur ho hf]) hr
  · have hr := hremove (some (w.spair r))
    rw [tlbiHits_page] at hr
    exact answers_removed h.toRuns (by rw [exec_tlbiPage_of_super h hp hva, tlbi_of_none hidle s.cur ho hf]) hr
  · exact answers_removed h.toRuns (by rw [exec_tlbiCtx_of_super h hp, tlbi_of_some hidle s.cur hf]) hstay
  · exact answers_removed h.toRuns (by rw [exec_tlbiPage_of_super h hp hva, tlbi_of_some hidle s.cur hf]) hstay
  · have htop := mt (extractLsb'_top_eq_zero_iff _).mp (Nat.not_lt.mpr hva)
    rw [exec_tlbiPage]
    refine issue_eq_of_fault h ho ?_
    simp only [if_neg hp, htop, ne_eq, not_false_eq_true, if_true]

end Sys2Proof.Machine

/-! SUPPORT and PROOF. What a store of one place comes to when nothing of the memory system is under way: a dirty line of the L1, or a request to another die; and O39 and O60. -/

namespace Sys2Proof.Machine

/-! ## Reset (R177, R192, R274, R371, R394, R414, R415, R430) -/

/-- Settles O60: at reset no record is listed, so that each reads as its initial value. -/
theorem resetHoldsTheStatedValues : Obligations.ResetHoldsTheStatedValues :=
  ⟨⟨Nat.zero_le 2, nofun, .nil⟩, Memory.wf_reset, rfl, rfl, fun _ => ⟨rfl, rfl, rfl, rfl, rfl, rfl, rfl⟩, fun _ => ⟨rfl, rfl, rfl, rfl⟩, fun _ => ⟨rfl, rfl⟩,
    rfl, rfl, rfl, rfl⟩

/-! ## Records that are listed or initial -/

theorem State.forall_core {s : State} {P : Core → Prop} (hinit : P Core.init) (h : ∀ x ∈ s.cores, P x.2) (c : Nat) : P (s.core c) := by
  rw [State.core]
  cases hc : kvGet s.cores c with
  | none => exact hinit
  | some x => exact h _ (mem_of_kvGet hc)

theorem State.forall_die {s : State} {P : Die → Prop} (hinit : P Die.init) (h : ∀ x ∈ s.dies, P x.2) (d : Nat) : P (s.die d) := by
  rw [State.die]
  cases hd : kvGet s.dies d with
  | none => exact hinit
  | some x => exact h _ (mem_of_kvGet hd)

theorem NoLines.core {s : State} (h : NoLines s) (c : Nat) : (s.core c).l1 = [] := State.forall_core (P := fun x => x.l1 = []) rfl h c

/-! ## A quiet memory system holds nothing back (R254, R271, R277, R283) -/

section
variable {s : State} (h : Quiet s)
include h

theorem Quiet.lineHeld (line : Nat) : lineHeld s line = false := by
  rw [Machine.lineHeld, List.any_eq_false]
  intro x hx
  rw [Bool.not_eq_true, List.any_eq_false]
  intro e he
  rw [h.engines x hx e he, List.any_nil]
  exact Bool.false_ne_true

theorem Quiet.homeBusy {n : Nat} {l : LaneLoc} (hp : HbmPlace n l) : homeBusy s l.loc = false := by
  have hcopy : (s.die l.loc.die).hbmCopyEnd - s.now = 0 :=
    Nat.sub_eq_zero_of_le (State.forall_die (P := fun x => x.hbmCopyEnd ≤ s.now) (Nat.zero_le _) h.channels _)
  have hwait : bankWait s l.loc = 0 := by
    simp only [bankWait, channelWait, hp.host, hp.shelf, hcopy, Bool.false_eq_true, if_false, ite_self]
  rw [Machine.homeBusy, hwait, h.lineHeld]
  exact Bool.and_false _

theorem Quiet.lineQueued (l : Loc) : lineQueued s l = false := by
  obtain ⟨hmiss, hingress, hwait⟩ := State.forall_die (P := fun x => x.misses = [] ∧ x.missWait = [] ∧ x.waiting = []) ⟨rfl, rfl, rfl⟩ h.slices l.die
  rw [Machine.lineQueued, lineMissing, hmiss, hingress, hwait]
  rfl

theorem Quiet.homeFailed {n : Nat} {l : LaneLoc} (hp : HbmPlace n l) : homeFailed s l.loc = false := by
  have hfail := State.forall_die (P := fun x => x.shelfFailed = false ∧ x.hbmFailed = false) ⟨rfl, rfl⟩ h.failed l.loc.die
  rw [Machine.homeFailed, hp.shelf, hfail.2]
  exact Bool.and_false _

theorem Quiet.behindOwn (fr : FragId) (k : Nat) (l : Loc) (n : Nat) : behindOwn s fr k l n = false := by
  rw [Machine.behindOwn, h.msgs, List.any_nil]

theorem Quiet.relReady (id : FragId) {f : Frag} (ho : f.outst = []) : relReady s id f = true := by
  rw [Machine.relReady, mergeWaits, h.msgs, ho]
  rfl

theorem Quiet.partFind (d line : Nat) : partFind s d line = none := by
  have hpart := State.forall_die (P := fun x => x.partition = [] ∧ x.dir = [] ∧ x.ros = []) ⟨rfl, rfl, rfl⟩ h.copies d
  rw [Machine.partFind, hpart.1, List.find?_nil]

/-- No output holds packets in a spill region. -/
theorem Quiet.stalledOn (d home : Nat) : stalledOn s d home = none := by
  rw [Machine.stalledOn, List.find?_eq_none]
  intro o _
  rw [Bool.not_eq_true, List.any_eq_false]
  intro x hx
  obtain ⟨hspilled, hblocked⟩ :=
    State.forall_die (P := fun d => ∀ l ∈ d.links, l.spilled = [] ∧ l.blocked = []) nofun h.links o.1 x hx
  rw [LinkOut.stalled, hspilled, hblocked]
  exact Bool.eq_false_iff.mp (Bool.and_false _)

end

/-- No packet is on its way. -/
theorem lastArrival_of_no_flight {s : State} (h : ∀ x ∈ s.due, ∀ k, x.2 ≠ .homeWrite k ∧ x.2 ≠ .timedLaneArrival k) (own d home : Nat) :
    lastArrival s own d home = 0 := by
  rw [lastArrival]
  refine List.foldlRecOn (motive := fun t => t = 0) _ _ rfl fun t ht x hx => ?_
  have hx := h x hx
  split
  · next k hk => exact absurd hk (hx k).1
  · next k hk => exact absurd hk (hx k).2
  · exact ht

theorem numberMsg_msgs_of_nil {s : State} (h : s.msgs = []) (m : Msg) : (s.numberMsg m).msgs = [(s.nextMsg, m)] := by
  rw [State.numberMsg, h]
  rfl

/-- A message between dies with nothing ahead of it reaches its home after the transit (R361 to R363; log 2). -/
theorem State.sendMsg_of_no_flight {s : State} {m : Msg} (hhost : m.loc.host = false) (htimed : m.timed = false)
    (hstall : stalledOn (s.numberMsg m) m.src m.loc.die = none) (h : ∀ x ∈ s.due, ∀ k, x.2 ≠ .homeWrite k ∧ x.2 ≠ .timedLaneArrival k) :
    s.sendMsg m = (s.numberMsg m).post (20 + 40 * meshHops m.src m.loc.die) (.homeWrite s.nextMsg) := by
  have harrival : lastArrival (s.numberMsg m) s.nextMsg m.src m.loc.die = 0 :=
    lastArrival_of_no_flight (s := s.numberMsg m) h _ _ _
  have hevent : m.event s.nextMsg = .homeWrite s.nextMsg := by rw [Msg.event, htimed, if_neg Bool.false_ne_true]
  simp only [State.sendMsg, State.forward, hhost, hstall, harrival, hevent, Bool.false_eq_true, if_false, Nat.zero_sub]
  exact congrArg (fun n => (s.numberMsg m).post n _) (Nat.max_eq_left (Nat.zero_le _))

/-! ## What an access may change, step by step -/

theorem Accessed.refl (s : State) (id : FragId) : Accessed s s id := ⟨fun _ => rfl, fun _ _ => rfl, fun _ => rfl, rfl⟩

theorem Accessed.trans {s t u : State} {id : FragId} (h : Accessed s t id) (k : Accessed t u id) : Accessed s u id where
  cores c := by rw [k.cores c, h.cores c]
  swells n hn := (k.swells n hn).trans (h.swells n hn)
  dies d := by rw [k.dies d, h.dies d]
  rest := by rw [k.rest, h.rest]

theorem SameOutside.accessed {s t : State} {id : FragId} (h : SameOutside s t id) : Accessed s t id where
  cores c := by rw [h.cores c]
  swells := h.swells
  dies d := by rw [h.rest]; rfl
  rest := by rw [h.rest]

theorem accessed_post (s : State) (n : Nat) (e : Internal) (id : FragId) : Accessed s (s.post n e) id := ⟨fun _ => rfl, fun _ _ => rfl, fun _ => rfl, rfl⟩

theorem accessed_numberMsg (s : State) (m : Msg) (id : FragId) : Accessed s (s.numberMsg m) id := ⟨fun _ => rfl, fun _ _ => rfl, fun _ => rfl, rfl⟩

/-- A change of a core's L1. -/
theorem accessed_updL1 (s : State) (c : Nat) (g : List CacheLine → List CacheLine) (id : FragId) :
    Accessed s (s.updCore c fun x => { x with l1 := g x.l1 }) id where
  cores k := by
    rw [State.core_updCore]
    split <;> rfl
  swells _ _ := rfl
  dies _ := rfl
  rest := rfl

theorem accessed_l1Put (s : State) (c : Nat) (x : CacheLine) (id : FragId) : Accessed s (l1Put s c x) id :=
  accessed_updL1 s c (fun ls => x :: ls.filter fun y => y.line != x.line) id

theorem accessed_l1Drop (s : State) (c line : Nat) (id : FragId) : Accessed s (l1Drop s c line) id :=
  accessed_updL1 s c (fun ls => ls.filter fun y => y.line != line) id

/-! ## Translations noted -/

/-- Nothing has changed but what the TLBs of cores hold, and the choices made for it. -/
structure Noted (s t : State) : Prop where
  cores : ∀ c, t.core c = { s.core c with tlb := (t.core c).tlb }
  rest : t = { s with cores := t.cores, freeCtr := t.freeCtr }

theorem Noted.refl (s : State) : Noted s s := ⟨fun _ => rfl, rfl⟩

theorem Noted.trans {s t u : State} (h : Noted s t) (k : Noted t u) : Noted s u where
  cores c := by rw [k.cores c, h.cores c]
  rest := by rw [k.rest, h.rest]

theorem Noted.accessed {s t : State} (h : Noted s t) (id : FragId) : Accessed s t id where
  cores c := by rw [h.cores c]
  swells _ _ := by rw [h.rest]
  dies _ := by rw [h.rest]; rfl
  rest := by rw [h.rest]

theorem Noted.l1 {s t : State} (h : Noted s t) (c : Nat) : (t.core c).l1 = (s.core c).l1 := by rw [h.cores c]

theorem Noted.l1Sets {s t : State} (h : Noted s t) (c : Nat) : l1Sets (t.core c) = l1Sets (s.core c) := by rw [h.cores c]; rfl

theorem tlbPut_state (s : State) (cap : Nat) (l : List TlbEnt) (t : TlbEnt) : ∃ n, (tlbPut s cap l t).2 = { s with freeCtr := n } := by
  unfold tlbPut
  split
  · exact ⟨_, rfl⟩
  · split
    · exact ⟨_, rfl⟩
    · exact ⟨_, rfl⟩

theorem noted_fillCoreTlb (s : State) (c : Nat) (t : TlbEnt) : Noted s (fillCoreTlb s c t) := by
  obtain ⟨n, hn⟩ := tlbPut_state s 64 (s.core c).tlb t
  simp only [fillCoreTlb, hn]
  refine ⟨fun k => ?_, rfl⟩
  rw [State.core_updCore]
  split <;> rfl

theorem noted_noteHit (s : State) (c ctx : Nat) (va : Addr) : Noted s (noteHit s c ctx va) := by
  unfold noteHit
  split
  · exact .refl s
  · split
    · exact noted_fillCoreTlb s c _
    · exact .refl s

/-- The translations of an access's places are noted at the core of the fragment that issues. -/
def State.noteHits (s : State) (ctx : Nat) (ls : List LaneLoc) : State := ls.foldl (fun t l => noteHit t (coreOfKey s.cur.key) ctx l.va) s

theorem noted_noteHits (s : State) (ctx : Nat) (ls : List LaneLoc) : Noted s (s.noteHits ctx ls) :=
  List.foldlRecOn (motive := Noted s) ls _ (.refl s) fun t ht l _ => ht.trans (noted_noteHit t _ ctx l.va)

/-! ## The issue of an access whose checks all pass (R195, R196, R198) -/

/-- With no line in an L1 a release has nothing to write back. -/
theorem releasing_of_quiet {s t : State} (hq : Quiet s) (hl : NoLines s) (hn : Noted s t) (id : FragId) (dp : Bool) (go : State → Done) :
    releasing t id dp go = go t := by
  have hempty : (t.core (coreOfKey id.key)).l1 = [] := (hn.l1 _).trans (hl.core _)
  have hclean : releaseAll t id dp = t := l1Release_of_clean (by rw [hempty]; exact nofun) _
  have hmsgs : t.msgs = [] := by rw [hn.rest]; exact hq.msgs
  rw [releasing, hclean, mergeWaits, hmsgs]
  rfl

theorem memAccess_of_placed {s : State} {w : Swell} {f : Frag} {k : AccKind} {as : List LaneAcc} {ls : List LaneLoc} (hq : Quiet s) (hl : NoLines s)
    (ho : f.outst = []) (hp : Placed s w f k as ls) (rel : Bool) (go : State → List LaneLoc → Done) :
    memAccess s w f k as rel go = go (s.noteHits w.ctx ls) ls := by
  have hn := noted_noteHits s w.ctx ls
  have hacq : f.acquiring = false := by rw [Frag.acquiring, ho, List.any_nil]
  have hbehind : behindLoads f ls = false := by rw [behindLoads, ho, List.any_nil]
  have hrel : relReady (s.noteHits w.ctx ls) (s.noteHits w.ctx ls).cur f = true := by
    rw [hn.rest]
    exact hq.relReady s.cur ho
  have hplaces : withPlaces s w f k as = fun go => go (s.noteHits w.ctx ls) ls := by
    unfold Placed at hp
    funext go
    rw [withPlaces, hp]
    rfl
  rw [memAccess, hacq, hplaces]
  simp only [hrel, hbehind, Bool.not_true, Bool.and_false, Bool.or_self, Bool.false_eq_true, if_false, releasing_of_quiet hq hl hn, ite_self]

/-! ## Bytes of a line -/

theorem getLsbD_rangeMask (off n : Nat) {i : Nat} (h : i < 256) : (rangeMask off n).getLsbD i = decide (off ≤ i ∧ i < off + n) := by
  rw [rangeMask, BitVec.getLsbD_ofNat, Nat.testBit_mul_two_pow, Nat.testBit_two_pow_sub_one, decide_eq_true h, Bool.true_and, ← Bool.decide_and,
    decide_eq_decide]
  omega

/-- Bytes put at the places of a list, each given by its place. -/
theorem byteAt_foldl_putByte (g : Nat → Byte) (is : List Nat) (m : Bytes) (a : Nat) :
    byteAt ((is.map fun i => (i, g i)).foldl (fun t b => putByte t b.1 b.2) m) a = if a ∈ is then g a else byteAt m a := by
  induction is generalizing m with
  | nil => rfl
  | cons i is ih =>
    rw [List.map_cons, List.foldl_cons, ih, byteAt_putByte]
    by_cases hin : a ∈ is
    · rw [if_pos hin, if_pos (List.mem_cons_of_mem i hin)]
    · rw [if_neg hin]
      by_cases ha : a = i
      · rw [if_pos ha, if_pos (List.mem_cons.mpr (.inl ha)), ha]
      · rw [if_neg ha, if_neg (mt List.mem_cons.mp (not_or_intro ha hin))]

/-- The bytes of a store are read back from its line. -/
theorem CacheLine.bytes_write (x : CacheLine) (now ctx : Nat) {off : Nat} {bs : List Byte} (h : off + bs.length ≤ 256) :
    (x.write (rangeMask off bs.length) (lineBytes off bs) now ctx).bytes off bs.length = bs := by
  refine List.ext_getElem (readBytes_length _ _ _) fun i hi hi' => ?_
  have hmem : off + i ∈ (List.range 256).filter fun j => (rangeMask off bs.length).getLsbD j := by
    rw [List.mem_filter, List.mem_range, getLsbD_rangeMask off bs.length (by omega), decide_eq_true_iff]
    omega
  simp only [CacheLine.bytes, CacheLine.write, maskedBytes, readBytes_get, byteAt_foldl_putByte, if_pos hmem, lineBytes, byteAt_writeBytes]
  rw [dif_pos (by omega)]
  simp only [Nat.add_sub_cancel_left]

/-! ## A store of one place (R182, R183, R202, R281, R282) -/

/-- The line that a store makes in an L1 which does not have it. -/
def CacheLine.stored (l : Loc) (cp : CachePol) (bs : List Byte) (now ctx : Nat) : CacheLine :=
  { CacheLine.empty (l.pa / 256) l.cls with victim := cp == CachePol.stream }.write (rangeMask (l.pa % 256) bs.length) (lineBytes (l.pa % 256) bs) now ctx

section
variable {bs : List Byte} {n : Nat} (l : Loc) (cp : CachePol) (now ctx : Nat) (h : bs.length = n)
include h

theorem CacheLine.stored_dirty : (CacheLine.stored l cp bs now ctx).dirty = rangeMask (l.pa % 256) n := by
  rw [← h]
  exact BitVec.zero_or

theorem CacheLine.stored_present : (CacheLine.stored l cp bs now ctx).present = rangeMask (l.pa % 256) n := by
  rw [← h]
  exact BitVec.zero_or

theorem CacheLine.stored_bytes (hline : l.pa % 256 + n ≤ 256) : (CacheLine.stored l cp bs now ctx).bytes (l.pa % 256) n = bs := by
  rw [← h]
  exact CacheLine.bytes_write _ _ _ (by omega)

end

section
variable {s t : State} {l : LaneLoc} {n : Nat} {cp : CachePol} {bs : List Byte} (hq : Quiet s) (hl : NoLines s) (hn : Noted s t) (hp : HbmPlace n l)
include hq hn hp

/-- Where nothing is held back a store is posted to another die's home that the L1 does not keep, or goes to the core's L1. -/
theorem storeLane_of_quiet (id : FragId) (ctx : Nat) (va : Addr) :
    storeLane t id ctx cp va l.loc bs =
      if l.loc.die != dieOfKey id.key && !l1Holds (dieOfKey id.key) l.loc then postStore t id ctx va l.loc bs
      else coreWrite t ctx (coreOfKey id.key) l.loc bs cp := by
  have hbusy : homeBusy t l.loc = false := by rw [hn.rest]; exact hq.homeBusy hp
  have hqueue : lineQueued t l.loc = false := by rw [hn.rest]; exact hq.lineQueued l.loc
  have hbehind : behindOwn t id t.nextMsg l.loc bs.length = false := by rw [hn.rest]; exact hq.behindOwn id _ l.loc _
  have hfail : homeFailed t l.loc = false := by rw [hn.rest]; exact hq.homeFailed hp
  simp only [storeLane, hp.host, hbusy, hqueue, hbehind, hfail, Bool.false_or, Bool.or_false, Bool.false_eq_true, if_false]
  rfl

include hl

/-- A store that its L1 may hold makes a dirty line there, which goes home after 2^16 ticks. -/
theorem storeLane_kept (id : FragId) (ctx : Nat) (va : Addr) (hown : l.loc.die = dieOfKey id.key) (hms : l.loc.ms = false) (hcp : cp = .normal ∨ cp = .stream)
    (hsets : l1Sets (s.core (coreOfKey id.key)) ≠ 0) :
    storeLane t id ctx cp va l.loc bs =
      l1Put (t.post 65536 (.l1WritebackDeadline (coreOfKey id.key) (l.loc.pa / 256))) (coreOfKey id.key) (.stored l.loc cp bs t.now ctx) := by
  have hempty : (t.core (coreOfKey id.key)).l1 = [] := (hn.l1 _).trans (hl.core _)
  have hdie : l.loc.die = dieOfCore (coreOfKey id.key) := hown
  have hholds : l1Holds (dieOfCore (coreOfKey id.key)) l.loc = true := by
    rw [l1Holds, hp.host, hms, hdie, bne_self_eq_false, Bool.and_false]
    rfl
  have hfind : l1Find t (coreOfKey id.key) (l.loc.pa / 256) = none := by rw [l1Find, hempty, List.find?_nil]
  have hmatch : l1Match t (coreOfKey id.key) l.loc = t := by rw [l1Match, hfind]
  have hroom : l1Room t (coreOfKey id.key) (l.loc.pa / 256) = t := by
    rw [l1Room, hempty]
    rfl
  have hmemory : (cp == .memorySide) = false := by rcases hcp with rfl | rfl <;> rfl
  have halloc : (cp == .noAllocate) = false := by rcases hcp with rfl | rfl <;> rfl
  rw [storeLane_of_quiet hq hn hp, hown, bne_self_eq_false, Bool.false_and, if_neg Bool.false_ne_true]
  rw [← hn.l1Sets] at hsets
  simp only [coreWrite, hp.host, hholds, hmemory, halloc, hmatch, hfind, hroom, hsets, Bool.not_true, Bool.or_self, Bool.false_eq_true, if_false]
  rfl

/-- A store that the L1 does not keep is a message to the other die, with no copy on its own die left behind. -/
theorem storeLane_posted (id : FragId) (ctx : Nat) (va : Addr) (hother : l.loc.die ≠ dieOfKey id.key) (hpast : l.loc.ms = true ∨ l.loc.cls = .ucr) :
    storeLane t id ctx cp va l.loc bs =
      ((l1Drop t (coreOfKey id.key) (l.loc.pa / 256)).numberMsg ⟨id, ctx, swellLaunch s id.uid, va, l.loc, .store bs⟩).post
        (20 + 40 * meshHops (dieOfKey id.key) l.loc.die) (.homeWrite s.nextMsg) := by
  have hempty : (t.core (coreOfKey id.key)).l1 = [] := (hn.l1 _).trans (hl.core _)
  have hdie : (l.loc.die != dieOfKey id.key) = true := bne_iff_ne.mpr hother
  have hholds : l1Holds (dieOfKey id.key) l.loc = false := by
    rw [l1Holds, hdie, Bool.and_true]
    rcases hpast with h | h <;> rw [h]
    · rw [Bool.not_true, Bool.and_false, Bool.false_and]
    · exact Bool.and_false _
  have hflush : l1Flush t (coreOfKey id.key) (l.loc.pa / 256) = l1Drop t (coreOfKey id.key) (l.loc.pa / 256) :=
    l1Flush_of_clean (by rw [hempty]; exact nofun) _
  have hpart : partFind (l1Drop t (coreOfKey id.key) (l.loc.pa / 256)) (dieOfCore (coreOfKey id.key)) (l.loc.pa / 256) = none := by
    rw [hn.rest]
    exact hq.partFind _ _
  have hbypass : bypassL1 t (coreOfKey id.key) l.loc = l1Drop t (coreOfKey id.key) (l.loc.pa / 256) := by
    rw [bypassL1, hp.host, hflush, partHome, hpart]
    rfl
  have hlaunch : swellLaunch t id.uid = swellLaunch s id.uid := by rw [hn.rest]; rfl
  have hnext : (l1Drop t (coreOfKey id.key) (l.loc.pa / 256)).nextMsg = s.nextMsg := by rw [hn.rest]; rfl
  have hsend := State.sendMsg_of_no_flight (s := l1Drop t (coreOfKey id.key) (l.loc.pa / 256))
    (m := ⟨id, ctx, swellLaunch s id.uid, va, l.loc, .store bs⟩) hp.host rfl (by rw [hn.rest]; exact hq.stalledOn _ _) (by rw [hn.rest]; exact hq.flights)
  rw [storeLane_of_quiet hq hn hp, hdie, hholds, Bool.not_false, Bool.true_and, if_pos rfl, postStore, hbypass, hlaunch, request,
    if_neg fun h => hother h.1, hsend, hnext]
  rfl

end

/-! ## The end of a store's unit -/

theorem length_storeBytes (sz : MemSize) (g : Nat → Word) : (storeBytes sz ((List.range (sizeRegs sz)).map g)).length = sizeBytes sz := by
  cases sz <;> rfl

theorem SameOutside.l1Find {s t : State} {id : FragId} (h : SameOutside s t id) (c line : Nat) : l1Find t c line = l1Find s c line := by
  rw [Machine.l1Find, Machine.l1Find, h.cores c]

theorem l1Find_l1Put_self (s : State) (c : Nat) (x : CacheLine) : l1Find (l1Put s c x) c x.line = some x := by
  rw [l1Find, l1Put, State.core_updCore, if_pos rfl]
  exact List.find?_cons_of_pos (beq_self_eq_true _)

@[simp] theorem endUnit_due (s : State) (id : FragId) (fm : Form) (pc : Pc) : (s.endUnit id fm pc).due = s.due := by
  rw [(endUnit_sameOutside s id fm pc).rest]
@[simp] theorem endUnit_msgs (s : State) (id : FragId) (fm : Form) (pc : Pc) : (s.endUnit id fm pc).msgs = s.msgs := by
  rw [(endUnit_sameOutside s id fm pc).rest]
@[simp] theorem endUnit_nextMsg (s : State) (id : FragId) (fm : Form) (pc : Pc) : (s.endUnit id fm pc).nextMsg = s.nextMsg := by
  rw [(endUnit_sameOutside s id fm pc).rest]

/-- A unit ends behind an access that leaves memory and the swells alone. -/
theorem accessed_endUnit {s t : State} {w : Swell} {f : Frag} {fm : Form} (h : Runs s w f) (ha : Accessed s t s.cur) (hswells : t.swells = s.swells)
    (hmem : t.mem = s.mem) (hb : fm.brk = false) :
    (∀ a, byteAt (t.endUnit s.cur fm (nextPc f.pc)).mem a = byteAt s.mem a) ∧ Accessed s (t.endUnit s.cur fm (nextPc f.pc)) s.cur ∧
      (t.endUnit s.cur fm (nextPc f.pc)).swellAt s.cur.swell = some (w.setEnt s.cur.ent (f.onward s.now)) := by
  have houtside := endUnit_sameOutside t s.cur fm (nextPc f.pc)
  have hnow : t.now = s.now := by rw [ha.rest]
  have hat : t.swellAt s.cur.swell = some w := by
    rw [State.swellAt, hswells]
    exact h.swellAt.1
  refine ⟨fun a => by rw [houtside.mem, hmem], ha.trans houtside.accessed, ?_⟩
  rw [endUnit_swell hat hb, h.swellAt.2, hnow]
  rfl

/-- A ready word whose body is a store of one place performs it and ends its unit. -/
theorem exec_of_store {i : Instr} {s : State} {w : Swell} {f : Frag} {fm : Form} {regs : List Nat} {l : LaneLoc} {as : List LaneAcc} {data : Nat → List Byte}
    {body : Swell → Frag → Done} (h : Ready s w f fm regs) (hq : Quiet s) (hl : NoLines s) (ho : f.outst = []) (hp : Placed s w f .store as [l])
    (hexec : exec i s = issue fm regs s body) (hbody : body w f = memAccess s w f .store as f.rel fun s ls => performStores s w f data ls) :
    exec i s = .next ((storeLane (s.noteHits w.ctx [l]) s.cur w.ctx f.cp l.va l.loc (data l.lane)).endUnit s.cur fm (nextPc f.pc)) := by
  have hcur : (s.noteHits w.ctx [l]).cur = s.cur := by rw [(noted_noteHits s w.ctx [l]).rest]
  rw [hexec, issue_ready h, hbody, memAccess_of_placed hq hl ho hp, performStores, List.foldl_cons, List.foldl_nil, hcur, Done.settle]

/-- What holds behind the store of one place holds behind ST and SST of it. -/
theorem answers_store {o : MemOp} {s : State} {w : Swell} {f : Frag} {l : LaneLoc} {P : List Byte → State → Prop} (hq : Quiet s) (hl : NoLines s)
    (ho : f.outst = [])
    (hP : ∀ fm bs, Runs s w f → fm.brk = false → bs.length = sizeBytes o.sz →
      P bs ((storeLane (s.noteHits w.ctx [l]) s.cur w.ctx f.cp l.va l.loc bs).endUnit s.cur fm (nextPc f.pc))) :
    (Ready s w f { wide := true, pmx := true, rel := true, cp := true } [o.d.toNat + sizeRegs o.sz - 1, o.a.toNat + 1] →
      Placed s w f .store (memLanes w f o) [l] → Answers (.st o) s (P (storeBytes o.sz (Spec.laneWords w o l.lane)))) ∧
    (Ready s w f { wide := true, rel := true, cp := true } [] → Placed s w f .store (memGroup w f o) [l] →
      Answers (.sst o) s (P (storeBytes o.sz ((List.range (sizeRegs o.sz)).map fun i => w.sreg (o.d + BitVec.ofNat 7 i))))) :=
  ⟨fun h hp => ⟨_, exec_of_store h hq hl ho hp (data := fun lane => storeBytes o.sz (Spec.laneWords w o lane)) rfl rfl,
      hP _ _ h.toRuns rfl (length_storeBytes o.sz _)⟩,
    fun h hp => ⟨_, exec_of_store h hq hl ho hp (data := fun _ => storeBytes o.sz (groupData w o)) rfl rfl, hP _ _ h.toRuns rfl (length_storeBytes o.sz _)⟩⟩

/-- Settles O39: a store that the L1 may hold puts a dirty line there and its deadline among the events; one of another die's home is numbered and sent. -/
theorem storesAreKeptOrPosted : Obligations.StoresAreKeptOrPosted := by
  intro o s w f l hq hl ho n c kept posted st hp
  have hn := noted_noteHits s w.ctx [l]
  have hnow : (s.noteHits w.ctx [l]).now = s.now := by rw [hn.rest]
  have hmem : (s.noteHits w.ctx [l]).mem = s.mem := by rw [hn.rest]
  have hmsgs : (s.noteHits w.ctx [l]).msgs = [] := by rw [hn.rest]; exact hq.msgs
  have hnext : (s.noteHits w.ctx [l]).nextMsg = s.nextMsg := by rw [hn.rest]
  have hswells : (s.noteHits w.ctx [l]).swells = s.swells := by rw [hn.rest]
  refine ⟨fun hown hms hcp hsets => answers_store hq hl ho fun fm bs h hb hlen => ?_,
    fun hr hpast => answers_store hq hl ho fun fm bs h hb hlen => ?_⟩
  · have hacc := ((hn.accessed s.cur).trans (accessed_post _ 65536 (.l1WritebackDeadline c (l.loc.pa / 256)) _)).trans
      (accessed_l1Put _ c (.stored l.loc f.cp bs (s.noteHits w.ctx [l]).now w.ctx) _)
    obtain ⟨hbytes, hframe, hswell⟩ := accessed_endUnit h hacc hswells hmem hb
    rw [storeLane_kept hq hl hn hp s.cur w.ctx l.va hown hms hcp hsets]
    refine ⟨hbytes, hframe, hswell, ?_, _, ((endUnit_sameOutside _ _ _ _).l1Find _ _).trans (l1Find_l1Put_self _ _ _), CacheLine.stored_dirty _ _ _ _ hlen,
      CacheLine.stored_present _ _ _ _ hlen, rfl, CacheLine.stored_bytes _ _ _ _ hlen hp.line⟩
    rw [endUnit_due, ← hnow]
    exact mem_insertDue _ _ _
  · have hacc := ((hn.accessed s.cur).trans (accessed_l1Drop _ c (l.loc.pa / 256) _)).trans
      ((accessed_numberMsg _ ⟨s.cur, w.ctx, swellLaunch s s.cur.uid, l.va, l.loc, .store bs⟩ _).trans
        (accessed_post _ (20 + 40 * meshHops (dieOfKey s.cur.key) l.loc.die) (.homeWrite s.nextMsg) _))
    obtain ⟨hbytes, hframe, hswell⟩ := accessed_endUnit h hacc hswells hmem hb
    rw [storeLane_posted hq hl hn hp s.cur w.ctx l.va hr.other hpast]
    refine ⟨hbytes, hframe, hswell, ?_, ?_, ?_⟩
    · rw [endUnit_msgs, ← hnext]
      exact numberMsg_msgs_of_nil hmsgs _
    · rw [endUnit_nextMsg, ← hnext]
      rfl
    · rw [endUnit_due, ← hnow]
      exact mem_insertDue _ _ _

end Sys2Proof.Machine
